-- ==== Sys2Proof/Word.lean ====
section
/-! DEFINITION. The words the FC2416 moves: bytes of exchange memory and of the scanner links, 16-bit fields,
32-bit registers and counts (spec 12, R165). Everything the manual computes with as a number (steps, level
codes, scores, counts of cells) is a `Nat` or an `Int` elsewhere. -/

namespace Sys2Proof

/-- One byte of exchange memory or of a scanner-link frame. -/
abbrev Byte := BitVec 8

/-- A 2-byte field (R165). -/
abbrev Half := BitVec 16

/-- A 32-bit register or a 4-byte field (R165). -/
abbrev Word := BitVec 32

end Sys2Proof
end

