-- ==== Sys2Proof/Syntax.lean ====
section
/-! DEFINITION. The commands of the FC2416: one constructor for each row of spec/opcode_table.json, which lists
the part's steps, each whole and indivisible (spec 95). A take-up row has no operand: its order stands in cells
the host handed before, and its parameters are read from those cells when it is taken up (R135). -/

namespace Sys2Proof

/-- A register to which a host write is a misuse (R150, spec 12.2). -/
inductive ReadOnlyRegister where
  | id
  | claim
  deriving DecidableEq, Repr

/-- The commands, in the table's order. -/
inductive Instr where
  /-- Take-up of SET PARAMETERS (R4). -/
  | setParameters
  /-- Take-up of DEFINE STAGE (R10). -/
  | defineStage
  /-- Take-up of SET COUPLING (R13). -/
  | setCoupling
  /-- Take-up of ADD EXCLUSION (R15). -/
  | addExclusion
  /-- Take-up of DROP EXCLUSION (R16). -/
  | dropExclusion
  /-- Take-up of DEFINE CHANNEL (R24, R25). -/
  | defineChannel
  /-- Take-up of RETIRE CHANNEL (R26). -/
  | retireChannel
  /-- Take-up of MARK LIVE (R27). -/
  | markLive
  /-- Take-up of MARK IDLE (R28). -/
  | markIdle
  /-- Take-up of RELEASE (R29). -/
  | release
  /-- Take-up of CONFIRM MOVE (R32). -/
  | confirmMove
  /-- Take-up of DECLINE MOVE (R33). -/
  | declineMove
  /-- Take-up of READ CHANNELS (R34). -/
  | readChannels
  /-- Take-up of REBUILD CENSUS (R49). -/
  | rebuildCensus
  /-- Take-up of an internal REBUILD entry (R45). -/
  | rebuild
  /-- One step of a running REBUILD (R45, R47, R48). -/
  | rebuildStep
  /-- Take-up of READ CENSUS (R51). -/
  | readCensus
  /-- Take-up of CHECK LIST (R65). -/
  | checkList
  /-- One entry of a running CHECK LIST (R66). -/
  | checkListEntry
  /-- Take-up of PLACE (R67 to R71). -/
  | place
  /-- One evaluation of the active PLACE (R73 to R76). -/
  | placeStep
  /-- Take-up of PIN (R83, R84). -/
  | pin
  /-- Take-up of REPLACE (R95 to R97). -/
  | replace
  /-- Take-up of an internal AUTO-MOVE entry (R99). -/
  | autoMove
  /-- Take-up of an internal UPKEEP entry (R89). -/
  | upkeep
  /-- One evaluation or fill candidate of a running UPKEEP (R90, R91). -/
  | upkeepStep
  /-- Take-up of REFILL SPARES (R92). -/
  | refillSpares
  /-- One step of a running REFILL SPARES (R93). -/
  | refillSparesStep
  /-- Take-up of READ SPARES (R94). -/
  | readSpares
  /-- Take-up of SET ZONE (R113). -/
  | setZone
  /-- Take-up of PROBE (R114). -/
  | probe
  /-- The deadline of the probe waiting on a link passes (R115). -/
  | probeDeadline (link : Fin 4)
  /-- Take-up of READ SPECTRUM (R117). -/
  | readSpectrum
  /-- Take-up of READ LINKS (R116). -/
  | readLinks
  /-- Take-up of ARM WATCH (R128). -/
  | armWatch
  /-- Take-up of FORCE HIT (R129). -/
  | forceHit
  /-- Take-up of READ WATCH (R130). -/
  | readWatch
  /-- Take-up of CANCEL (R141, R142). -/
  | cancel
  /-- A suspended routine entry resumes (R137). -/
  | resumption
  /-- A host read of CLAIM (R148). -/
  | claim
  /-- A host write to HAND (R149). -/
  | hand (value : Word)
  /-- A host write to GIVE (R150). -/
  | give (value : Word)
  /-- A host write to a register that has no behaviour for it (R150). -/
  | fault (register : ReadOnlyRegister) (value : Word)
  /-- A host write to NOTE (R154). -/
  | note (value : Word)
  /-- A host write to NOTE_ON (R154). -/
  | noteOn (value : Word)
  /-- A host write to NOTE_OFF (R154). -/
  | noteOff (value : Word)
  /-- A CTL write with SOFT and XRESET 0, seen as the switch of RUN (R138, R155). -/
  | ctlRun (run auto : Bool)
  /-- A CTL write with SOFT and XRESET 0, seen as the switch of AUTO (R155). -/
  | ctlAuto (run auto : Bool)
  /-- A CTL write with SOFT 1 (R155, R156). -/
  | softReset (run auto xreset : Bool)
  /-- A CTL write with SOFT 0 and XRESET 1 (R155, R156). -/
  | exchangeReset (run auto : Bool)
  /-- Power is applied (R156). -/
  | powerOnReset
  /-- The end of the reset in progress (R156). -/
  | resetEnd
  /-- A SWEEP frame whose CRC matches, as received on a link (R102 to R106). -/
  | sweep (link : Fin 4) (number first : Half) (stride flags : Byte) (levels : List Byte)
  /-- A valid PROBE ANSWER frame on a link (R115). -/
  | probeAnswer (link : Fin 4) (probeId level : Byte)
  /-- A valid IDLE frame on a link (R103). -/
  | idle (link : Fin 4)
  /-- A frame on a link fails its CRC (R102). -/
  | crcError (link : Fin 4)
  /-- A frame on a link fails its length, type or content check (R102). -/
  | formatError (link : Fin 4)
  /-- No valid frame on a link for the link timeout (R109). -/
  | linkTimeout (link : Fin 4)
  /-- The move timer of a channel expires (R31). -/
  | moveTimerExpiry (channel : Fin 256)
  /-- A host write of bytes to consecutive offsets of the window (R145). -/
  | hostCellWrite (offset : BitVec 18) (data : List Byte)
  deriving DecidableEq, Repr

end Sys2Proof
end

