-- ==== Sys2Proof/Decode.lean ====
section
/-! DEFINITION. The FC2416 fetches no instruction words, and no row of spec/opcode_table.json gives bits. So no
word spells a command. The bytes a scanner sends are decoded in Machine/Receiver.lean. -/

namespace Sys2Proof

/-- The command a table word spells: none, since the table gives no row any bits. -/
def decodeTableWord (_nbits _w : Nat) : Option Instr := none

end Sys2Proof
end

