-- ==== Sys2Proof/Config.lean ====
section
/-! DEFINITION. What is fixed for every FC2416: the limits of its tables, and the free values, which the manual
leaves open. A free value has no body: no proof can see what it is, and a claim holds whatever it is
(notes/assumptions/3.md). -/

namespace Sys2Proof

/-- The value of the ID register: family 0x57A4, revision 1.0 (spec 12.2). -/
def Config.idValue : Word := 0x57A40010#32

/-- The lowest valid step, 400.000 MHz (R2). -/
abbrev Config.stepLow : Nat := 16000

/-- The highest valid step, 1,023.975 MHz (R2). -/
abbrev Config.stepHigh : Nat := 40959

/-- The number of the lowest pool cell (R145). -/
abbrev Config.firstCell : Nat := 9

/-- The greatest count a plane holds (R36). -/
abbrev Config.countLimit : Nat := 65535

/-- The greatest PLACE budget (R3, R67). -/
abbrev Config.budgetLimit : Nat := 16777215

/-- The code the device writes into report heads (spec 12.3). -/
def Config.reportCode : Byte := 0xA0#8

/-- The time a reset lasts, in milliseconds (R156). -/
abbrev Config.resetTime : Nat := 1

/-- The time a probe waits for its answer, in milliseconds (R114). -/
abbrev Config.probeTime : Nat := 250

/-- A byte of a result on whose value the manual is silent, one for each number the model draws. -/
opaque Config.freeByte : Nat → Byte

/-- A 2-byte field of a result on whose value the manual is silent, one for each number the model draws. -/
opaque Config.freeHalf : Nat → Half

end Sys2Proof
end

