-- ==== Sys2Proof/Machine/State.lean ====
section
/-! DEFINITION. The state of the FC2416: the Site Store, the Channel Table, the Intermod Census, the Spare Lists,
the Scanner Links with the Spectrum Map and the Watch of each zone, the Order Engine, the Exchange Port and the
Report Builder (spec 00, Block Overview), with the queue of commands that wait, and a clock. The Evaluator holds
no state (spec 04). -/

namespace Sys2Proof.Machine

/-! ### Names the manual gives (spec 12.3) -/

/-- Bandwidth class (R9, R17). -/
inductive BandwidthClass where
  | narrow
  | standard
  | wide
  deriving DecidableEq, Repr

/-- Exclusion kind (R14). -/
inductive ExclusionKind where
  | broadcast
  | reserved
  | manual
  deriving DecidableEq, Repr

/-- Census state (R42). -/
inductive CensusState where
  | valid
  | stale
  | rebuilding
  deriving DecidableEq, Repr

/-- Census cause (R42). -/
inductive CensusCause where
  | none
  | saturated
  | model
  | abandoned
  deriving DecidableEq, Repr

/-- Freshness state of a zone (R108). -/
inductive Freshness where
  | silent
  | warming
  | fresh
  | stale
  deriving DecidableEq, Repr

/-- Watch mode (R125). -/
inductive WatchMode where
  | latching
  | freeRun
  deriving DecidableEq, Repr

/-- State of a pool cell (R146). -/
inductive CellState where
  | free
  | held
  | queued
  | active
  | delivered
  | building
  deriving DecidableEq, Repr

/-- The orders of the catalogue (spec 9.8, 12.3). -/
inductive OrderCode where
  | setParameters
  | defineStage
  | setCoupling
  | addExclusion
  | dropExclusion
  | defineChannel
  | retireChannel
  | markLive
  | markIdle
  | release
  | readChannels
  | rebuildCensus
  | readCensus
  | checkList
  | place
  | pin
  | replace
  | confirmMove
  | declineMove
  | refillSpares
  | readSpares
  | setZone
  | probe
  | readSpectrum
  | readLinks
  | armWatch
  | forceHit
  | readWatch
  | cancel
  deriving DecidableEq, Repr

/-- Outcome of an order (R140). `part` is PARTIAL. -/
inductive OrderOutcome where
  | done
  | part
  | failed
  | refused
  | cancelled
  deriving DecidableEq, Repr

/-- Reason of an outcome (R140). -/
inductive Reason where
  | none
  | malformed
  | wrongClass
  | badArgument
  | state
  | busy
  | planPresent
  | notFound
  | exists
  | full
  | short
  | noCandidate
  | budget
  | noAnswer
  | linkBusy
  | saturated
  | duplicate
  | emptyRange
  deriving DecidableEq, Repr

/-- Which reset is in progress (R156). -/
inductive ResetKind where
  | powerOn
  | soft
  | exchange
  deriving DecidableEq, Repr

/-- Subject of a report item (R158). -/
inductive Subject where
  | channel (c : Fin 256)
  | zone (z : Fin 4)
  | stage (s : Fin 8)
  deriving DecidableEq, Repr

/-! ### Sparse tables -/

/-- A table over numbered places, as the list of the places that differ from the value an unlisted place has.
The canonical form is `sparseOk` (Machine/Ops.lean). -/
abbrev Sparse (α : Type) := List (Nat × α)

/-- Bytes of exchange memory by window offset. An unlisted byte is 0 (R145). -/
abbrev Memory := List Host.Cell

/-! ### Site Store -/

/-- The working window (R1). -/
structure Window where
  w0 : Nat
  width : Nat
  deriving DecidableEq, Repr

/-- The global parameters (R3). -/
structure Params where
  tIm : Nat
  tSp : Nat
  margin : Nat
  guard3 : Nat
  guard5 : Nat
  imLevel : Nat
  reserve : Nat
  moveWindow : Nat
  linkTimeout : Nat
  budget : Nat
  deriving DecidableEq, Repr

/-- The content of a DEFINED stage record (R9). -/
structure StageRecord where
  zone : Option (Fin 4)
  autoMove : Bool
  low : Nat
  high : Nat
  multiple : Nat
  bandwidth : BandwidthClass
  target : Nat
  deriving DecidableEq, Repr

/-- An exclusion record (R14). -/
structure Exclusion where
  low : Nat
  high : Nat
  mask : BitVec 8
  kind : ExclusionKind
  deriving DecidableEq, Repr

/-- The Site Store (R1 to R16). A stage that is `none` is UNDEFINED. -/
structure Site where
  window : Window
  params : Params
  generation : Word
  stages : Vector (Option StageRecord) 8
  iso : Vector (Vector Nat 8) 8
  exclusions : List Exclusion
  deriving DecidableEq, Repr

/-! ### Channel Table -/

/-- The fields of a channel record that DEFINE CHANNEL sets (R17). -/
structure ChannelFields where
  stage : Fin 8
  low : Nat
  high : Nat
  multiple : Nat
  bandwidth : BandwidthClass
  priority : Nat
  autoMove : Bool
  deriving DecidableEq, Repr

/-- The state of a channel that is not VACANT, with the frequencies it holds and the expiry of its move timer
exactly as the table of R19 gives them for that state. -/
inductive Hold where
  | defined
  | tentative (primary : Nat)
  | placed (primary : Nat)
  | live (primary : Nat)
  | moving (primary secondary expiry : Nat)
  | unresolved (primary secondary : Nat)
  deriving DecidableEq, Repr

/-- A channel record that is not VACANT (R17). The mark is the head cell of the active PLACE whose working set
holds the channel. -/
structure ChannelRecord where
  fields : ChannelFields
  hold : Hold
  mark : Option Nat
  deriving DecidableEq, Repr

/-- The Channel Table (R17, R22). A channel that is `none` is VACANT. -/
structure Plan where
  channels : Vector (Option ChannelRecord) 256
  epoch : Word
  deriving DecidableEq, Repr

/-- One held frequency, seen as a transmitter (R36): its channel, whether it is the channel's secondary, its
stage, its step and the half-width of its channel. -/
structure Transmitter where
  channel : Fin 256
  secondary : Bool
  stage : Fin 8
  step : Nat
  halfWidth : Nat
  deriving DecidableEq, Repr

/-! ### Intermod Census and Spare Lists -/

/-- The Intermod Census (R36, R42). An unlisted bin of a plane has count 0. -/
structure Census where
  state : CensusState
  cause : CensusCause
  plane3 : Vector (Sparse Nat) 8
  plane5 : Vector (Sparse Nat) 8
  deriving DecidableEq, Repr

/-- A spare, or a ranked candidate: a step and its score at selection (R85). -/
structure Spare where
  step : Nat
  score : Nat
  deriving DecidableEq, Repr

/-! ### Work of the Order Engine -/

/-- An order as the Exchange Port recorded it at hand-in (R149): its chain with the head first, its code, its
class and its QUIET flag. -/
structure Handed where
  head : Nat
  rest : List Nat
  code : OrderCode
  urgent : Bool
  quiet : Bool
  deriving DecidableEq, Repr

/-- A waiting entry (spec 9.1). -/
inductive Entry where
  | order (o : Handed)
  | autoMove (channel : Fin 256) (step : Nat)
  | rebuild
  | upkeep (stage : Fin 8)
  deriving DecidableEq, Repr

/-- The grid points of a range: `count` steps from `first`, `multiple` apart (R69). -/
structure Grid where
  first : Nat
  multiple : Nat
  count : Nat
  deriving DecidableEq, Repr

/-- The candidates a PLACE tries for a channel: the preferred frequency if it is on the grid, then the rest of
the grid in ascending order (R70). -/
structure Walk where
  preferred : Option Nat
  grid : Grid
  deriving DecidableEq, Repr

/-- A channel of a PLACE's working set with its walk. -/
structure PlaceItem where
  channel : Fin 256
  walk : Walk
  deriving DecidableEq, Repr

/-- An entry of the solver stack (R71). -/
structure StackEntry where
  item : PlaceItem
  cursor : Nat
  chosen : Option Nat
  deriving DecidableEq, Repr

/-- An entry of a PLACE list after screening (R68): a channel of the working set, or a skipped entry. -/
inductive PlaceEntry where
  | working (channel : Fin 256)
  | skipped (channel : Nat) (reason : Reason)
  deriving DecidableEq, Repr

/-- The working state of an active PLACE (R67 to R76). The stack stands top first; `rest` holds the channels of
the working set whose depth the search has yet to reach, and `unplaced` those BEST_EFFORT has given up. -/
structure PlaceWork where
  order : Handed
  bestEffort : Bool
  strict : Bool
  budget : Nat
  used : Nat
  deepest : Nat
  entries : List PlaceEntry
  stack : List StackEntry
  rest : List PlaceItem
  unplaced : List (Fin 256 × Reason)
  deriving DecidableEq, Repr

/-- The working state of an active CHECK LIST (R65, R66): the entries to judge as {channel, frequency}, the
judged ones as {frequency, verdict word} in list order. -/
structure CheckWork where
  order : Handed
  strict : Bool
  todo : List (Nat × Nat)
  judged : List (Nat × Nat)
  evaluations : Nat
  deriving DecidableEq, Repr

/-- Phase of a REBUILD (R45). -/
inductive RebuildPhase where
  | add
  | sweep
  deriving DecidableEq, Repr

/-- The working state of a REBUILD (R45 to R49). `order` is absent for an internal REBUILD. DESIGN CHOICE: `restarts` has
the width of its field in the result (notes/assumptions/38.md). -/
structure RebuildWork where
  order : Option Handed
  epoch : Word
  generation : Word
  restarts : Word
  phase : RebuildPhase
  position : Nat
  added : Nat
  marked : List (Fin 256)
  deriving DecidableEq, Repr

/-- The working state of an UPKEEP, or of the stage a REFILL SPARES is working (R89 to R91). The rank phase lasts
while `position` is below the count of the grid. -/
structure UpkeepWork where
  stage : Fin 8
  epoch : Word
  grid : Grid
  position : Nat
  ranking : List Spare
  evaluations : Nat
  deriving DecidableEq, Repr

/-- What a REFILL SPARES has found for a stage it has finished (R93). -/
structure RefillResult where
  stage : Fin 8
  evaluations : Nat
  short : Bool
  deriving DecidableEq, Repr

/-- The working state of a REFILL SPARES (R92, R93). -/
structure RefillWork where
  order : Handed
  mask : BitVec 8
  current : Option UpkeepWork
  rest : List (Fin 8)
  finished : List RefillResult
  deriving DecidableEq, Repr

/-- What the routine context holds (R133). `single` is an order that does not yield. -/
inductive Work where
  | single
  | place (w : PlaceWork)
  | check (w : CheckWork)
  | rebuild (w : RebuildWork)
  | upkeep (w : UpkeepWork)
  | refill (w : RefillWork)
  deriving DecidableEq, Repr

/-- The urgent context (R133). -/
inductive UrgentContext where
  | idle
  | running
  deriving DecidableEq, Repr

/-- The routine context (R133). -/
inductive RoutineContext where
  | idle
  | running (w : Work)
  | suspended (w : Work)
  deriving DecidableEq, Repr

/-- The Order Engine (R132, R133). Each list stands oldest first. -/
structure Engine where
  urgent : List Entry
  routine : List Entry
  urgentContext : UrgentContext
  routineContext : RoutineContext
  deriving DecidableEq, Repr

/-- What the arbiter hands out next (R134). -/
inductive Grant where
  | takeUrgent (e : Entry)
  | resume (w : Work)
  | takeRoutine (e : Entry)
  deriving DecidableEq, Repr

/-! ### The Evaluator's view -/

/-- A candidate (R53): its step, the half-width, step multiple and range of its subject, and its stage. -/
structure Candidate where
  step : Nat
  halfWidth : Nat
  multiple : Nat
  range : Option (Nat × Nat)
  stage : Fin 8
  deriving DecidableEq, Repr

/-- A verdict (R53): PASS with its score, or FAIL with the number of the check. -/
inductive Verdict where
  | pass (score : Nat)
  | fail (check : Nat)
  deriving DecidableEq, Repr

/-- Class of a spectrum bin (R112). -/
inductive SpectrumClass where
  | unknown
  | clear
  | marginal
  | occupied
  deriving DecidableEq, Repr

/-! ### Scanner Links, Spectrum Map and Watch -/

/-- A level of a sweep buffer with the steps it covers: `stride` steps from `first` (R104). -/
structure SweepLevel where
  first : Int
  stride : Nat
  level : Nat
  deriving DecidableEq, Repr

/-- A sweep in progress (R101, R105). -/
structure SweepWork where
  number : Half
  last : Int
  damaged : Bool
  buffer : List SweepLevel
  deriving DecidableEq, Repr

/-- A probe that waits in its link's slot (R114). -/
structure ProbeWork where
  order : Handed
  probeId : Byte
  step : Nat
  threshold : Nat
  deadline : Nat
  deriving DecidableEq, Repr

/-- A scanner link (R101, R107). `receiver` holds the bytes of the frame the receiver is inside, from its sync
pair on; an empty list, or the first sync byte alone, is HUNTING (R102). `line` holds bytes that the scanner has
sent and the receiver has yet to take, oldest first: the model's own input. `sent` holds the bytes of the last
frame the device sent on the link. -/
structure Link where
  receiver : List Byte
  sweep : Option SweepWork
  good : Word
  crcErrors : Nat
  formatErrors : Nat
  abandoned : Nat
  damaged : Nat
  stray : Nat
  lastValid : Option Nat
  slot : Option ProbeWork
  probeCounter : Byte
  sent : List Byte
  line : List Byte
  deriving DecidableEq, Repr

/-- The values of a window bin in the Spectrum Map (R110). -/
structure Bin where
  settled : Nat
  sum : Nat
  samples : Nat
  seen : Bool
  deriving DecidableEq, Repr

/-- The settings of a zone (R113). -/
structure ZoneSettings where
  floor : Nat
  clearOffset : Nat
  occupiedOffset : Nat
  period : Nat
  threshold : Nat
  mode : WatchMode
  hostMask : BitVec 64
  correction : Int
  deriving DecidableEq, Repr

/-- A segment record of the Watch (R120). -/
structure Segment where
  reference : Option Nat
  last : Option Nat
  hit : Bool
  frozen : Bool
  deriving DecidableEq, Repr

/-- A zone: freshness, settings, its part of the Spectrum Map by step, the good sweeps counted in the current
period, and its Watch (R108, R110, R113, R120). The group summary is worked out from the hit flags (R126). -/
structure Zone where
  freshness : Freshness
  settings : ZoneSettings
  map : Sparse Bin
  goodSweeps : Nat
  segments : Vector Segment 64
  referencePending : Bool
  deriving DecidableEq, Repr

/-! ### Exchange Port and Report Builder -/

/-- The header cell as the device last wrote it (R147, spec 12.4). -/
structure Header where
  idCopy : Word
  outTotal : Word
  freeCount : Nat
  hostCount : Nat
  urgentCount : Nat
  routineCount : Nat
  planEpoch : Word
  generation : Word
  censusState : CensusState
  censusCause : CensusCause
  freshness : Vector Freshness 4
  pendingCount : Nat
  starved : Nat
  run : Bool
  auto : Bool
  deriving DecidableEq, Repr

/-- What a delivery announces (R152): the head cell, whether it is a REPORT, and the class. -/
structure Announcement where
  cell : Nat
  report : Bool
  urgent : Bool
  deriving DecidableEq, Repr

/-- A slot of the out list: its entry, absent in a zeroed slot, and whether that entry is live (R152). -/
structure OutSlot where
  entry : Option Announcement
  live : Bool
  deriving DecidableEq, Repr

/-- A reset in progress, with the time at which it ends (R156). -/
structure ResetRun where
  kind : ResetKind
  ends : Nat
  deriving DecidableEq, Repr

/-- The Exchange Port (R145 to R157). Place `i` of `cells` is pool cell `9 + i`. `raw` and `enables` carry the
notice bits of spec 12.2. `line` is the notice line (R167), and `readData` what the last register read of the
host returned: the model's own field. -/
structure Port where
  cells : Vector CellState 503
  memory : Memory
  header : Header
  outList : Sparse OutSlot
  outTotal : Word
  backlog : List Announcement
  raw : BitVec 5
  enables : BitVec 5
  run : Bool
  auto : Bool
  reset : Option ResetRun
  line : Bool
  readData : Word
  deriving DecidableEq, Repr

/-- A subject of the pending report set: its flags as spec 12.4 numbers them for its kind, and the segment and
rise of its last HIT mark (R158, R159). -/
structure PendingSubject where
  subject : Subject
  flags : Byte
  hit : Option (Nat × Nat)
  deriving DecidableEq, Repr

/-- The Report Builder (R158 to R163). -/
structure Reports where
  pending : List PendingSubject
  sequence : Word
  starved : Nat
  deriving DecidableEq, Repr

/-! ### The whole state -/

/-- The FC2416. `pending` is the queue of the commands that wait, first in first out; `now` is the time in
milliseconds; `free` counts the free values drawn: the model's own fields. -/
structure State where
  site : Site
  plan : Plan
  census : Census
  spares : Vector (List Spare) 8
  links : Vector Link 4
  zones : Vector Zone 4
  engine : Engine
  port : Port
  reports : Reports
  now : Nat
  free : Nat
  pending : List Instr
  deriving DecidableEq, Repr

/-- The faults of a step: none. The manual gives every command an effect, or says that it is ignored or raises
the FAULT notice, which is a flag of the state and stops nothing (R150, R154). -/
inductive Fault where
  deriving DecidableEq, Repr

/-- The refusals of a step. -/
inductive Refusal where
  /-- Raised by `exec` for a command that has no meaning yet. Safe: the machine stops. -/
  | notModelled (mnemonic : String)
  deriving DecidableEq, Repr

/-! ### Power-on values -/

/-- The power-on window (R1). -/
def Window.powerOn : Window := { w0 := 18800, width := 8192 }

/-- The power-on parameters (R3). -/
def Params.powerOn : Params :=
  { tIm := 25, tSp := 40, margin := 8, guard3 := 2, guard5 := 1, imLevel := 1, reserve := 8,
    moveWindow := 15, linkTimeout := 2000, budget := 1048576 }

/-- The Site Store after power-on (spec 1.8). -/
def Site.powerOn : Site :=
  { window := Window.powerOn, params := Params.powerOn, generation := 0,
    stages := Vector.replicate 8 none, iso := Vector.replicate 8 (Vector.replicate 8 0), exclusions := [] }

/-- The Channel Table after a power-on and a soft reset (R35). -/
def Plan.cleared : Plan := { channels := Vector.replicate 256 none, epoch := 0 }

/-- The census after a power-on and a soft reset, and after a window change (R52, R5). -/
def Census.cleared : Census :=
  { state := .valid, cause := .none, plane3 := Vector.replicate 8 [], plane5 := Vector.replicate 8 [] }

/-- A link after a power-on and a soft reset (R118). -/
def Link.cleared : Link :=
  { receiver := [], sweep := none, good := 0, crcErrors := 0, formatErrors := 0, abandoned := 0,
    damaged := 0, stray := 0, lastValid := none, slot := none, probeCounter := 0, sent := [], line := [] }

/-- The zone settings after power-on (R113). -/
def ZoneSettings.powerOn : ZoneSettings :=
  { floor := 40, clearOffset := 12, occupiedOffset := 30, period := 4, threshold := 12,
    mode := .latching, hostMask := 0, correction := 0 }

/-- A segment record after a power-on and a soft reset, and after a window change (R131). -/
def Segment.cleared : Segment := { reference := none, last := none, hit := false, frozen := false }

/-- A bin after a power-on and a soft reset, and after a window change (R118, R5). -/
def Bin.cleared : Bin := { settled := 0, sum := 0, samples := 0, seen := false }

/-- A zone after power-on (R118, R131). -/
def Zone.powerOn : Zone :=
  { freshness := .silent, settings := ZoneSettings.powerOn, map := [], goodSweeps := 0,
    segments := Vector.replicate 64 Segment.cleared, referencePending := true }

/-- The Order Engine after a power-on and a soft reset (R144). -/
def Engine.cleared : Engine :=
  { urgent := [], routine := [], urgentContext := .idle, routineContext := .idle }

/-- The header with every byte 0, as exchange memory stands when power is applied (R145). -/
def Header.zeroed : Header :=
  { idCopy := 0, outTotal := 0, freeCount := 0, hostCount := 0, urgentCount := 0, routineCount := 0,
    planEpoch := 0, generation := 0, censusState := .valid, censusCause := .none,
    freshness := Vector.replicate 4 .silent, pendingCount := 0, starved := 0, run := false, auto := false }

/-- The header at the end of a power-on reset (R147, R157). -/
def Header.powerOn : Header :=
  { Header.zeroed with idCopy := Config.idValue, freeCount := 503 }

/-- The Report Builder after a power-on and a soft reset (R164). -/
def Reports.cleared : Reports := { pending := [], sequence := 0, starved := 0 }

/-- A zeroed slot of the out list (spec 12.4). -/
def OutSlot.zero : OutSlot := { entry := none, live := false }

/-- The bit of RESET_DONE among the notice bits (spec 12.2). -/
def resetDoneBit : BitVec 5 := 0x08#5

/-- The Exchange Port at the end of a power-on reset (R157). -/
def Port.powerOn : Port :=
  { cells := Vector.replicate 503 .free, memory := [], header := Header.powerOn, outList := [],
    outTotal := 0, backlog := [], raw := resetDoneBit, enables := 0, run := false, auto := false,
    reset := none, line := false, readData := 0 }

/-- The machine right after its power-on reset has ended (spec 1.8, R35, R52, R100, R118, R131, R144, R157,
R164). -/
def State.reset : State :=
  { site := Site.powerOn, plan := Plan.cleared, census := Census.cleared, spares := Vector.replicate 8 [],
    links := Vector.replicate 4 Link.cleared, zones := Vector.replicate 4 Zone.powerOn,
    engine := Engine.cleared, port := Port.powerOn, reports := Reports.cleared,
    now := 0, free := 0, pending := [] }

end Sys2Proof.Machine
end

