-- ==== Sys2Proof/Machine/Flags.lean ====
section
/-! DEFINITION. The notice bits of the Exchange Port (R154, spec 12.2) and the event flags of report subjects
(R158, spec 12.4). -/

namespace Sys2Proof.Machine

/-! ### Notice bits -/

/-- OUT: an out-list entry was written. -/
def outBit : BitVec 5 := 0x01#5

/-- STARVED: a report emission was held back. -/
def starvedBit : BitVec 5 := 0x02#5

/-- FAULT: a register was misused. -/
def faultBit : BitVec 5 := 0x04#5

/-- CENSUS: the census entered STALE from VALID or REBUILDING. -/
def censusBit : BitVec 5 := 0x10#5

/-- Raises a raw flag, whatever its enable (R154). -/
def Port.raise (p : Port) (bit : BitVec 5) : Port := { p with raw := p.raw ||| bit }

/-- Whether the notice interrupt is asserted: some raw flag has its enable set (R154). -/
def Port.asserted (p : Port) : Bool := p.raw &&& p.enables ≠ 0

/-! ### Event flags -/

/-- HIT of a channel. -/
def hitFlag : Byte := 0x01#8

/-- MOVED of a channel. -/
def movedFlag : Byte := 0x02#8

/-- NO_ALTERNATIVE of a channel. -/
def noAlternativeFlag : Byte := 0x04#8

/-- UNRESOLVED of a channel. -/
def unresolvedFlag : Byte := 0x08#8

/-- CONFLICT of a channel. -/
def conflictFlag : Byte := 0x10#8

/-- STALE of a zone. -/
def staleFlag : Byte := 0x01#8

/-- FRESH of a zone. -/
def freshFlag : Byte := 0x02#8

/-- SPARES_SHORT of a stage. -/
def sparesShortFlag : Byte := 0x01#8

end Sys2Proof.Machine
end

