-- ==== Sys2Proof/Machine/Operands.lean ====
section
/-! DEFINITION. How values stand in bytes: the little-endian fields of exchange memory, the codes of spec 12.3, and
the clamps of parameters (spec 12.1, 12.3). -/

namespace Sys2Proof.Machine

/-! ### Fields -/

/-- A number as one byte. -/
def byte (n : Nat) : Byte := BitVec.ofNat 8 n

/-- A number as two bytes, low byte first (R165). -/
def half (n : Nat) : List Byte := [byte n, byte (n / 256)]

/-- A 32-bit value as four bytes, low byte first (R165). -/
def word (w : Word) : List Byte :=
  [byte w.toNat, byte (w.toNat / 256), byte (w.toNat / 65536), byte (w.toNat / 16777216)]

/-- The byte of a Boolean field. -/
def flagByte (b : Bool) : Byte := if b then 1#8 else 0#8

/-- A Boolean as bit `i` of a flag byte. -/
def bitAt (i : Nat) (b : Bool) : Nat := if b then 2 ^ i else 0

/-- A step field: 0xFFFF where no frequency is held (R165). -/
def stepField (f : Option Nat) : List Byte := half (f.getD 0xFFFF)

/-- A byte field for a zone: 0xFF for NONE (R165). -/
def zoneByte (z : Option (Fin 4)) : Byte := byte ((z.map Fin.val).getD 0xFF)

/-- A number from its bytes, low byte first (R165). -/
def littleEndian : List Byte → Nat
  | [] => 0
  | b :: t => b.toNat + 256 * littleEndian t

/-- The eight bytes of a 64-bit mask, low byte first (R165). -/
def maskBytes (m : BitVec 64) : List Byte :=
  (List.range 8).map fun i => byte (m.toNat / 256 ^ i)

/-- The byte of a signed value in two's complement (R165). -/
def signedByte (n : Int) : Byte := BitVec.ofInt 8 n

/-! ### Clamps -/

/-- A value at the nearer end of its range (R3). -/
def clamp (low high n : Nat) : Nat := if n < low then low else if high < n then high else n

/-- A signed value at the nearer end of its range (R113). -/
def clampInt (low high n : Int) : Int := if n < low then low else if high < n then high else n

/-- Whether a step field from the host is a valid step (R2). -/
def validStep (n : Nat) : Bool := Config.stepLow ≤ n ∧ n ≤ Config.stepHigh

/-- Whether a step multiple is one the device knows (R9, R17). -/
def validMultiple (k : Nat) : Bool := k = 1 ∨ k = 2 ∨ k = 4 ∨ k = 5

/-! ### Codes (spec 12.3) -/

/-- Code of an outcome. -/
def OrderOutcome.code : OrderOutcome → Nat
  | .done => 1
  | .part => 2
  | .failed => 3
  | .refused => 4
  | .cancelled => 5

/-- Code of a reason. -/
def Reason.code : Reason → Nat
  | .none => 0
  | .malformed => 1
  | .wrongClass => 2
  | .badArgument => 3
  | .state => 4
  | .busy => 5
  | .planPresent => 6
  | .notFound => 7
  | .exists => 8
  | .full => 9
  | .short => 10
  | .noCandidate => 11
  | .budget => 12
  | .noAnswer => 13
  | .linkBusy => 14
  | .saturated => 15
  | .duplicate => 16
  | .emptyRange => 17

/-- Code of the state of a channel; `none` is VACANT. -/
def channelStateCode : Option ChannelRecord → Nat
  | none => 0
  | some r =>
    match r.hold with
    | .defined => 1
    | .tentative _ => 2
    | .placed _ => 3
    | .live _ => 4
    | .moving _ _ _ => 5
    | .unresolved _ _ => 6

/-- Code of a bandwidth class. -/
def BandwidthClass.code : BandwidthClass → Nat
  | .narrow => 0
  | .standard => 1
  | .wide => 2

/-- The bandwidth class of a code. -/
def bandwidthOf : Nat → Option BandwidthClass
  | 0 => some .narrow
  | 1 => some .standard
  | 2 => some .wide
  | _ => none

/-- Code of an exclusion kind. -/
def ExclusionKind.code : ExclusionKind → Nat
  | .broadcast => 0
  | .reserved => 1
  | .manual => 2

/-- The exclusion kind of a code. -/
def exclusionKindOf : Nat → Option ExclusionKind
  | 0 => some .broadcast
  | 1 => some .reserved
  | 2 => some .manual
  | _ => none

/-- Code of a census state. -/
def CensusState.code : CensusState → Nat
  | .valid => 0
  | .stale => 1
  | .rebuilding => 2

/-- Code of a census cause. -/
def CensusCause.code : CensusCause → Nat
  | .none => 0
  | .saturated => 1
  | .model => 2
  | .abandoned => 3

/-- Code of a freshness state. -/
def Freshness.code : Freshness → Nat
  | .silent => 0
  | .warming => 1
  | .fresh => 2
  | .stale => 3

/-- Code of a watch mode. -/
def WatchMode.code : WatchMode → Nat
  | .latching => 0
  | .freeRun => 1

/-- The watch mode of a code. -/
def watchModeOf : Nat → Option WatchMode
  | 0 => some .latching
  | 1 => some .freeRun
  | _ => none

/-- Code of a spectrum class. -/
def SpectrumClass.code : SpectrumClass → Nat
  | .unknown => 0
  | .clear => 1
  | .marginal => 2
  | .occupied => 3

/-- The order a code names (spec 12.3). -/
def orderOf : Nat → Option OrderCode
  | 0x11 => some .setParameters
  | 0x12 => some .defineStage
  | 0x13 => some .setCoupling
  | 0x14 => some .addExclusion
  | 0x15 => some .dropExclusion
  | 0x21 => some .defineChannel
  | 0x22 => some .retireChannel
  | 0x23 => some .markLive
  | 0x24 => some .markIdle
  | 0x25 => some .release
  | 0x26 => some .readChannels
  | 0x31 => some .rebuildCensus
  | 0x32 => some .readCensus
  | 0x41 => some .checkList
  | 0x51 => some .place
  | 0x52 => some .pin
  | 0x61 => some .replace
  | 0x62 => some .confirmMove
  | 0x63 => some .declineMove
  | 0x64 => some .refillSpares
  | 0x65 => some .readSpares
  | 0x71 => some .setZone
  | 0x72 => some .probe
  | 0x73 => some .readSpectrum
  | 0x74 => some .readLinks
  | 0x81 => some .armWatch
  | 0x82 => some .forceHit
  | 0x83 => some .readWatch
  | 0x91 => some .cancel
  | _ => none

/-- Whether an order may be handed as urgent (R139). -/
def OrderCode.urgentPermitted : OrderCode → Bool
  | .setParameters | .defineStage | .setCoupling | .addExclusion | .dropExclusion => false
  | .setZone | .defineChannel | .retireChannel => false
  | .place | .checkList | .rebuildCensus | .refillSpares => false
  | .replace | .pin | .release | .markLive | .markIdle | .confirmMove | .declineMove => true
  | .cancel | .probe | .armWatch | .forceHit => true
  | .readChannels | .readCensus | .readSpares | .readSpectrum | .readLinks | .readWatch => true

/-- The index of a number below a bound, if it is below it. -/
def index (n m : Nat) : Option (Fin n) := if h : m < n then some ⟨m, h⟩ else none

end Sys2Proof.Machine
end

