-- ==== Sys2Proof/Machine/Ops.lean ====
section
/-! DEFINITION. The named operations over the stores: sparse tables, exchange memory, pool cells, the out list
with its backlog, and delivery (spec 10). -/

namespace Sys2Proof.Machine

/-! ### Sparse tables -/

/-- The value at a place: `d` where the place is unlisted. -/
def sparseGet {α : Type} (d : α) : Sparse α → Nat → α
  | [], _ => d
  | (k, v) :: t, a => if k = a then v else sparseGet d t a

/-- Stores a value at a place, keeping the places in rising order and listing none whose value is `d`. -/
def sparseSet {α : Type} [DecidableEq α] (d : α) : Sparse α → Nat → α → Sparse α
  | [], a, v => if v = d then [] else [(a, v)]
  | (k, w) :: t, a, v =>
    if a < k then (if v = d then (k, w) :: t else (a, v) :: (k, w) :: t)
    else if a = k then (if v = d then t else (a, v) :: t)
    else (k, w) :: sparseSet d t a v

/-- The canonical form: places strictly rising, and none listed with the value `d`. -/
def sparseOk {α : Type} [DecidableEq α] (d : α) : Sparse α → Bool
  | [] => true
  | (k, v) :: t => v ≠ d ∧ (∀ e ∈ t, k < e.1) ∧ sparseOk d t

/-! ### Exchange memory -/

/-- The canonical form of exchange memory. -/
abbrev Memory.wf (m : Memory) : Bool := sparseOk (0#8) m

/-- A byte of exchange memory; 0 where nothing has been written (R145). -/
def Memory.read (m : Memory) (a : Nat) : Byte := sparseGet (0#8) m a

/-- Writes one byte. -/
def Memory.write (m : Memory) (a : Nat) (b : Byte) : Memory := sparseSet (0#8) m a b

/-- Writes bytes to consecutive offsets. -/
def Memory.writeAll (m : Memory) (a : Nat) : List Byte → Memory
  | [] => m
  | b :: t => Memory.writeAll (m.write a b) (a + 1) t

/-- The bytes at consecutive offsets. -/
def Memory.readAll (m : Memory) (a : Nat) : Nat → List Byte
  | 0 => []
  | n + 1 => m.read a :: Memory.readAll m (a + 1) n

/-- The window offset of a byte of a cell (R145). -/
abbrev cellOffset (c i : Nat) : Nat := c * 256 + i

/-- The window offset of a byte of a cell's payload (spec 12.4). -/
abbrev payloadOffset (c i : Nat) : Nat := c * 256 + 16 + i

/-- A field of `n` bytes in a cell's payload. -/
def Port.field (p : Port) (c i n : Nat) : Nat := littleEndian (p.memory.readAll (payloadOffset c i) n)

/-- A field of `n` bytes in a cell's head. -/
def Port.headField (p : Port) (c i n : Nat) : Nat := littleEndian (p.memory.readAll (cellOffset c i) n)

/-! ### Pool cells -/

/-- The place of a pool cell, for a number from 9 to 511 (R145). -/
def poolIndex (c : Nat) : Option (Fin 503) :=
  if Config.firstCell ≤ c then index 503 (c - Config.firstCell) else none

/-- The state of a pool cell; absent for a number that names none. -/
def Port.cell (p : Port) (c : Nat) : Option CellState :=
  (poolIndex c).map fun i => p.cells[i]

/-- Whether the host owns a cell: it is HELD or DELIVERED (R146). -/
def Port.hostSide (p : Port) (c : Nat) : Bool :=
  p.cell c = some .held ∨ p.cell c = some .delivered

/-- Puts a pool cell into a state. -/
def Port.setCell (p : Port) (c : Nat) (st : CellState) : Port :=
  match poolIndex c with
  | some i => { p with cells := p.cells.set i st }
  | none => p

/-- Puts pool cells into a state. -/
def Port.setCells (p : Port) (cs : List Nat) (st : CellState) : Port :=
  cs.foldl (fun q c => q.setCell c st) p

/-- How many cells are FREE (R146). -/
def Port.freeCount (p : Port) : Nat := p.cells.toList.countP (· = .free)

/-- How many cells are HELD or DELIVERED (R146). -/
def Port.hostCount (p : Port) : Nat := p.cells.toList.countP fun st => st = .held ∨ st = .delivered

/-- The lowest-numbered FREE cell (R148). -/
def Port.lowestFree (p : Port) : Option Nat :=
  (p.cells.toList.findIdx? (· = .free)).map (· + Config.firstCell)

/-! ### The out list and its backlog (R152) -/

/-- The slot the next entry goes to. -/
def Port.nextSlot (p : Port) : Nat := p.outTotal.toNat % 512

/-- Whether the next slot holds a live entry. -/
def Port.blocked (p : Port) : Bool := (sparseGet OutSlot.zero p.outList p.nextSlot).live

/-- Writes an entry, increments out total and raises OUT (R151, steps 3 to 5). -/
def Port.writeEntry (p : Port) (a : Announcement) : Port :=
  { p with
    outList := sparseSet OutSlot.zero p.outList p.nextSlot { entry := some a, live := true }
    outTotal := p.outTotal + 1
    raw := p.raw ||| outBit }

/-- Announces a delivery, or holds it when the next slot is live or a delivery is held before it. -/
def Port.announce (p : Port) (a : Announcement) : Port :=
  if p.backlog ≠ [] ∨ p.blocked then { p with backlog := p.backlog ++ [a] } else p.writeEntry a

/-- Writes held deliveries out from the head, and stops at a live slot. -/
def Port.drain : List Announcement → Port → Port
  | [], p => { p with backlog := [] }
  | a :: t, p => if p.blocked then { p with backlog := a :: t } else Port.drain t (p.writeEntry a)

/-- Ends the life of the entries that name a cell and drops its held deliveries: the host gave the cell back or
handed it again. -/
def Port.forget (p : Port) (c : Nat) : Port :=
  { p with
    outList := p.outList.map fun e =>
      (e.1, if (e.2.entry.map Announcement.cell) = some c then { e.2 with live := false } else e.2)
    backlog := p.backlog.filter fun a => a.cell ≠ c }

/-- Lets cells leave the host's side: their entries end, and the backlog is written out as far as it can be. -/
def Port.leave (p : Port) (cs : List Nat) : Port :=
  let q := cs.foldl Port.forget p
  Port.drain q.backlog q

/-! ### Delivery (R151) -/

/-- The cells of a chain, head first. -/
def Handed.cells (o : Handed) : List Nat := o.head :: o.rest

/-- Writes the payloads and the heads of a chain: outcome, reason and byte count of every cell. -/
def writeChain (m : Memory) (outcome : OrderOutcome) (reason : Reason) : List Nat → List (List Byte) → Memory
  | [], _ => m
  | c :: cs, ps =>
    let payload := ps.headD []
    let m1 := m.writeAll (payloadOffset c 0) payload
    let m2 := m1.writeAll (cellOffset c 0) ([byte outcome.code, byte reason.code] ++ half payload.length)
    writeChain m2 outcome reason cs ps.tail

/-- Delivers a chain: the results and heads are written, the cells become DELIVERED, and the delivery is
announced. -/
def Port.deliver (p : Port) (head : Nat) (rest : List Nat) (urgent : Bool) (outcome : OrderOutcome) (reason : Reason)
    (argument : Word) (payloads : List (List Byte)) : Port :=
  let m1 := writeChain p.memory outcome reason (head :: rest) payloads
  let m2 := m1.writeAll (cellOffset head 12) (word argument)
  let q := Port.setCells { p with memory := m2 } (head :: rest) .delivered
  q.announce { cell := head, report := false, urgent := urgent }

/-- Cuts a list into pieces of `n`, with fuel for the number of pieces. -/
def pieces {α : Type} (n : Nat) : Nat → List α → List (List α)
  | 0, _ => []
  | fuel + 1, l => if l = [] then [] else l.take n :: pieces n fuel (l.drop n)

/-! ### Tables by number -/

/-- The stages in ascending number. -/
def allStages : List (Fin 8) := [0, 1, 2, 3, 4, 5, 6, 7]

/-- The zones in ascending number. -/
def allZones : List (Fin 4) := [0, 1, 2, 3]

/-- The channels in ascending number. -/
def allChannels : List (Fin 256) := List.finRange 256

/-- The segments in ascending number. -/
def allSegments : List (Fin 64) := List.finRange 64

/-- The stages a mask names, in ascending number. -/
def stagesOf (mask : BitVec 8) : List (Fin 8) := allStages.filter fun b => mask.getLsbD b

/-- The zones a mask names, in ascending number. DESIGN CHOICE: bits 4 to 7 of the mask of READ LINKS name no zone and are
passed over (R116, notes/assumptions/40.md). -/
def zonesOf (mask : Nat) : List (Fin 4) := allZones.filter fun z => mask.testBit z

end Sys2Proof.Machine
end

