-- ==== Sys2Proof/Machine/Header.lean ====
section
/-! DEFINITION. The header cell and the notice line, which every event brings up to date as it ends (R147, R154,
R167), and the bytes of the window as the host reads them (R145, spec 12.4). -/

namespace Sys2Proof.Machine

/-- The freshness of the four zones. -/
def State.freshnesses (s : State) : Vector Freshness 4 :=
  #v[s.zones[0].freshness, s.zones[1].freshness, s.zones[2].freshness, s.zones[3].freshness]

/-- The values the header mirrors, as the blocks hold them (R147). -/
def State.mirror (s : State) : Header :=
  { idCopy := Config.idValue
    outTotal := s.port.outTotal
    freeCount := s.port.freeCount
    hostCount := s.port.hostCount
    urgentCount := s.engine.urgent.length
    routineCount := s.engine.routine.length
    planEpoch := s.plan.epoch
    generation := s.site.generation
    censusState := s.census.state
    censusCause := s.census.cause
    freshness := s.freshnesses
    pendingCount := s.reports.pending.length
    starved := s.reports.starved
    run := s.port.run
    auto := s.port.auto }

/-- A field of the header after an event: rewritten when the value it mirrors changed (R147). -/
def rewrite {α : Type} [DecidableEq α] (field before after : α) : α := if before = after then field else after

/-- The header after an event that took the mirrored values from `before` to `after`. The ID copy is written at
the end of a reset only. -/
def Header.rewritten (h before after : Header) : Header :=
  { idCopy := h.idCopy
    outTotal := rewrite h.outTotal before.outTotal after.outTotal
    freeCount := rewrite h.freeCount before.freeCount after.freeCount
    hostCount := rewrite h.hostCount before.hostCount after.hostCount
    urgentCount := rewrite h.urgentCount before.urgentCount after.urgentCount
    routineCount := rewrite h.routineCount before.routineCount after.routineCount
    planEpoch := rewrite h.planEpoch before.planEpoch after.planEpoch
    generation := rewrite h.generation before.generation after.generation
    censusState := rewrite h.censusState before.censusState after.censusState
    censusCause := rewrite h.censusCause before.censusCause after.censusCause
    freshness := rewrite h.freshness before.freshness after.freshness
    pendingCount := rewrite h.pendingCount before.pendingCount after.pendingCount
    starved := rewrite h.starved before.starved after.starved
    run := rewrite h.run before.run after.run
    auto := rewrite h.auto before.auto after.auto }

/-- Ends an event that began in `s` and brought the blocks to `t`: the changed fields of the header are rewritten,
and the notice line follows the raw flags and their enables (R147, R154, R167). -/
def State.finish (s t : State) : State :=
  { t with port := { t.port with
      header := s.port.header.rewritten s.mirror t.mirror
      line := t.port.asserted } }

/-- Ends an event that ends a reset: the whole header is written afresh (R147, R156). -/
def State.finishReset (t : State) : State :=
  { t with port := { t.port with header := t.mirror, line := t.port.asserted } }

/-! ### The window as the host reads it (R145) -/

/-- The bytes of the header cell (spec 12.4). -/
def Header.bytes (h : Header) : List Byte :=
  word h.idCopy ++ word h.outTotal ++ half h.freeCount ++ half h.hostCount ++ half h.urgentCount
    ++ half h.routineCount ++ word h.planEpoch ++ word h.generation
    ++ [byte h.censusState.code, byte h.censusCause.code]
    ++ h.freshness.toList.map (fun f => byte f.code)
    ++ half h.pendingCount ++ half h.starved ++ [byte (bitAt 0 h.run + bitAt 1 h.auto)]

/-- The bytes of a slot of the out list (spec 12.4). -/
def OutSlot.bytes (o : OutSlot) : List Byte :=
  match o.entry with
  | none => [0#8, 0#8, 0#8, 0#8]
  | some a => half a.cell ++ [if a.report then 2#8 else 1#8, flagByte a.urgent]

/-- A byte of exchange memory as the host reads it: the header, the out list or a pool cell. -/
def Port.hostByte (p : Port) (offset : Nat) : Byte :=
  if offset < 0x100 then p.header.bytes.getD offset 0#8
  else if offset < 0x900 then
    (sparseGet OutSlot.zero p.outList ((offset - 0x100) / 4)).bytes.getD ((offset - 0x100) % 4) 0#8
  else if offset < 0x20000 then p.memory.read offset
  else 0#8

/-- CTL as a read returns it: SOFT or XRESET reads 1 while its reset is in progress (R155). -/
def Port.ctlValue (p : Port) : Word :=
  BitVec.ofNat 32 (bitAt 0 p.run + bitAt 1 p.auto
    + bitAt 2 (p.reset.map ResetRun.kind = some .soft) + bitAt 3 (p.reset.map ResetRun.kind = some .exchange))

/-- A register as a host read returns it, by its place among the eight; CLAIM is read by its own command (R150,
R154, R155, spec 12.2). -/
def Port.register (p : Port) (i : Nat) : Word :=
  match i with
  | 0 => Config.idValue
  | 1 => p.ctlValue
  | 5 => p.raw.setWidth 32
  | 6 | 7 => p.enables.setWidth 32
  | _ => 0

end Sys2Proof.Machine
end

