-- ==== Sys2Proof/Machine/Model.lean ====
section
/-! DEFINITION. Reading the site model and the plan: the working window, ranges and their grid points, the
neighbourhoods, the held frequencies (spec 01, 02). -/

namespace Sys2Proof.Machine

/-- The half-width of a bandwidth class, in steps (R17). -/
def BandwidthClass.halfWidth : BandwidthClass → Nat
  | .narrow => 2
  | .standard => 4
  | .wide => 8

/-! ### The working window (R1) -/

/-- The top step of the window. -/
def Window.top (w : Window) : Nat := w.w0 + w.width - 1

/-- Whether a step is in the window. -/
def Window.has (w : Window) (n : Nat) : Bool := w.w0 ≤ n ∧ n < w.w0 + w.width

/-- Whether a product's step is in the window; a negative one never is (R37, R39). -/
def Window.hasInt (w : Window) (n : Int) : Bool := (w.w0 : Int) ≤ n ∧ n < (w.w0 + w.width : Nat)

/-- Whether the spans `a` to `b` and `c` to `d` share a step of the window (R2). -/
def Window.share (w : Window) (a b c d : Nat) : Bool := max w.w0 (max a c) ≤ min w.top (min b d)

/-- The steps of the window from `a` to `b`, in ascending order. -/
def Window.steps (w : Window) (a b : Nat) : List Nat :=
  let low := max w.w0 a
  (List.range (min w.top b + 1 - low)).map (low + ·)

/-- A range cut to the window; absent when nothing is left (R18). -/
def Window.clip (w : Window) (low high : Nat) : Option (Nat × Nat) :=
  let l := max low w.w0
  let h := min high w.top
  if l ≤ h then some (l, h) else none

/-! ### Grid points (R69) -/

/-- The multiples of `k` in a range. -/
def gridOf (k : Nat) : Option (Nat × Nat) → Grid
  | none => { first := 0, multiple := k, count := 0 }
  | some (l, h) =>
    let first := (l + k - 1) / k * k
    { first := first, multiple := k, count := if first ≤ h then (h - first) / k + 1 else 0 }

/-- The grid point at a position. -/
def Grid.at (g : Grid) (i : Nat) : Nat := g.first + i * g.multiple

/-- Whether a step is one of the grid points. -/
def Grid.has (g : Grid) (n : Nat) : Bool :=
  g.first ≤ n ∧ (n - g.first) % g.multiple = 0 ∧ (n - g.first) / g.multiple < g.count

/-- All grid points in ascending order. -/
def Grid.points (g : Grid) : List Nat := (List.range g.count).map g.at

/-- The number of candidates of a walk: as many as there are grid points (R70). -/
def Walk.length (w : Walk) : Nat := w.grid.count

/-- The candidate of a walk at a cursor (R70). -/
def Walk.at (w : Walk) (i : Nat) : Nat :=
  match w.preferred with
  | none => w.grid.at i
  | some p =>
    if i = 0 then p
    else if w.grid.at (i - 1) < p then w.grid.at (i - 1) else w.grid.at i

/-! ### Stages and neighbourhoods (R9, R12) -/

/-- The isolation between two stages. -/
def Site.isolation (s : Site) (a b : Fin 8) : Nat := (s.iso[a])[b]

/-- Whether `b` is in N_im of `a`. -/
def Site.nearIm (s : Site) (a b : Fin 8) : Bool := s.isolation a b < s.params.tIm

/-- Whether `b` is in N_sp of `a`. -/
def Site.nearSp (s : Site) (a b : Fin 8) : Bool := s.isolation a b < s.params.tSp

/-- The zone a stage is bound to. An UNDEFINED stage binds no zone. -/
def Site.zoneOf (s : Site) (b : Fin 8) : Option (Fin 4) := s.stages[b].bind StageRecord.zone

/-- The spare target of a stage; an UNDEFINED stage has no spare list. -/
def Site.target (s : Site) (b : Fin 8) : Nat := (s.stages[b].map StageRecord.target).getD 0

/-- Stores a stage record. -/
def Site.setStage (s : Site) (b : Fin 8) (r : StageRecord) : Site := { s with stages := s.stages.set b (some r) }

/-- Stores an isolation for a pair of stages, both ways round (R13). -/
def Site.setIsolation (s : Site) (a b : Fin 8) (n : Nat) : Site :=
  let v := s.iso.set a (s.iso[a].set b n)
  { s with iso := v.set b (v[b].set a n) }

/-- Increments the model generation (R8). -/
def Site.bump (s : Site) : Site := { s with generation := s.generation + 1 }

/-! ### Channels (R17 to R20) -/

/-- The half-width of a channel. -/
def ChannelRecord.halfWidth (r : ChannelRecord) : Nat := r.fields.bandwidth.halfWidth

/-- The effective range of a channel under a window (R18). -/
def ChannelFields.effective (f : ChannelFields) (w : Window) : Option (Nat × Nat) := w.clip f.low f.high

/-- The primary frequency (R19). -/
def Hold.primary : Hold → Option Nat
  | .defined => none
  | .tentative f | .placed f | .live f => some f
  | .moving f _ _ | .unresolved f _ => some f

/-- The secondary frequency (R19). -/
def Hold.secondary : Hold → Option Nat
  | .moving _ g _ | .unresolved _ g => some g
  | _ => none

/-- The frequencies a channel holds, primary first, each with whether it is the secondary. -/
def Hold.frequencies : Hold → List (Bool × Nat)
  | .defined => []
  | .tentative f | .placed f | .live f => [(false, f)]
  | .moving f g _ | .unresolved f g => [(false, f), (true, g)]

/-- The channel records that are not VACANT, in ascending number. -/
def Plan.records (p : Plan) : List (Fin 256 × ChannelRecord) :=
  (allChannels.zip p.channels.toList).filterMap fun e => e.2.map fun r => (e.1, r)

/-- The transmitters of one channel, primary before secondary (R36). -/
def transmittersOf (c : Fin 256) (r : ChannelRecord) : List Transmitter :=
  r.hold.frequencies.map fun e =>
    { channel := c, secondary := e.1, stage := r.fields.stage, step := e.2, halfWidth := r.halfWidth }

/-- Every held frequency as a transmitter, in ascending channel number, primary before secondary (R36, R40). -/
def Plan.transmitters (p : Plan) : List Transmitter :=
  p.records.flatMap fun e => transmittersOf e.1 e.2

/-- Whether any channel holds a frequency. -/
def Plan.held (p : Plan) : Bool := p.transmitters ≠ []

/-- Stores or clears a channel record. -/
def Plan.setChannel (p : Plan) (c : Fin 256) (r : Option ChannelRecord) : Plan :=
  { p with channels := p.channels.set c r }

/-- A channel record of the state. -/
def State.channel (s : State) (c : Fin 256) : Option ChannelRecord := s.plan.channels[c]

/-- Gives a channel another hold: its state with the frequencies of R19. -/
def Plan.setHold (p : Plan) (c : Fin 256) (h : Hold) : Plan :=
  p.setChannel c (p.channels[c].map fun r => { r with hold := h })

/-- A table with a function applied to every place. -/
def mapTable {α β : Type} {n : Nat} (f : α → β) (v : Vector α n) : Vector β n :=
  ⟨(v.toList.map f).toArray, by simp⟩

/-- Clears every working mark (R77, R78). -/
def Plan.clearMarks (p : Plan) : Plan :=
  { p with channels := mapTable (fun r => r.map fun r => { r with mark := none }) p.channels }

end Sys2Proof.Machine
end

