-- ==== Sys2Proof/Machine/Reports.lean ====
section
/-! DEFINITION. The Report Builder: marks, emission under the reserve, report items and heads (spec 11). -/

namespace Sys2Proof.Machine

/-- The item of a channel (R162, spec 12.4). -/
def State.channelItem (s : State) (c : Fin 256) (q : PendingSubject) : List Byte :=
  let r := s.channel c
  let hold := (r.map ChannelRecord.hold).getD .defined
  [1#8, byte c.val, q.flags, byte (channelStateCode r),
    byte ((r.map fun r => r.fields.stage.val).getD 0xFF),
    byte ((q.hit.map Prod.fst).getD 0xFF), byte ((q.hit.map Prod.snd).getD 0), 0#8]
    ++ stepField hold.primary ++ stepField hold.secondary ++ List.replicate 4 0#8

/-- The item of a zone. -/
def State.zoneItem (s : State) (z : Fin 4) (q : PendingSubject) : List Byte :=
  [2#8, byte z.val, q.flags, byte s.zones[z].freshness.code] ++ half s.links[z].good.toNat
    ++ List.replicate 10 0#8

/-- The item of a stage. -/
def State.stageItem (s : State) (b : Fin 8) (q : PendingSubject) : List Byte :=
  [3#8, byte b.val, q.flags, flagByte s.site.stages[b].isSome, byte s.spares[b].length, byte (s.site.target b)]
    ++ List.replicate 10 0#8

/-- The item of a pending subject, stating how the subject stands now (R162). -/
def State.item (s : State) (q : PendingSubject) : List Byte :=
  match q.subject with
  | .channel c => s.channelItem c q
  | .zone z => s.zoneItem z q
  | .stage b => s.stageItem b q

/-- The head of a report cell (R163). -/
def reportHead (items : Nat) (sequence : Word) : List Byte :=
  [byte OrderOutcome.done.code, byte Reason.none.code] ++ half (16 * items) ++ half 0xFFFF
    ++ [Config.reportCode, 0#8] ++ word sequence ++ word (BitVec.ofNat 32 items)

/-- Emits one report of the 15 oldest subjects at most, in the lowest FREE cell (R160). -/
def emitOne (item : PendingSubject → List Byte) (x : Port × Reports) : Port × Reports :=
  match x.1.lowestFree with
  | none => x
  | some c =>
    let taken := x.2.pending.take 15
    let m := (x.1.memory.writeAll (payloadOffset c 0) (taken.flatMap item)).writeAll (cellOffset c 0)
      (reportHead taken.length x.2.sequence)
    let p := Port.setCell (Port.setCell { x.1 with memory := m } c .building) c .delivered
    (p.announce { cell := c, report := true, urgent := false },
      { x.2 with pending := x.2.pending.drop 15, sequence := x.2.sequence + 1 })

/-- Emits while subjects are pending and the free count is above the reserve, `n` reports at most (R160). -/
def emitLoop (item : PendingSubject → List Byte) (reserve : Nat) : Nat → Port × Reports → Port × Reports
  | 0, x => x
  | n + 1, x =>
    if x.2.pending = [] ∨ x.1.freeCount ≤ reserve then x else emitLoop item reserve n (emitOne item x)

/-- One attempt to emit (R160, R161): nothing with an empty set or in a reset; held back at or below the reserve. -/
def emitAttempt (item : PendingSubject → List Byte) (reserve : Nat) (x : Port × Reports) : Port × Reports :=
  if x.2.pending = [] ∨ x.1.reset ≠ none then x
  else if x.1.freeCount ≤ reserve then
    (x.1.raise starvedBit, { x.2 with starved := min (x.2.starved + 1) 65535 })
  else emitLoop item reserve x.2.pending.length x

/-- An attempt to emit, as an operation of the state. -/
def State.attempt (s : State) : State :=
  let x := emitAttempt s.item s.site.params.reserve (s.port, s.reports)
  { s with port := x.1, reports := x.2 }

/-- Adds a flag to a subject's entry, or joins the subject at the tail (R158). A HIT mark replaces the segment and
the rise (R159). -/
def addMark (subject : Subject) (flag : Byte) (hit : Option (Nat × Nat)) : List PendingSubject → List PendingSubject
  | [] => [{ subject := subject, flags := flag, hit := hit }]
  | q :: t =>
    if q.subject = subject then { q with flags := q.flags ||| flag, hit := hit.or q.hit } :: t
    else q :: addMark subject flag hit t

/-- Marks a flag for a subject; every mark is an attempt to emit (R158, R160). -/
def State.mark (s : State) (subject : Subject) (flag : Byte) (hit : Option (Nat × Nat) := none) : State :=
  State.attempt { s with reports := { s.reports with pending := addMark subject flag hit s.reports.pending } }

end Sys2Proof.Machine
end

