-- ==== Sys2Proof/Machine/Engine.lean ====
section
/-! DEFINITION. The Order Engine: the arbiter, take-up, the end of an order, yielding and suspension (R132 to R140),
and the reading of an order's parameters from its cells (R135). -/

namespace Sys2Proof.Machine

/-! ### The arbiter (R134) -/

/-- Whether the routine context is RUNNING. -/
def RoutineContext.isRunning : RoutineContext → Bool
  | .running _ => true
  | _ => false

/-- What the arbiter hands out as the state stands: the three cases of R134. -/
def State.arbiter (s : State) : Option Grant :=
  if !s.port.run || s.engine.urgentContext = .running || s.engine.routineContext.isRunning then none
  else
    match s.engine.urgent, s.engine.routineContext, s.engine.routine with
    | e :: _, _, _ => some (.takeUrgent e)
    | [], .suspended w, _ => some (.resume w)
    | [], _, e :: _ => some (.takeRoutine e)
    | [], _, [] => none

/-- The order the arbiter hands a context to, if its code is the one named, and whether the context is the urgent
one. -/
def State.granted (s : State) (code : OrderCode) : Option (Bool × Handed) :=
  match s.arbiter with
  | some (.takeUrgent (.order o)) => if o.code = code then some (true, o) else none
  | some (.takeRoutine (.order o)) => if o.code = code then some (false, o) else none
  | _ => none

/-- Takes the oldest entry of a list into its context (R135). -/
def Engine.begin (e : Engine) (urgent : Bool) : Engine :=
  if urgent then { e with urgent := e.urgent.tail, urgentContext := .running }
  else { e with routine := e.routine.tail, routineContext := .running .single }

/-- Releases the context that runs: the urgent one if it does, otherwise the routine one. -/
def Engine.release (e : Engine) : Engine :=
  match e.urgentContext with
  | .running => { e with urgentContext := .idle }
  | .idle => { e with routineContext := .idle }

/-- Takes up an order: its entry moves into the context and its cells become ACTIVE (R135, R146). -/
def State.begin (s : State) (urgent : Bool) (o : Handed) : State :=
  { s with
    engine := s.engine.begin urgent
    port := s.port.setCells o.cells .active }

/-- Takes the oldest entry of a list, an internal one, into its context. -/
def State.beginEntry (s : State) (urgent : Bool) : State := { s with engine := s.engine.begin urgent }

/-- Releases the running context. -/
def State.release (s : State) : State := { s with engine := s.engine.release }

/-! ### Outcomes (R140, R151, R153) -/

/-- Ends an order without delivery: its cells become FREE, which is an event on which the Report Builder tries to
emit (R153, R160). DESIGN CHOICE: it tries once, after all the cells are FREE (notes/assumptions/36.md). -/
def State.quietEnd (s : State) (o : Handed) : State :=
  State.attempt { s with port := s.port.setCells o.cells .free }

/-- Hands an outcome to the Exchange Port: a QUIET order that is DONE ends without delivery, any other is
delivered. -/
def State.close (s : State) (o : Handed) (outcome : OrderOutcome) (reason : Reason) (argument : Word)
    (payloads : List (List Byte)) : State :=
  if o.quiet && outcome = .done then s.quietEnd o
  else { s with port := s.port.deliver o.head o.rest o.urgent outcome reason argument payloads }

/-- Ends the order that runs: its outcome is handed over and its context becomes IDLE. -/
def State.conclude (s : State) (o : Handed) (outcome : OrderOutcome) (reason : Reason) (argument : Word)
    (payloads : List (List Byte)) : State :=
  (s.close o outcome reason argument payloads).release

/-- A result of one record in the head cell. -/
def State.done (s : State) (o : Handed) (argument : Word) (result : List Byte) : State :=
  s.conclude o .done .none argument [result]

/-- Turns an order down at its checks: argument 0, no result, and no state changed apart from its cells (R140,
R151). -/
def State.refuse (s : State) (o : Handed) (reason : Reason) : State :=
  s.conclude o .refused reason 0 []

/-- Ends a READ whose records may not fit the chain. When some are left over the order is PARTIAL with reason
SHORT (R151). -/
def State.doneOrShort (s : State) (o : Handed) (short : Bool) (argument : Word) (payloads : List (List Byte)) :
    State :=
  if short then s.conclude o .part .short argument payloads else s.conclude o .done .none argument payloads

/-! ### Yielding (R136) -/

/-- The yield point after a step of the work in the routine context: it is suspended when an urgent entry waits or
RUN is 0. -/
def State.yieldWith (s : State) (w : Work) : State :=
  { s with engine := { s.engine with
      routineContext := if s.engine.urgent ≠ [] ∨ s.port.run = false then .suspended w else .running w } }

/-- Keeps work RUNNING in the routine context without a yield point. -/
def State.runWith (s : State) (w : Work) : State :=
  { s with engine := { s.engine with routineContext := .running w } }

/-- The work that runs in the routine context. -/
def State.running (s : State) : Option Work :=
  match s.engine.routineContext with
  | .running w => some w
  | _ => none

/-! ### Parameters (R135) -/

/-- A parameter of `n` bytes in the head cell's payload. -/
def State.param (s : State) (o : Handed) (i n : Nat) : Nat := s.port.field o.head i n

/-- Parameter records of `size` bytes: `first` of them from offset `start` of the head cell, and `more` in each
further cell, as the offsets at which they stand. -/
def Handed.records (o : Handed) (start size first more : Nat) : List (Nat × Nat) :=
  (List.range first).map (fun i => (o.head, start + size * i)) ++
    o.rest.flatMap fun c => (List.range more).map fun i => (c, size * i)

/-- How many cells a chain has. -/
def Handed.length (o : Handed) : Nat := o.rest.length + 1

/-- A free byte of a result: the `i`th the event draws. -/
def State.freeByte (s : State) (i : Nat) : Byte := Config.freeByte (s.free + i)

/-- A free 2-byte field of a result: the `i`th the event draws. -/
def State.freeHalf (s : State) (i : Nat) : List Byte :=
  [(Config.freeHalf (s.free + i)).extractLsb' 0 8, (Config.freeHalf (s.free + i)).extractLsb' 8 8]

/-- Counts the free values an event has drawn. -/
def State.draw (s : State) (n : Nat) : State := { s with free := s.free + n }

end Sys2Proof.Machine
end

