-- ==== Sys2Proof/Machine/Products.lean ====
section
/-! DEFINITION. The intermodulation products: their formulas, their relevance to a stage, and the counts of a set
of transmitters (R37 to R39, R43). -/

namespace Sys2Proof.Machine

/-- The two-transmitter third-order products of a transmitter with one partner, the one with it doubled first
(R37, R40). -/
def pairThird (x a : Nat) : List Int := [2 * (x : Int) - a, 2 * (a : Int) - x]

/-- The two-transmitter fifth-order products of a transmitter with one partner (R37, R40). -/
def pairFifth (x a : Nat) : List Int := [3 * (x : Int) - 2 * a, 3 * (a : Int) - 2 * x]

/-- The three-transmitter products of a transmitter with two partners (R37, R40). -/
def tripleThird (x a c : Nat) : List Int := [(x : Int) + a - c, (x : Int) + c - a, (a : Int) + c - x]

/-- The unordered pairs of a list, the first of the pair outer (R40). -/
def unorderedPairs {α : Type} : List α → List (α × α)
  | [] => []
  | a :: t => t.map (fun c => (a, c)) ++ unorderedPairs t

/-- The third-order products of a step with partner steps at an IM level: every two-transmitter product before
any three-transmitter one (R37, R40). -/
def thirdWith (level x : Nat) (partners : List Nat) : List Int :=
  partners.flatMap (pairThird x) ++
    (if level = 3 then (unorderedPairs partners).flatMap fun e => tripleThird x e.1 e.2 else [])

/-- The fifth-order products of a step with partner steps at an IM level (R37). -/
def fifthWith (level x : Nat) (partners : List Nat) : List Int :=
  if level = 2 ∨ level = 3 then partners.flatMap (pairFifth x) else []

/-- The steps of the transmitters that are relevant at a stage (R38). -/
def Site.relevant (s : Site) (b : Fin 8) (others : List Transmitter) : List Nat :=
  (others.filter fun a => s.nearIm b a.stage).map Transmitter.step

/-- The third-order products that a transmitter at a stage forms with others and that count at stage `b`
(R37, R38). -/
def Site.third (s : Site) (b stage : Fin 8) (x : Nat) (others : List Transmitter) : List Int :=
  if s.nearIm b stage then thirdWith s.params.imLevel x (s.relevant b others) else []

/-- The fifth-order products that a transmitter at a stage forms with others and that count at stage `b`
(R37, R38). -/
def Site.fifth (s : Site) (b stage : Fin 8) (x : Nat) (others : List Transmitter) : List Int :=
  if s.nearIm b stage then fifthWith s.params.imLevel x (s.relevant b others) else []

/-- The third-order products at stage `b` that have a transmitter of the first list among their generators, the
other generators coming from either list. -/
def Site.thirdOf (s : Site) (b : Fin 8) : List Transmitter → List Transmitter → List Int
  | [], _ => []
  | x :: t, others => s.third b x.stage x.step (t ++ others) ++ s.thirdOf b t others

/-- The fifth-order products at stage `b` that have a transmitter of the first list among their generators. -/
def Site.fifthOf (s : Site) (b : Fin 8) : List Transmitter → List Transmitter → List Int
  | [], _ => []
  | x :: t, others => s.fifth b x.stage x.step (t ++ others) ++ s.fifthOf b t others

/-- How many products of a list land on a bin; a bin outside the window has none (R39). -/
def landing (w : Window) (products : List Int) (bin : Nat) : Nat :=
  if w.has bin then products.count (bin : Int) else 0

end Sys2Proof.Machine
end

