-- ==== Sys2Proof/Machine/Evaluator.lean ====
section
/-! DEFINITION. The Evaluator: checks C1 to C6 and the score (R53 to R64). It holds no state. `set` is the considered
set and `aside` the frequencies set aside (R54). -/

namespace Sys2Proof.Machine

/-! ### Counts of the considered set (R43, R59) -/

/-- The plane3 count of stage `b` at a bin, of the considered set. -/
def State.count3 (s : State) (b : Fin 8) (set aside : List Transmitter) : Nat → Nat :=
  match s.census.state with
  | .valid =>
    let less := s.site.thirdOf b aside set
    fun bin => if s.site.window.has bin then sparseGet 0 s.census.plane3[b] bin - landing s.site.window less bin else 0
  | .stale | .rebuilding =>
    let all := s.site.thirdOf b set []
    landing s.site.window all

/-- The plane5 count of stage `b` at a bin, of the considered set. -/
def State.count5 (s : State) (b : Fin 8) (set aside : List Transmitter) : Nat → Nat :=
  match s.census.state with
  | .valid =>
    let less := s.site.fifthOf b aside set
    fun bin => if s.site.window.has bin then sparseGet 0 s.census.plane5[b] bin - landing s.site.window less bin else 0
  | .stale | .rebuilding =>
    let all := s.site.fifthOf b set []
    landing s.site.window all

/-- Whether the current IM level counts fifth-order products (R37). -/
def Site.fifthCounted (s : Site) : Bool := s.params.imLevel = 2 ∨ s.params.imLevel = 3

/-! ### Checks -/

/-- C1, the range check (R55). -/
def State.check1 (s : State) (c : Candidate) : Bool :=
  s.site.window.has c.step &&
    (match c.range with
     | some (l, h) => decide (l ≤ c.step ∧ c.step ≤ h)
     | none => false) &&
    c.step % c.multiple = 0

/-- C2, the exclusion check (R56). -/
def State.check2 (s : State) (c : Candidate) : Bool :=
  s.site.exclusions.all fun e =>
    !(e.mask.getLsbD c.stage &&
      s.site.window.share e.low e.high (c.step - c.halfWidth) (c.step + c.halfWidth))

/-- The class of a bin (R112). -/
def ZoneSettings.classOf (z : ZoneSettings) (b : Bin) : SpectrumClass :=
  if !b.seen then .unknown
  else if b.settled < z.floor + z.clearOffset then .clear
  else if b.settled < z.floor + z.occupiedOffset then .marginal
  else .occupied

/-- The class of a bin as C3 reads it: in a STALE zone a CLEAR bin is read as MARGINAL (R57). -/
def Zone.readClass (z : Zone) (n : Nat) : SpectrumClass :=
  match z.settings.classOf (sparseGet Bin.cleared z.map n) with
  | .clear => if z.freshness = .stale then .marginal else .clear
  | k => k

/-- C3, the spectrum check (R57). The worst class decides: under STRICT every bin must read CLEAR, otherwise none
may read OCCUPIED. -/
def State.check3 (s : State) (c : Candidate) (strict : Bool) : Bool :=
  match s.site.zoneOf c.stage with
  | none => true
  | some z =>
    (s.site.window.steps (c.step - c.halfWidth) (c.step + c.halfWidth)).all fun n =>
      if strict then s.zones[z].readClass n = .clear else s.zones[z].readClass n ≠ .occupied

/-- The distance between two steps. -/
def distance (a b : Nat) : Nat := (a - b) + (b - a)

/-- The spacing a candidate must keep from a held frequency (R58). -/
def State.spacing (s : State) (c : Candidate) (a : Transmitter) : Nat :=
  c.halfWidth + a.halfWidth + s.site.params.margin

/-- The held frequencies C4 compares with a candidate (R58). -/
def State.compared (s : State) (c : Candidate) (set : List Transmitter) : List Transmitter :=
  set.filter fun a => s.site.nearSp c.stage a.stage

/-- C4, the spacing check (R58). -/
def State.check4 (s : State) (c : Candidate) (set : List Transmitter) : Bool :=
  (s.compared c set).all fun a => s.spacing c a ≤ distance c.step a.step

/-- The bins from `f - g` to `f + g`. -/
def binsAround (f g : Nat) : List Nat := (List.range (2 * g + 1)).map fun i => f - g + i

/-- C5, the on-product check (R59). -/
def State.check5 (s : State) (c : Candidate) (set aside : List Transmitter) : Bool :=
  let n3 := s.count3 c.stage set aside
  let n5 := s.count5 c.stage set aside
  (binsAround c.step s.site.params.guard3).all (fun n => n3 n = 0) &&
    (!s.site.fifthCounted || (binsAround c.step s.site.params.guard5).all (fun n => n5 n = 0))

/-- The receivers at a stage for the products of a candidate: the held frequencies there, and the candidate itself
at its own stage (R60). -/
def Candidate.receivers (c : Candidate) (set : List Transmitter) (b : Fin 8) : List Nat :=
  (set.filter fun a => a.stage = b).map Transmitter.step ++ (if b = c.stage then [c.step] else [])

/-- Whether a product of the window lies within a guard of a receiver (R60). -/
def Window.hurts (w : Window) (guard : Nat) (receivers : List Nat) (p : Int) : Bool :=
  w.hasInt p && receivers.any fun r => ((r : Int) - p).natAbs ≤ guard

/-- C6, the new-product check (R60). -/
def State.check6 (s : State) (c : Candidate) (set : List Transmitter) : Bool :=
  allStages.all fun b =>
    let r := c.receivers set b
    !(s.site.third b c.stage c.step set).any (s.site.window.hurts s.site.params.guard3 r) &&
      !(s.site.fifth b c.stage c.step set).any (s.site.window.hurts s.site.params.guard5 r)

/-! ### Score (R62 to R64) -/

/-- The dP term: the distance to the nearest bin with a count, searched out to 64 steps (R62). -/
def State.termP (s : State) (c : Candidate) (set aside : List Transmitter) : Nat :=
  let n3 := s.count3 c.stage set aside
  let n5 := s.count5 c.stage set aside
  let full := fun n => n3 n ≠ 0 || (s.site.fifthCounted && n5 n ≠ 0)
  (((List.range 64).map (· + 1)).find? fun d => full (c.step - d) || full (c.step + d)).getD 64

/-- The dC term: the least margin beyond the required spacing (R63). -/
def State.termC (s : State) (c : Candidate) (set : List Transmitter) : Nat :=
  match (s.compared c set).map fun a => distance c.step a.step - s.spacing c a with
  | [] => 100
  | d :: t => t.foldl min d

/-- The m2 term: the headroom in codes below the occupied level (R63). -/
def State.termM (s : State) (c : Candidate) : Nat :=
  match s.site.zoneOf c.stage with
  | none => 0
  | some z =>
    let zone := s.zones[z]
    let o := zone.settings.floor + zone.settings.occupiedOffset
    let levels := (s.site.window.steps (c.step - c.halfWidth) (c.step + c.halfWidth)).map fun n =>
      let b := sparseGet Bin.cleared zone.map n
      if b.seen then b.settled else o
    min (o - levels.foldl max 0) 60

/-- The score of a candidate that passes (R64). -/
def State.score (s : State) (c : Candidate) (set aside : List Transmitter) : Nat :=
  8 * min (s.termP c set aside) 64 + 2 * min (s.termC c set) 100 + 5 * min (s.termM c) 60

/-- One evaluation: the checks in ascending order, stopping at the first that fails (R53). -/
def State.evaluate (s : State) (c : Candidate) (set aside : List Transmitter) (strict : Bool) : Verdict :=
  if !s.check1 c then .fail 1
  else if !s.check2 c then .fail 2
  else if !s.check3 c strict then .fail 3
  else if !s.check4 c set then .fail 4
  else if !s.check5 c set aside then .fail 5
  else if !s.check6 c set then .fail 6
  else .pass (s.score c set aside)

/-! ### Candidates -/

/-- A step as a candidate for a channel (R53). -/
def Site.channelCandidate (site : Site) (r : ChannelRecord) (f : Nat) : Candidate :=
  { step := f, halfWidth := r.halfWidth, multiple := r.fields.multiple,
    range := r.fields.effective site.window, stage := r.fields.stage }

/-- A step as a candidate for a stage's spare profile (R53). -/
def Site.spareCandidate (site : Site) (b : Fin 8) (r : StageRecord) (f : Nat) : Candidate :=
  { step := f, halfWidth := r.bandwidth.halfWidth, multiple := r.multiple,
    range := site.window.clip r.low r.high, stage := b }

/-- Evaluates a step for a channel with nothing set aside. -/
def State.evaluateFor (s : State) (r : ChannelRecord) (f : Nat) (strict : Bool) : Verdict :=
  s.evaluate (s.site.channelCandidate r f) s.plan.transmitters [] strict

/-- Evaluates a step for a channel with every frequency of that channel set aside (R54, CHECK LIST). -/
def State.evaluateAlone (s : State) (c : Fin 256) (r : ChannelRecord) (f : Nat) (strict : Bool) : Verdict :=
  s.evaluate (s.site.channelCandidate r f) (s.plan.transmitters.filter fun a => a.channel ≠ c)
    (transmittersOf c r) strict

/-- Evaluates a step for a stage's spare profile (R89, R90). -/
def State.evaluateSpare (s : State) (b : Fin 8) (r : StageRecord) (f : Nat) : Verdict :=
  s.evaluate (s.site.spareCandidate b r f) s.plan.transmitters [] false

/-- The conflict sweep's judgement of a held frequency: C2, C4 and C5 with that frequency set aside (R47). -/
def State.sweepPasses (s : State) (x : Transmitter) : Bool :=
  let c : Candidate :=
    { step := x.step, halfWidth := x.halfWidth, multiple := 1, range := none, stage := x.stage }
  let set := s.plan.transmitters.filter fun a => a ≠ x
  let n3 := s.site.thirdOf x.stage [x] set
  let n5 := s.site.fifthOf x.stage [x] set
  s.check2 c && s.check4 c set &&
    (binsAround x.step s.site.params.guard3).all (fun n =>
      !s.site.window.has n || sparseGet 0 s.census.plane3[x.stage] n - landing s.site.window n3 n = 0) &&
    (!s.site.fifthCounted || (binsAround x.step s.site.params.guard5).all (fun n =>
      !s.site.window.has n || sparseGet 0 s.census.plane5[x.stage] n - landing s.site.window n5 n = 0))

end Sys2Proof.Machine
end

