-- ==== Sys2Proof/Machine/PlanChange.lean ====
section
/-! DEFINITION. The plan-change path: the census update, the spare recheck, the queueing of upkeep and the plan epoch
(R21, R40, R41, R86, R88). -/

namespace Sys2Proof.Machine

/-! ### Census counts (R40, R41) -/

/-- A count to change: its stage, whether it is of plane5, and its bin. -/
abbrev Increment := Fin 8 × Bool × Nat

/-- The bins of the window among products. -/
def Window.binsOf (w : Window) (products : List Int) : List Nat :=
  (products.filter fun p => w.hasInt p).map Int.toNat

/-- The counts a transmitter touches, in the order of R40: the stages ascending, plane3 before plane5. -/
def Site.increments (s : Site) (x : Transmitter) (others : List Transmitter) : List Increment :=
  allStages.flatMap fun b =>
    (s.window.binsOf (s.third b x.stage x.step others)).map (fun n => (b, false, n)) ++
      (s.window.binsOf (s.fifth b x.stage x.step others)).map (fun n => (b, true, n))

/-- A stored count. -/
def Census.count (c : Census) (i : Increment) : Nat :=
  if i.2.1 then sparseGet 0 c.plane5[i.1] i.2.2 else sparseGet 0 c.plane3[i.1] i.2.2

/-- Stores a count. -/
def Census.setCount (c : Census) (i : Increment) (n : Nat) : Census :=
  if i.2.1 then { c with plane5 := c.plane5.set i.1 (sparseSet 0 c.plane5[i.1] i.2.2 n) }
  else { c with plane3 := c.plane3.set i.1 (sparseSet 0 c.plane3[i.1] i.2.2 n) }

/-- Adds one to each count in turn, and stops at the first that stands at the limit. Answers whether one did. -/
def Census.addAll : List Increment → Census → Census × Bool
  | [], c => (c, false)
  | i :: t, c =>
    if c.count i = Config.countLimit then (c, true) else Census.addAll t (c.setCount i (c.count i + 1))

/-- Subtracts one from each count. -/
def Census.removeAll (l : List Increment) (c : Census) : Census :=
  l.foldl (fun c i => c.setCount i (c.count i - 1)) c

/-- Puts the census into STALE with a cause, and raises CENSUS unless it was STALE already (R42). -/
def State.stale (s : State) (cause : CensusCause) : State :=
  { s with
    census := { s.census with state := .stale, cause := cause }
    port := if s.census.state = .stale then s.port else s.port.raise censusBit }

/-! ### Spare recheck and upkeep (R86, R88) -/

/-- The spacing the spares of a profile keep from one another (R85). -/
def Site.spareSpacing (s : Site) (r : StageRecord) : Nat := 2 * r.bandwidth.halfWidth + s.params.margin

/-- Whether a spare passes its recheck: C2, C4, C5 and C6 for the profile (R86). -/
def State.sparePasses (s : State) (b : Fin 8) (r : StageRecord) (f : Nat) : Bool :=
  let c := s.site.spareCandidate b r f
  let set := s.plan.transmitters
  s.check2 c && s.check4 c set && s.check5 c set [] && s.check6 c set

/-- The spares of a list that stay after a recheck, from the top down: those that pass and keep their spacing from
the ones kept above them (R86). -/
def State.keepSpares (s : State) (b : Fin 8) (r : StageRecord) : List Spare → List Spare → List Spare
  | kept, [] => kept
  | kept, x :: t =>
    if s.sparePasses b r x.step && kept.all (fun k => s.site.spareSpacing r ≤ distance k.step x.step) then
      s.keepSpares b r (kept ++ [x]) t
    else s.keepSpares b r kept t

/-- The list of a stage after its recheck. The list of an UNDEFINED stage is left as it is. -/
def State.rechecked (s : State) (b : Fin 8) : List Spare :=
  match s.site.stages[b] with
  | none => s.spares[b]
  | some r => s.keepSpares b r [] s.spares[b]

/-- The work in the routine context, if it holds any. -/
def RoutineContext.work : RoutineContext → Option Work
  | .idle => none
  | .running w | .suspended w => some w

/-- Whether a stage's UPKEEP is active: running, suspended, or worked by a REFILL SPARES (R88). -/
def Engine.upkeepActive (e : Engine) (b : Fin 8) : Bool :=
  match e.routineContext.work with
  | some (.upkeep w) => w.stage = b
  | some (.refill w) => w.current.map UpkeepWork.stage = some b
  | _ => false

/-- Whether a stage needs an UPKEEP entry: it is DEFINED, its list is short, and none is queued or active
(R88). -/
def State.needsUpkeep (s : State) (b : Fin 8) : Bool :=
  s.site.stages[b].isSome && s.spares[b].length < s.site.target b &&
    !s.engine.routine.contains (.upkeep b) && !s.engine.upkeepActive b

/-- The UPKEEP entries a trigger queues for stages, in the order of the list. -/
def State.upkeepEntries (s : State) (stages : List (Fin 8)) : List Entry :=
  (stages.filter fun b => s.needsUpkeep b).map Entry.upkeep

/-- Queues UPKEEP for the stages that one trigger leaves short (R88). An event with several triggers puts the entries of
all of them in order at its end, by `State.inStageOrder`. -/
def State.queueUpkeep (s : State) (stages : List (Fin 8)) : State :=
  { s with engine := { s.engine with routine := s.engine.routine ++ s.upkeepEntries stages } }

/-- The UPKEEP entries that stand on one routine list and not on an earlier one, in ascending stage number. -/
def Engine.joined (e f : Engine) : List Entry :=
  (allStages.filter fun b => !e.routine.contains (.upkeep b) && f.routine.contains (.upkeep b)).map Entry.upkeep

/-- The state `t` at the end of an event that began at `s`, with the UPKEEP entries that the triggers of the event queued
in ascending stage number (R88). A take-up is an event of its own here, also where one command brings about several
(notes/assumptions/35.md). -/
def State.inStageOrder (s t : State) : State :=
  { t with engine := { t.engine with routine := s.engine.routine ++ s.engine.joined t.engine } }

/-- Rechecks the spares of stages and queues UPKEEP where a list is short (R86). -/
def State.recheck (s : State) (stages : List (Fin 8)) : State :=
  State.queueUpkeep { s with spares := stages.foldl (fun v (b : Fin 8) => v.set b (s.rechecked b)) s.spares } stages

/-! ### The path (R21) -/

/-- Increments the plan epoch (R22). -/
def Plan.bump (p : Plan) : Plan := { p with epoch := p.epoch + 1 }

/-- Steps 2 to 5 of the path. The header is rewritten at the end of every event (Machine/Header.lean). -/
def State.settle (s : State) : State :=
  let t := s.recheck allStages
  { t with plan := t.plan.bump }

/-- The other transmitters of a plan. -/
def Plan.others (p : Plan) (x : Transmitter) : List Transmitter := p.transmitters.filter fun a => a ≠ x

/-- The plan-change path for a frequency just added to the table: step 1 adds its products to a VALID census, and
a count at its limit puts the census into STALE (R40, R41). -/
def State.added (s : State) (x : Transmitter) : State :=
  match s.census.state with
  | .valid =>
    let r := Census.addAll (s.site.increments x (s.plan.others x)) s.census
    State.settle (if r.2 then State.stale { s with census := r.1 } .saturated else { s with census := r.1 })
  | .stale | .rebuilding => s.settle

/-- The plan-change path for a frequency just removed from the table (R40). -/
def State.removed (s : State) (x : Transmitter) : State :=
  match s.census.state with
  | .valid => State.settle { s with census := Census.removeAll (s.site.increments x s.plan.transmitters) s.census }
  | .stale | .rebuilding => s.settle

/-- The transmitter a channel forms with a frequency. -/
def ChannelRecord.transmitter (r : ChannelRecord) (c : Fin 256) (secondary : Bool) (f : Nat) : Transmitter :=
  { channel := c, secondary := secondary, stage := r.fields.stage, step := f, halfWidth := r.halfWidth }

/-- Gives a channel a new hold that adds its primary to the plan, and runs the path. -/
def State.addPrimary (s : State) (c : Fin 256) (r : ChannelRecord) (h : Hold) (f : Nat) : State :=
  State.added { s with plan := s.plan.setHold c h } (r.transmitter c false f)

/-- Gives a channel a new hold that removes a frequency from the plan, and runs the path. -/
def State.removeStep (s : State) (c : Fin 256) (r : ChannelRecord) (h : Hold) (secondary : Bool) (f : Nat) : State :=
  State.removed { s with plan := s.plan.setHold c h } (r.transmitter c secondary f)

end Sys2Proof.Machine
end

