-- ==== Sys2Proof/Machine/Watch.lean ====
section
/-! DEFINITION. The Watch: segments, selection, the period end, the routing of hits, and the orders ARM WATCH,
FORCE HIT and READ WATCH (spec 08, R87, R98). -/

namespace Sys2Proof.Machine

/-! ### Segments (R119) -/

/-- The width of a segment. -/
def Window.segmentWidth (w : Window) : Nat := (w.width + 63) / 64

/-- The first step of a segment. -/
def Window.segmentLow (w : Window) (j : Fin 64) : Nat := w.w0 + j.val * w.segmentWidth

/-- The last step of a segment, cut at the top of the window. -/
def Window.segmentHigh (w : Window) (j : Fin 64) : Nat :=
  min w.top (w.w0 + (j.val + 1) * w.segmentWidth - 1)

/-- Whether a segment holds a bin. -/
def Window.segmentFull (w : Window) (j : Fin 64) : Bool := w.segmentLow j ≤ w.top

/-- Whether a frequency with a half-width has an in-window bin in a segment. -/
def Window.inSegment (w : Window) (j : Fin 64) (f halfWidth : Nat) : Bool :=
  w.segmentFull j && w.share (w.segmentLow j) (w.segmentHigh j) (f - halfWidth) (f + halfWidth)

/-- A table with a function applied to every place and its number. -/
def mapPlaces {α β : Type} {n : Nat} (f : Fin n → α → β) (v : Vector α n) : Vector β n :=
  ⟨(((List.finRange n).zip v.toList).map fun e => f e.1 e.2).toArray, by simp⟩

/-- The value of flags in ascending place, the first in bit 0. -/
def bitsOf : List Bool → Nat
  | [] => 0
  | b :: t => (if b then 1 else 0) + 2 * bitsOf t

/-- The group summary: flag g is set while a segment from 8g to 8g + 7 has its hit flag set (R126). -/
def Zone.summary (z : Zone) : Nat :=
  bitsOf ((pieces 8 8 z.segments.toList).map fun g => g.any Segment.hit)

/-! ### The state of a zone and of a link -/

/-- Changes a zone. -/
def State.onZone (s : State) (z : Fin 4) (f : Zone → Zone) : State :=
  { s with zones := s.zones.set z (f s.zones[z]) }

/-- Changes a link. -/
def State.onLink (s : State) (z : Fin 4) (f : Link → Link) : State :=
  { s with links := s.links.set z (f s.links[z]) }

/-- Puts every frozen and hit flag, reference and last code of a zone to the values after a reset (R131). -/
def Zone.clearSegments (z : Zone) : Zone := { z with segments := Vector.replicate 64 Segment.cleared }

/-! ### Selection (R121) -/

/-- Whether a channel's hold makes it watched: it is LIVE, MOVING or UNRESOLVED. -/
def Hold.watched : Hold → Bool
  | .live _ | .moving _ _ _ | .unresolved _ _ => true
  | _ => false

/-- The frequencies, with their half-widths, that select segments in a zone. -/
def State.watchedIn (s : State) (z : Fin 4) : List (Nat × Nat) :=
  (s.plan.records.filter fun e => e.2.hold.watched && s.site.zoneOf e.2.fields.stage = some z).flatMap
      (fun e => e.2.hold.frequencies.map fun f => (f.2, e.2.halfWidth)) ++
    allStages.flatMap fun b =>
      match s.site.stages[b] with
      | some r =>
        if r.zone = some z then s.spares[b].map fun x => (x.step, r.bandwidth.halfWidth) else []
      | none => []

/-- Whether a segment of a zone is selected, given the frequencies that select there. -/
def State.selects (s : State) (z : Fin 4) (watched : List (Nat × Nat)) (j : Fin 64) : Bool :=
  s.site.window.segmentFull j &&
    (s.zones[z].settings.hostMask.getLsbD j ||
      watched.any fun f => s.site.window.inSegment j f.1 f.2)

/-- Whether a segment of a zone is selected at this moment. -/
def State.selected (s : State) (z : Fin 4) (j : Fin 64) : Bool := s.selects z (s.watchedIn z) j

/-! ### The period end (R122, R123, R125) -/

/-- The new code of a segment: the greatest settled code over its seen bins. -/
def Zone.newCode (z : Zone) (w : Window) (j : Fin 64) : Option Nat :=
  (z.map.filter fun e => e.2.seen && decide (w.segmentLow j ≤ e.1 ∧ e.1 ≤ w.segmentHigh j)).foldl
    (fun m e => some (max (m.getD 0) e.2.settled)) none

/-- Whether a rise from a reference to a new code is a hit under a zone's settings. -/
def ZoneSettings.isHit (z : ZoneSettings) (reference code : Nat) : Bool :=
  reference + z.threshold ≤ code ∧ z.floor + z.clearOffset ≤ code

/-- A non-empty segment after a period end, and the rise of its hit if it hit (R122, R123). DESIGN CHOICE: one that is both
unselected and frozen loses its reference, where step 2 of R122 drops it and step 3 keeps it
(notes/assumptions/44.md). -/
def Segment.periodEnd (g : Segment) (settings : ZoneSettings) (selected pending : Bool) (code : Option Nat) :
    Segment × Option Nat :=
  let g1 := { g with last := code.or g.last }
  if !selected then ({ g1 with reference := none }, none)
  else if g.frozen then (g1, none)
  else if pending then ({ g1 with reference := code }, none)
  else
    match code, g.reference with
    | none, _ => (g1, none)
    | some c, none => ({ g1 with reference := some c }, none)
    | some c, some r =>
      if settings.isHit r c then
        ({ g1 with reference := some c, hit := true, frozen := settings.mode = .latching }, some (c - r))
      else ({ g1 with reference := some c }, none)

/-- A segment after the clearing that the mode requires: in FREE_RUN one that did not hit loses its hit flag. -/
def Segment.afterMode (g : Segment) (mode : WatchMode) (rise : Option Nat) : Segment :=
  if mode = .freeRun && rise.isNone then { g with hit := false } else g

/-- The segments of a zone after a period end, each with the rise of its hit. -/
def State.comparedSegments (s : State) (z : Fin 4) : Vector (Segment × Option Nat) 64 :=
  let zone := s.zones[z]
  let watched := s.watchedIn z
  mapPlaces (fun j g =>
    let x := if s.site.window.segmentFull j then
        g.periodEnd zone.settings (s.selects z watched j) zone.referencePending (zone.newCode s.site.window j)
      else (g, none)
    (x.1.afterMode zone.settings.mode x.2, x.2)) zone.segments

/-! ### Routing (R87, R98, R127) -/

/-- Whether a channel in a segment that hit is marked HIT: TENTATIVE is not (R98). -/
def Hold.markedByHit : Hold → Bool
  | .placed _ | .live _ | .moving _ _ _ | .unresolved _ _ => true
  | .defined | .tentative _ => false

/-- The channels that a hit marks: at a stage bound to the zone, with a held frequency in the segment. -/
def State.hitChannels (s : State) (z : Fin 4) (j : Fin 64) : List (Fin 256 × ChannelRecord) :=
  s.plan.records.filter fun e =>
    e.2.hold.markedByHit && s.site.zoneOf e.2.fields.stage = some z &&
      e.2.hold.frequencies.any fun f => s.site.window.inSegment j f.2 e.2.halfWidth

/-- Whether an AUTO-MOVE entry for a channel waits on the urgent list. -/
def Engine.autoMoveQueued (e : Engine) (c : Fin 256) : Bool :=
  e.urgent.any fun x => match x with
    | .autoMove d _ => d = c
    | _ => false

/-- The AUTO-MOVE entry a hit queues for a channel it marks: the channel is LIVE, the three permissions are
present, and none is queued for it (R98). -/
def State.autoMoveFor (s : State) (e : Fin 256 × ChannelRecord) : Option Entry :=
  match e.2.hold with
  | .live f =>
    if s.port.auto && (s.site.stages[e.2.fields.stage].map StageRecord.autoMove).getD false &&
        e.2.fields.autoMove && !s.engine.autoMoveQueued e.1 then some (.autoMove e.1 f) else none
  | _ => none

/-- The AUTO-MOVE entries a hit queues, in ascending channel number. -/
def State.hitMoves (s : State) (z : Fin 4) (j : Fin 64) : List Entry :=
  (s.hitChannels z j).filterMap s.autoMoveFor

/-- The spares of a stage that a hit in a segment drops. -/
def State.hitSpares (s : State) (z : Fin 4) (j : Fin 64) (b : Fin 8) : List Spare :=
  match s.site.stages[b] with
  | some r =>
    if r.zone = some z then s.spares[b].filter fun x => s.site.window.inSegment j x.step r.bandwidth.halfWidth
    else []
  | none => []

/-- Marks HIT for the channels of a hit, in ascending number. -/
def State.markHits (s : State) (j : Fin 64) (rise : Nat) (cs : List (Fin 256 × ChannelRecord)) : State :=
  cs.foldl (fun t e => t.mark (.channel e.1) hitFlag (some (j.val, rise))) s

/-- Queues entries on the urgent list. -/
def State.queueUrgent (s : State) (l : List Entry) : State :=
  { s with engine := { s.engine with urgent := s.engine.urgent ++ l } }

/-- Drops the spares a hit reaches, and queues UPKEEP for each stage bound to the zone that is below its target
after the drop (R87). -/
def State.dropSpares (s : State) (z : Fin 4) (j : Fin 64) : State :=
  let stages := allStages.filter fun b => s.site.zoneOf b = some z
  State.queueUpkeep
    { s with spares := mapPlaces (fun b l => l.filter fun x => !(s.hitSpares z j b).contains x) s.spares } stages

/-- Routes a hit in a segment of a zone (R127). -/
def State.routeHit (s : State) (z : Fin 4) (j : Fin 64) (rise : Nat) : State :=
  ((s.markHits j rise (s.hitChannels z j)).queueUrgent (s.hitMoves z j)).dropSpares z j

/-- Routes the hits of a period end in ascending segment number. -/
def State.routeHits (s : State) (z : Fin 4) : List (Fin 64 × Option Nat) → State
  | [] => s
  | (_, none) :: t => s.routeHits z t
  | (j, some rise) :: t => (s.routeHit z j rise).routeHits z t

/-- The Watch at a period end (R122). -/
def State.watchPeriodEnd (s : State) (z : Fin 4) : State :=
  let after := s.comparedSegments z
  s.inStageOrder <| State.routeHits
    (s.onZone z fun zone => { zone with segments := mapTable Prod.fst after, referencePending := false })
    z (allSegments.zip (after.toList.map Prod.snd))

/-! ### ARM WATCH (R128) -/

/-- A segment that ARM WATCH names. -/
def Segment.armed (g : Segment) : Segment := { g with reference := none, hit := false, frozen := false }

/-- A zone after ARM WATCH. -/
def Zone.arm (z : Zone) (w : Window) (mask : BitVec 64) : Zone :=
  { z with
    segments := mapPlaces (fun j g => if mask.getLsbD j && w.segmentFull j then g.armed else g) z.segments }

/-- How many named segments have their hit flag set. -/
def Zone.hitsNamed (z : Zone) (w : Window) (mask : BitVec 64) : Nat :=
  (allSegments.zip z.segments.toList).countP fun e => mask.getLsbD e.1 && w.segmentFull e.1 && e.2.hit

/-- The procedure of ARM WATCH. -/
def armWatchOrder (o : Handed) (s : State) : State :=
  let mask : BitVec 64 := BitVec.ofNat 64 (s.param o 4 8)
  match index 4 (s.param o 0 1) with
  | none => s.refuse o .badArgument
  | some z =>
    if mask = 0 then s.refuse o .badArgument
    else
      let t := s.onZone z fun zone => zone.arm s.site.window mask
      t.done o 0 [byte (s.zones[z].hitsNamed s.site.window mask), byte t.zones[z].summary]

/-! ### FORCE HIT (R129) -/

/-- A zone with a hit forced in a segment. -/
def Zone.force (z : Zone) (j : Fin 64) : Zone :=
  let g := z.segments[j]
  { z with
    segments := z.segments.set j { g with hit := true, frozen := g.frozen || z.settings.mode = .latching } }

/-- The result of FORCE HIT. -/
def State.forceResult (s : State) (z : Fin 4) (j : Fin 64) : List Byte :=
  half (s.hitChannels z j).length ++ half (s.hitMoves z j).length
    ++ half (allStages.flatMap fun b => s.hitSpares z j b).length

/-- The procedure of FORCE HIT. -/
def forceHitOrder (o : Handed) (s : State) : State :=
  match index 4 (s.param o 0 1), index 64 (s.param o 1 1) with
  | some z, some j =>
    if !s.site.window.segmentFull j then s.refuse o .badArgument
    else State.done ((s.onZone z fun zone => zone.force j).routeHit z j 0) o 0 (s.forceResult z j)
  | _, _ => s.refuse o .badArgument

/-! ### READ WATCH (R130) -/

/-- A code of a segment record: its value, or a free byte where the present bit is clear. -/
def codeByte (code : Option Nat) (free : Byte) : Byte := (code.map byte).getD free

/-- A segment record of the result. -/
def State.segmentRecord (s : State) (z : Fin 4) (watched : List (Nat × Nat)) (j : Fin 64) (g : Segment) :
    List Byte :=
  [codeByte g.reference (s.freeByte (2 * j.val)), codeByte g.last (s.freeByte (2 * j.val + 1)),
    byte (bitAt 0 g.reference.isSome + bitAt 1 g.last.isSome + bitAt 2 g.hit + bitAt 3 g.frozen
      + bitAt 4 (!s.site.window.segmentFull j) + bitAt 5 (s.selects z watched j))]

/-- The result of READ WATCH: a summary of 24 bytes and 64 records of 3. -/
def State.watchResult (s : State) (z : Fin 4) : List Byte :=
  let zone := s.zones[z]
  let watched := s.watchedIn z
  [byte z.val, byte zone.freshness.code, byte zone.settings.mode.code, byte zone.settings.threshold]
    ++ half (zone.settings.floor + zone.settings.clearOffset) ++ half s.site.window.segmentWidth
    ++ [byte (allSegments.countP fun j => s.site.window.segmentFull j), flagByte zone.referencePending,
        byte zone.summary]
    ++ List.replicate 5 0#8 ++ maskBytes zone.settings.hostMask
    ++ (allSegments.zip zone.segments.toList).flatMap fun e => s.segmentRecord z watched e.1 e.2

/-- The procedure of READ WATCH. -/
def readWatchOrder (o : Handed) (s : State) : State :=
  match index 4 (s.param o 0 1) with
  | none => s.refuse o .badArgument
  | some z =>
    (s.draw 128).done o (BitVec.ofNat 32 (s.zones[z].segments.toList.countP Segment.hit)) (s.watchResult z)

end Sys2Proof.Machine
end

