-- ==== Sys2Proof/WellFormed.lean ====
section
/-! DEFINITION. Which commands can occur: a SWEEP command stands for a frame that passed the content check of
R102, and a host write to exchange memory stays inside the window of R145 and off the eight registers, each of
which has commands of its own. -/

namespace Sys2Proof

/-- The strides a SWEEP frame may carry (R102, step 5). -/
def strideOk (stride : Byte) : Bool :=
  stride = 1#8 ∨ stride = 2#8 ∨ stride = 4#8 ∨ stride = 8#8

/-- The level counts a SWEEP frame may carry (R102, step 5). -/
def levelCountOk (levels : List Byte) : Bool :=
  1 ≤ levels.length ∧ levels.length ≤ 1024

/-- Whether the `n` bytes from `offset` lie in the window and touch no register (R145). -/
def hostRangeOk (offset n : Nat) : Bool :=
  0 < n ∧ offset + n ≤ 0x40000 ∧ (offset + n ≤ 0x20000 ∨ 0x20020 ≤ offset)

/-- The commands that can occur. -/
def Instr.wellFormed : Instr → Bool
  | .sweep _ _ _ stride _ levels => strideOk stride && levelCountOk levels
  | .hostCellWrite offset data => hostRangeOk offset.toNat data.length
  | _ => true

end Sys2Proof
end

