-- ==== Sys2Proof/Machine/Spectrum.lean ====
section
/-! DEFINITION. The Spectrum Map and the scanner links: freshness, sweep assembly, integration and the period end
(R103 to R111). -/

namespace Sys2Proof.Machine

/-! ### The Spectrum Map (R110, R111) -/

/-- A function applied to every listed place; a place that takes the value `d` is no longer listed. -/
def sparseMap {α : Type} [DecidableEq α] (d : α) (f : α → α) (l : Sparse α) : Sparse α :=
  (l.map fun e => (e.1, f e.2)).filter fun e => e.2 ≠ d

/-- A bin with one more level. -/
def Bin.add (b : Bin) (level : Nat) : Bin := { b with sum := b.sum + level, samples := b.samples + 1 }

/-- A bin after a period end: the floor of the mean where there are samples. -/
def Bin.settle (b : Bin) : Bin :=
  if b.samples = 0 then { b with sum := 0 }
  else { settled := b.sum / b.samples, sum := 0, samples := 0, seen := true }

/-- A bin with its accumulator and sample count cleared. -/
def Bin.restart (b : Bin) : Bin := { b with sum := 0, samples := 0 }

/-- Adds a level to a bin of a map. -/
def addLevel (level : Nat) (m : Sparse Bin) (n : Nat) : Sparse Bin :=
  sparseSet Bin.cleared m n ((sparseGet Bin.cleared m n).add level)

/-- The window bins a level covers. -/
def SweepLevel.bins (l : SweepLevel) (w : Window) : List Nat :=
  w.binsOf ((List.range l.stride).map fun i => l.first + i)

/-- Applies the levels of a good sweep to a map (R106, R110). -/
def integrate (w : Window) (buffer : List SweepLevel) (m : Sparse Bin) : Sparse Bin :=
  buffer.foldl (fun m l => (l.bins w).foldl (addLevel l.level) m) m

/-- Restarts the integration period of a zone. -/
def Zone.restartPeriod (z : Zone) : Zone :=
  { z with map := sparseMap Bin.cleared Bin.restart z.map, goodSweeps := 0 }

/-- A zone with its bins settled and its period over (R111, steps 1 to 3). -/
def Zone.settlePeriod (z : Zone) : Zone :=
  { z with map := sparseMap Bin.cleared Bin.settle z.map, goodSweeps := 0 }

/-! ### Freshness (R108, R109) -/

/-- The entry of a zone into WARMING, which sets the reference-pending mark (R108, R124). -/
def Zone.warm (z : Zone) : Zone := { z with freshness := .warming, referencePending := true }

/-- Step 4 of a period end: a WARMING zone becomes FRESH, and the flag FRESH is marked. -/
def State.freshen (s : State) (z : Fin 4) : State :=
  if s.zones[z].freshness = .warming then
    (s.onZone z fun zone => { zone with freshness := .fresh }).mark (.zone z) freshFlag
  else s

/-- The end of an integration period (R111). -/
def State.periodEnd (s : State) (z : Fin 4) : State :=
  ((s.onZone z Zone.settlePeriod).freshen z).watchPeriodEnd z

/-- Abandons the sweep in progress on a link, if there is one (R105). -/
def Link.abandon (l : Link) : Link :=
  if l.sweep.isSome then { l with sweep := none, abandoned := min (l.abandoned + 1) 255 } else l

/-- The expiry of a link timeout (R109). -/
def State.goStale (s : State) (z : Fin 4) : State :=
  let t := (s.onZone z fun zone => { zone with freshness := .stale }).mark (.zone z) staleFlag
  (t.onLink z Link.abandon).onZone z Zone.restartPeriod

/-- Whether a freshness state has a timeout that runs. -/
def Freshness.timed : Freshness → Bool
  | .warming | .fresh => true
  | .silent | .stale => false

/-- The time at which the link timeout of a zone expires, if it runs (R109). DESIGN CHOICE: a zone that a window change puts
into WARMING with this time already passed stays WARMING in that event, and its timeout is due at once as an event of its
own; R5 and R109 do not say when it expires (notes/assumptions/43.md). -/
def State.timeoutAt (s : State) (z : Fin 4) : Option Nat :=
  if s.zones[z].freshness.timed then s.links[z].lastValid.map (· + s.site.params.linkTimeout) else none

/-! ### Valid frames and sweeps (R103 to R106) -/

/-- Steps 1 to 3 of a valid frame (R103). -/
def State.validFrame (s : State) (z : Fin 4) : State :=
  let t := s.onLink z fun l => { l with receiver := [], lastValid := some s.now, good := l.good + 1 }
  t.onZone z fun zone => if zone.freshness.timed then zone else zone.warm

/-- The levels of a frame that cover a step of the band, each with the steps it covers (R104). -/
def keptLevels (first : Int) (stride : Nat) : List Byte → List SweepLevel
  | [] => []
  | l :: t =>
    (if (Config.stepLow : Int) ≤ first + stride - 1 ∧ first ≤ Config.stepHigh then
      [{ first := first, stride := stride, level := l.toNat }] else []) ++ keptLevels (first + stride) stride t

/-- The sweep in progress after a frame's levels have been met (R105), and whether a sweep was abandoned. -/
def assemble (sweep : Option SweepWork) (number : Half) (first last : Int) (levels : List SweepLevel) :
    SweepWork × Bool :=
  match sweep with
  | none => ({ number := number, last := last, damaged := false, buffer := levels }, false)
  | some w =>
    if w.number = number then
      if w.last < first then ({ w with last := last, buffer := w.buffer ++ levels }, false)
      else ({ w with damaged := true }, false)
    else ({ number := number, last := last, damaged := false, buffer := levels }, true)

/-- A link that takes a sweep as assembled. -/
def Link.assembled (l : Link) (x : SweepWork × Bool) : Link :=
  { l with sweep := some x.1, abandoned := if x.2 then min (l.abandoned + 1) 255 else l.abandoned }

/-- A link whose sweep has ended, damaged or not (R106). -/
def Link.ended (l : Link) (damaged : Bool) : Link :=
  { l with sweep := none, damaged := if damaged then min (l.damaged + 1) 255 else l.damaged }

/-- A good sweep integrated into a zone (R110). -/
def Zone.integrated (z : Zone) (w : Window) (buffer : List SweepLevel) : Zone :=
  { z with map := integrate w buffer z.map, goodSweeps := z.goodSweeps + 1 }

/-- The end of a sweep on its LAST frame (R106), with the period end that it brings about. -/
def State.sweepEnd (s : State) (z : Fin 4) (w : SweepWork) : State :=
  let t := s.onLink z fun l => l.ended w.damaged
  if w.damaged then t
  else
    let u := t.onZone z fun zone => zone.integrated s.site.window w.buffer
    if u.zones[z].settings.period ≤ u.zones[z].goodSweeps then u.periodEnd z else u

/-- The effect of a SWEEP frame on its link (R104, R105). -/
def State.sweepFrame (s : State) (z : Fin 4) (number first : Half) (stride flags : Byte) (levels : List Byte) :
    State :=
  let f : Int := first.toNat + s.zones[z].settings.correction
  let last : Int := f + levels.length * stride.toNat - 1
  let x := assemble s.links[z].sweep number f last (keptLevels f stride.toNat levels)
  let t := s.onLink z fun l => l.assembled x
  if flags.getLsbD 0 then t.sweepEnd z x.1 else t

/-- Marks the sweep in progress on a link damaged, if there is one (R102). -/
def Link.damage (l : Link) : Link := { l with sweep := l.sweep.map fun w => { w with damaged := true } }

/-- A format error on a link (R102, R107). -/
def State.formatErrorOn (s : State) (z : Fin 4) : State :=
  s.onLink z fun l => { l.damage with receiver := [], formatErrors := min (l.formatErrors + 1) 255 }

/-! ### Commands -/

/-- An IDLE frame. -/
def execIdle (link : Fin 4) (s : State) : Host.Outcome State Fault Refusal :=
  .next (s.finish (s.validFrame link))

/-- A frame that fails its CRC. -/
def execCrcError (link : Fin 4) (s : State) : Host.Outcome State Fault Refusal :=
  .next (s.finish (s.onLink link fun l =>
    { l.damage with receiver := [], crcErrors := min (l.crcErrors + 1) 255 }))

/-- A frame that fails its length, type or content check. -/
def execFormatError (link : Fin 4) (s : State) : Host.Outcome State Fault Refusal :=
  .next (s.finish (s.formatErrorOn link))

/-- The timeout of a link expires. It runs only in WARMING and FRESH; the clock then stands at the expiry or
later (notes/assumptions/5.md). -/
def execLinkTimeout (link : Fin 4) (s : State) : Host.Outcome State Fault Refusal :=
  match s.timeoutAt link with
  | none => .next s
  | some t => .next (s.finish (State.goStale { s with now := max s.now t } link))

end Sys2Proof.Machine
end

