-- ==== Sys2Proof/Machine/SiteOrders.lean ====
section
/-! DEFINITION. The orders that write the site model: SET PARAMETERS, DEFINE STAGE, SET COUPLING, ADD EXCLUSION and
DROP EXCLUSION (R1 to R16). -/

namespace Sys2Proof.Machine

/-! ### SET PARAMETERS (R3 to R8) -/

/-- Whether a window is one the device takes (R1, R4). -/
def Window.ok (w : Window) : Bool :=
  64 ≤ w.width ∧ w.width ≤ 8192 ∧ Config.stepLow ≤ w.w0 ∧ w.w0 + w.width - 1 ≤ Config.stepHigh

/-- The parameters stored from the values sent, each after its clamp (R3). -/
def Params.clamped (p : Params) : Params :=
  let sp := clamp 1 90 p.tSp
  { tIm := min (clamp 1 90 p.tIm) sp
    tSp := sp
    margin := clamp 0 40 p.margin
    guard3 := clamp 0 16 p.guard3
    guard5 := clamp 0 16 p.guard5
    imLevel := p.imLevel
    reserve := clamp 0 64 p.reserve
    moveWindow := clamp 1 120 p.moveWindow
    linkTimeout := clamp 500 10000 (p.linkTimeout / 100 * 100)
    budget := clamp 1 Config.budgetLimit p.budget }

/-- The clamp marks of values sent (spec 12.5). -/
def Params.marks (p : Params) : Nat :=
  let q := p.clamped
  bitAt 0 (q.tIm ≠ p.tIm) + bitAt 1 (q.tSp ≠ p.tSp) + bitAt 2 (q.margin ≠ p.margin)
    + bitAt 3 (q.guard3 ≠ p.guard3) + bitAt 4 (q.guard5 ≠ p.guard5) + bitAt 5 (q.reserve ≠ p.reserve)
    + bitAt 6 (q.moveWindow ≠ p.moveWindow) + bitAt 7 (q.linkTimeout ≠ p.linkTimeout)
    + bitAt 8 (q.budget ≠ p.budget)

/-- Whether a check parameter differs (R6). -/
def Params.checkChange (p q : Params) : Bool :=
  p.tIm ≠ q.tIm ∨ p.tSp ≠ q.tSp ∨ p.margin ≠ q.margin ∨ p.guard3 ≠ q.guard3 ∨ p.guard5 ≠ q.guard5
    ∨ p.imLevel ≠ q.imLevel

/-- The window and the parameters as SET PARAMETERS returns them. -/
def Site.parameterBytes (s : Site) : List Byte :=
  let p := s.params
  half s.window.w0 ++ half s.window.width
    ++ [byte p.tIm, byte p.tSp, byte p.margin, byte p.guard3, byte p.guard5, byte p.imLevel, byte p.reserve, 0#8]
    ++ half p.moveWindow ++ half p.linkTimeout ++ word (BitVec.ofNat 32 p.budget)

/-- A zone at an accepted window change (R5, steps 5 to 7). -/
def Zone.newWindow (z : Zone) : Zone :=
  let y := { z.clearSegments with map := [], goodSweeps := 0 }
  if z.freshness = .silent then y else y.warm

/-- The effects of a window change, the window stored already (R5, steps 3 to 7). -/
def State.windowChanged (s : State) : State :=
  State.queueUpkeep
    { s with
      census := Census.cleared
      spares := Vector.replicate 8 []
      zones := mapTable Zone.newWindow s.zones }
    allStages

/-- Queues an internal REBUILD unless one is queued (R44). -/
def State.queueRebuild (s : State) : State :=
  if s.engine.routine.contains .rebuild then s
  else { s with engine := { s.engine with routine := s.engine.routine ++ [.rebuild] } }

/-- The effects of a change to a check parameter or to the coupling, the values stored already (R6, R13). -/
def State.modelChanged (s : State) : State :=
  (if s.plan.held then (s.stale .model).queueRebuild else s).recheck allStages

/-- Whether the time since a zone's last valid frame has reached the stored link timeout. -/
def State.overdue (s : State) (z : Fin 4) : Bool :=
  match s.timeoutAt z with
  | some t => t ≤ s.now
  | none => false

/-- The effect of a lowered link timeout (R7, R109). DESIGN CHOICE: the zones that it makes STALE in this event are marked
in ascending number, on which the manual is silent (notes/assumptions/32.md). -/
def State.timeoutLowered (s : State) : State :=
  allZones.foldl (fun t z => if t.overdue z then t.goStale z else t) s

/-- Stores a window and parameters, and increments the generation if a value that counts for it changed (R8). -/
def Site.store (s : Site) (w : Window) (p : Params) : Site :=
  { s with
    window := w
    params := p
    generation := if s.window ≠ w ∨ s.params.checkChange p then s.generation + 1 else s.generation }

/-- An accepted SET PARAMETERS: the values are stored, then R5, R6 and R7 apply for those that changed. R4 states no order
between the three. DESIGN CHOICE: they apply in this order, so that a changed window puts the zones into WARMING before a
lowered link timeout is held against them (notes/assumptions/41.md). DESIGN CHOICE: within R7 a changed reserve makes its
attempt to emit before a lowered link timeout marks zones STALE (notes/assumptions/37.md). -/
def State.storeParameters (s : State) (w : Window) (p : Params) : State :=
  let s1 := { s with site := s.site.store w p }
  let s2 := if s.site.window ≠ w then s1.windowChanged else s1
  let s3 := if s.site.params.checkChange p then s2.modelChanged else s2
  let s4 := if s.site.params.reserve ≠ p.reserve then s3.attempt else s3
  if p.linkTimeout < s.site.params.linkTimeout then s4.timeoutLowered else s4

/-- The window SET PARAMETERS carries. -/
def State.sentWindow (s : State) (o : Handed) : Window := { w0 := s.param o 0 2, width := s.param o 2 2 }

/-- The parameters SET PARAMETERS carries. -/
def State.sentParams (s : State) (o : Handed) : Params :=
  { tIm := s.param o 4 1, tSp := s.param o 5 1, margin := s.param o 6 1, guard3 := s.param o 7 1,
    guard5 := s.param o 8 1, imLevel := s.param o 9 1, reserve := s.param o 10 1, moveWindow := s.param o 12 2,
    linkTimeout := s.param o 14 2, budget := s.param o 16 4 }

/-- The procedure of SET PARAMETERS (R4). -/
def setParametersOrder (o : Handed) (s : State) : State :=
  let w := s.sentWindow o
  let p := s.sentParams o
  if !w.ok then s.refuse o .badArgument
  else if p.imLevel ≠ 1 ∧ p.imLevel ≠ 2 ∧ p.imLevel ≠ 3 then s.refuse o .badArgument
  else if s.site.window ≠ w ∧ s.plan.held then s.refuse o .planPresent
  else
    let t := s.storeParameters w p.clamped
    t.done o 0 (t.site.parameterBytes ++ half p.marks)

/-! ### DEFINE STAGE (R10, R11) -/

/-- The zone a binding byte names: 0 to 3, or NONE; absent for any other byte. -/
def zoneBinding (n : Nat) : Option (Option (Fin 4)) :=
  if n = 0xFF then some none else (index 4 n).map some

/-- A 0 or 1 field. -/
def yesNo : Nat → Option Bool
  | 0 => some false
  | 1 => some true
  | _ => none

/-- Whether a range satisfies 16,000 ≤ low ≤ high ≤ 40,959. -/
def rangeOk (low high : Nat) : Bool := Config.stepLow ≤ low ∧ low ≤ high ∧ high ≤ Config.stepHigh

/-- The stage record that the fields of DEFINE STAGE give after the clamp; absent when a field is outside its
values. -/
def stageRecordOf (zone autoMove multiple bandwidth target low high : Nat) : Option StageRecord :=
  match zoneBinding zone, yesNo autoMove, bandwidthOf bandwidth with
  | some z, some a, some c =>
    if validMultiple multiple && rangeOk low high then
      some { zone := z, autoMove := a, low := low, high := high, multiple := multiple, bandwidth := c,
             target := min 8 target }
    else none
  | _, _, _ => none

/-- Whether two stage records have the same spare profile (R9). -/
def StageRecord.sameProfile (a b : StageRecord) : Bool :=
  a.low = b.low ∧ a.high = b.high ∧ a.multiple = b.multiple ∧ a.bandwidth = b.bandwidth

/-- The spare list of a stage after its record changes from `old` to `new` (R11). -/
def spareListAfter (old : Option StageRecord) (new : StageRecord) (list : List Spare) : List Spare :=
  match old with
  | some r => if r.sameProfile new then list.take new.target else []
  | none => []

/-- Whether DEFINE STAGE changes the spare profile or the target of a stage, or defines it (R11). -/
def spareFieldsChange (old : Option StageRecord) (new : StageRecord) : Bool :=
  match old with
  | some r => !r.sameProfile new || decide (r.target ≠ new.target)
  | none => true

/-- An accepted DEFINE STAGE that changes a field or defines the stage. -/
def State.storeStage (s : State) (b : Fin 8) (r : StageRecord) : State :=
  let old := s.site.stages[b]
  let t := { s with
    site := (s.site.setStage b r).bump
    spares := if spareFieldsChange old r then s.spares.set b (spareListAfter old r s.spares[b]) else s.spares }
  if spareFieldsChange old r then t.queueUpkeep [b] else t

/-- A stage record as DEFINE STAGE returns it. -/
def StageRecord.bytes (r : StageRecord) (b : Fin 8) : List Byte :=
  [byte b.val, zoneByte r.zone, flagByte r.autoMove, byte r.multiple, byte r.bandwidth.code, byte r.target,
    0#8, 0#8] ++ half r.low ++ half r.high

/-- The procedure of DEFINE STAGE (R10). -/
def defineStageOrder (o : Handed) (s : State) : State :=
  let target := s.param o 5 1
  match index 8 (s.param o 0 1), stageRecordOf (s.param o 1 1) (s.param o 2 1) (s.param o 3 1) (s.param o 4 1)
      target (s.param o 8 2) (s.param o 10 2) with
  | some b, some r =>
    let t := if s.site.stages[b] = some r then s else s.storeStage b r
    t.done o 0 (r.bytes b ++ [flagByte (8 < target)])
  | _, _ => s.refuse o .badArgument

/-! ### SET COUPLING (R13) -/

/-- An entry of SET COUPLING: two stages and the isolation sent. -/
abbrev CouplingEntry := Fin 8 × Fin 8 × Nat

/-- An entry read from the head cell; absent when it names a stage above 7 or one stage twice. -/
def State.couplingEntry (s : State) (o : Handed) (i : Nat) : Option CouplingEntry :=
  match index 8 (s.param o (4 + 4 * i) 1), index 8 (s.param o (5 + 4 * i) 1) with
  | some a, some b => if a = b then none else some (a, b, s.param o (6 + 4 * i) 1)
  | _, _ => none

/-- Every item of a list, if all are present. -/
def allPresent {α : Type} : List (Option α) → Option (List α)
  | [] => some []
  | none :: _ => none
  | some a :: t => (allPresent t).map (a :: ·)

/-- Applies entries in list order, each isolation after its clamp. -/
def Site.couple (s : Site) (entries : List CouplingEntry) : Site :=
  entries.foldl (fun s e => s.setIsolation e.1 e.2.1 (min 90 e.2.2)) s

/-- An entry as SET COUPLING returns it: the isolation its pair has after the whole list, and whether the clamp
altered the value sent. -/
def Site.couplingBytes (s : Site) (e : CouplingEntry) : List Byte :=
  [byte e.1.val, byte e.2.1.val, byte (s.isolation e.1 e.2.1), flagByte (90 < e.2.2)]

/-- The procedure of SET COUPLING. -/
def setCouplingOrder (o : Handed) (s : State) : State :=
  let n := s.param o 0 1
  if n = 0 ∨ 28 < n then s.refuse o .badArgument
  else
    match allPresent ((List.range n).map (s.couplingEntry o)) with
    | none => s.refuse o .badArgument
    | some entries =>
      let site := s.site.couple entries
      let t := if site.iso = s.site.iso then s else State.modelChanged { s with site := site.bump }
      t.done o 0 ([byte n, 0#8, 0#8, 0#8] ++ entries.flatMap site.couplingBytes)

/-! ### ADD EXCLUSION and DROP EXCLUSION (R14 to R16) -/

/-- The exclusion record an order carries, as its fields stand; absent when the kind is not one of the three. -/
def State.sentExclusion (s : State) (o : Handed) : Option Exclusion :=
  (exclusionKindOf (s.param o 5 1)).map fun k =>
    { low := s.param o 0 2, high := s.param o 2 2, mask := BitVec.ofNat 8 (s.param o 4 1), kind := k }

/-- The order of the exclusion list: low, high, mask, kind (R14). -/
def Exclusion.before (a b : Exclusion) : Bool :=
  if a.low ≠ b.low then a.low < b.low
  else if a.high ≠ b.high then a.high < b.high
  else if a.mask ≠ b.mask then a.mask.toNat < b.mask.toNat
  else a.kind.code < b.kind.code

/-- Inserts a record at its place. -/
def insertExclusion (e : Exclusion) : List Exclusion → List Exclusion
  | [] => [e]
  | x :: t => if e.before x then e :: x :: t else x :: insertExclusion e t

/-- The channels whose held frequencies a record overlaps, in ascending number (R15). -/
def State.conflicting (s : State) (e : Exclusion) : List (Fin 256) :=
  (s.plan.records.filter fun x =>
    e.mask.getLsbD x.2.fields.stage &&
      x.2.hold.frequencies.any fun f =>
        s.site.window.share e.low e.high (f.2 - x.2.halfWidth) (f.2 + x.2.halfWidth)).map Prod.fst

/-- Marks CONFLICT for channels. -/
def State.markConflicts (s : State) (cs : List (Fin 256)) : State :=
  cs.foldl (fun t c => t.mark (.channel c) conflictFlag) s

/-- An accepted ADD EXCLUSION. -/
def State.addExclusionRecord (s : State) (e : Exclusion) : State :=
  let t := { s with site := { s.site with exclusions := insertExclusion e s.site.exclusions }.bump }
  (t.markConflicts (s.conflicting e)).recheck (stagesOf e.mask)

/-- Whether a record may be held at all (R14, R15). -/
def Exclusion.ok (e : Exclusion) : Bool := rangeOk e.low e.high && decide (e.mask ≠ 0)

/-- The procedure of ADD EXCLUSION. -/
def addExclusionOrder (o : Handed) (s : State) : State :=
  match s.sentExclusion o with
  | none => s.refuse o .badArgument
  | some e =>
    if !e.ok then s.refuse o .badArgument
    else if s.site.exclusions.contains e then s.refuse o .exists
    else if 64 ≤ s.site.exclusions.length then s.refuse o .full
    else
      let t := s.addExclusionRecord e
      t.done o 0 ([byte (t.site.exclusions.findIdx (· = e)), byte t.site.exclusions.length]
        ++ half (s.conflicting e).length)

/-- The procedure of DROP EXCLUSION. A bound outside the span of R2 is refused BAD_ARGUMENT; any other record that
is not in the list, NOT_FOUND (notes/assumptions/6.md). -/
def dropExclusionOrder (o : Handed) (s : State) : State :=
  if !validStep (s.param o 0 2) || !validStep (s.param o 2 2) then s.refuse o .badArgument
  else
    match s.sentExclusion o with
    | none => s.refuse o .notFound
    | some e =>
      if s.site.exclusions.contains e then
        let t := State.recheck
          { s with site := { s.site with exclusions := s.site.exclusions.erase e }.bump } (stagesOf e.mask)
        t.done o 0 [byte t.site.exclusions.length]
      else s.refuse o .notFound

end Sys2Proof.Machine
end

