-- ==== Sys2Proof/Machine/ChannelOrders.lean ====
section
/-! DEFINITION. The orders on channel records: DEFINE CHANNEL, RETIRE CHANNEL, MARK LIVE, MARK IDLE, RELEASE,
CONFIRM MOVE, DECLINE MOVE and READ CHANNELS, and the expiry of a move timer (R17 to R34). -/

namespace Sys2Proof.Machine

/-- The channel an order names, with its number as sent; absent above 255 (R23). -/
def State.sentChannel (s : State) (o : Handed) : Option (Fin 256) := index 256 (s.param o 0 2)

/-- The hold of a channel; absent when it is VACANT. -/
def State.hold (s : State) (c : Fin 256) : Option Hold := (s.channel c).map ChannelRecord.hold

/-- Whether a channel carries a working mark. -/
def State.marked (s : State) (c : Fin 256) : Bool := ((s.channel c).bind ChannelRecord.mark).isSome

/-! ### DEFINE CHANNEL (R24, R25) -/

/-- The channel fields that DEFINE CHANNEL carries; absent when a field is outside its values (R17, R23). DESIGN CHOICE:
the auto-move flag is 0 or 1, and any other byte is outside its values (notes/assumptions/33.md). -/
def channelFieldsOf (stage multiple bandwidth priority autoMove low high : Nat) : Option ChannelFields :=
  match index 8 stage, bandwidthOf bandwidth, yesNo autoMove with
  | some b, some c, some a =>
    if validMultiple multiple && rangeOk low high && decide (priority ≤ 3) then
      some { stage := b, low := low, high := high, multiple := multiple, bandwidth := c, priority := priority,
             autoMove := a }
    else none
  | _, _, _ => none

/-- The channel fields that an order carries. -/
def State.sentFields (s : State) (o : Handed) : Option ChannelFields :=
  channelFieldsOf (s.param o 2 1) (s.param o 3 1) (s.param o 4 1) (s.param o 5 1) (s.param o 6 1)
    (s.param o 8 2) (s.param o 10 2)

/-- Whether a held frequency passes C1 under fields (R25). -/
def State.keeps (s : State) (f : ChannelFields) (h : Hold) : Bool :=
  h.frequencies.all fun x => s.check1
    { step := x.2, halfWidth := f.bandwidth.halfWidth, multiple := f.multiple,
      range := f.effective s.site.window, stage := f.stage }

/-- A range as two step fields, both 0xFFFF when it is empty. -/
def rangeBytes (r : Option (Nat × Nat)) : List Byte := stepField (r.map Prod.fst) ++ stepField (r.map Prod.snd)

/-- A record as DEFINE CHANNEL returns it, with its effective range. -/
def ChannelFields.bytes (f : ChannelFields) (c : Fin 256) (w : Window) : List Byte :=
  half c.val ++ [byte f.stage.val, byte f.multiple, byte f.bandwidth.code, byte f.priority, flagByte f.autoMove,
    0#8] ++ half f.low ++ half f.high ++ rangeBytes (f.effective w)

/-- Stores fields and a hold in a channel record; a working mark stays. -/
def State.storeChannel (s : State) (c : Fin 256) (f : ChannelFields) (h : Hold) : State :=
  { s with plan := s.plan.setChannel c (some { fields := f, hold := h, mark := (s.channel c).bind ChannelRecord.mark }) }

/-- The end of an accepted DEFINE CHANNEL. -/
def State.defined (s : State) (o : Handed) (c : Fin 256) (f : ChannelFields) (h : Hold) : State :=
  (s.storeChannel c f h).conclude o .done
    (if (f.effective s.site.window).isSome then .none else .emptyRange) 0 [f.bytes c s.site.window]

/-- The procedure of DEFINE CHANNEL. -/
def defineChannelOrder (o : Handed) (s : State) : State :=
  match s.sentChannel o, s.sentFields o with
  | some c, some f =>
    match s.channel c with
    | none => if (s.site.stages[f.stage]).isSome then s.defined o c f .defined else s.refuse o .state
    | some r =>
      match r.hold with
      | .defined => if (s.site.stages[f.stage]).isSome then s.defined o c f .defined else s.refuse o .state
      | h =>
        if f.stage ≠ r.fields.stage ∨ f.bandwidth ≠ r.fields.bandwidth then s.refuse o .state
        else if s.keeps f h then s.defined o c f h
        else s.refuse o .state
  | _, _ => s.refuse o .badArgument

/-! ### RETIRE CHANNEL, MARK LIVE, MARK IDLE (R26 to R28) -/

/-- The result of an order that names a channel and returns its state. -/
def State.stateResult (s : State) (c : Fin 256) : List Byte :=
  half c.val ++ [byte (channelStateCode (s.channel c))]

/-- A state with another hold for a channel; no plan change (R21). -/
def State.setHold (s : State) (c : Fin 256) (h : Hold) : State := { s with plan := s.plan.setHold c h }

/-- The procedure of RETIRE CHANNEL. -/
def retireChannelOrder (o : Handed) (s : State) : State :=
  match s.sentChannel o with
  | none => s.refuse o .badArgument
  | some c =>
    match s.hold c with
    | none => s.refuse o .notFound
    | some .defined =>
      let t := { s with plan := s.plan.setChannel c none }
      t.done o 0 (t.stateResult c)
    | some _ => s.refuse o .state

/-- The procedure of MARK LIVE. -/
def markLiveOrder (o : Handed) (s : State) : State :=
  match s.sentChannel o with
  | none => s.refuse o .badArgument
  | some c =>
    match s.hold c with
    | some (.placed f) =>
      let t := s.setHold c (.live f)
      t.done o 0 (t.stateResult c)
    | some (.live _) => s.done o 0 (s.stateResult c)
    | _ => s.refuse o .state

/-- The procedure of MARK IDLE. -/
def markIdleOrder (o : Handed) (s : State) : State :=
  match s.sentChannel o with
  | none => s.refuse o .badArgument
  | some c =>
    match s.hold c with
    | some (.live f) =>
      let t := s.setHold c (.placed f)
      t.done o 0 (t.stateResult c)
    | some (.placed _) => s.done o 0 (s.stateResult c)
    | _ => s.refuse o .state

/-! ### RELEASE, CONFIRM MOVE, DECLINE MOVE (R29, R32, R33) -/

/-- The procedure of RELEASE. -/
def releaseOrder (o : Handed) (s : State) : State :=
  match s.sentChannel o with
  | none => s.refuse o .badArgument
  | some c =>
    if s.marked c then s.refuse o .busy
    else
      match s.channel c with
      | none => s.refuse o .state
      | some r =>
        match r.hold with
        | .placed f | .live f => (s.removeStep c r .defined false f).done o 0 (half c.val ++ half f)
        | .defined => s.done o 0 (half c.val ++ stepField none)
        | .tentative _ => s.refuse o .busy
        | .moving _ _ _ | .unresolved _ _ => s.refuse o .state

/-- The frequencies of a move: the new one, held as primary, and the old one. -/
def Hold.move : Hold → Option (Nat × Nat)
  | .moving f g _ | .unresolved f g => some (f, g)
  | _ => none

/-- The result of CONFIRM MOVE and DECLINE MOVE. -/
def moveResult (c : Fin 256) (kept released : Nat) : List Byte := half c.val ++ half kept ++ half released

/-- The procedure of CONFIRM MOVE. -/
def confirmMoveOrder (o : Handed) (s : State) : State :=
  match s.sentChannel o with
  | none => s.refuse o .badArgument
  | some c =>
    match s.channel c with
    | none => s.refuse o .state
    | some r =>
      match r.hold.move with
      | none => s.refuse o .state
      | some (f, g) => (s.removeStep c r (.live f) true g).done o 0 (moveResult c f g)

/-- The procedure of DECLINE MOVE. -/
def declineMoveOrder (o : Handed) (s : State) : State :=
  match s.sentChannel o with
  | none => s.refuse o .badArgument
  | some c =>
    match s.channel c with
    | none => s.refuse o .state
    | some r =>
      match r.hold.move with
      | none => s.refuse o .state
      | some (f, g) => (s.removeStep c r (.live g) false f).done o 0 (moveResult c g f)

/-! ### READ CHANNELS (R34) -/

/-- The time remaining on a move timer in tenths of a second, rounded up. -/
def Hold.remaining (now : Nat) : Hold → Nat
  | .moving _ _ expiry => (expiry - now + 99) / 100
  | _ => 0

/-- The entry of a VACANT channel. Its priority, its auto-move bit and the bit that marks an empty range are free: R34 calls
every part absent, and 12.5 gives these three no value that marks one absent (notes/assumptions/3.md). -/
def vacantEntry (c : Fin 256) (priority flags : Byte) : List Byte :=
  [byte c.val, 0#8, 0xFF#8, 0#8, 0xFF#8, priority, flags &&& 0x05#8, 0#8]
    ++ List.replicate 12 0xFF#8 ++ List.replicate 4 0#8

/-- The entry of a channel that is not VACANT. -/
def State.recordEntry (s : State) (c : Fin 256) (r : ChannelRecord) : List Byte :=
  let e := r.fields.effective s.site.window
  [byte c.val, byte (channelStateCode (some r)), byte r.fields.stage.val, byte r.fields.multiple,
    byte r.fields.bandwidth.code, byte r.fields.priority,
    byte (bitAt 0 r.fields.autoMove + bitAt 1 r.mark.isSome + bitAt 2 e.isNone), 0#8]
    ++ half r.fields.low ++ half r.fields.high ++ rangeBytes e
    ++ stepField r.hold.primary ++ stepField r.hold.secondary ++ half (r.hold.remaining s.now) ++ half 0

/-- The entry of a channel. -/
def State.channelEntry (s : State) (c : Fin 256) : List Byte :=
  match s.channel c with
  | none => vacantEntry c (s.freeByte (2 * c.val)) (s.freeByte (2 * c.val + 1))
  | some r => s.recordEntry c r

/-- The channels a READ CHANNELS takes. -/
def State.spanned (s : State) (first count : Nat) (skipVacant : Bool) : List (Fin 256) :=
  (allChannels.filter fun c => decide (first ≤ c.val ∧ c.val < first + count)).filter fun c =>
    !skipVacant || (s.channel c).isSome

/-- The procedure of READ CHANNELS (R34). A cell holds ten entries. DESIGN CHOICE: a count above 256 is no bad argument,
and its span is cut at channel 255 (notes/assumptions/34.md). -/
def readChannelsOrder (o : Handed) (s : State) : State :=
  let first := s.param o 0 2
  let count := s.param o 2 2
  if 255 < first ∨ count = 0 then s.refuse o .badArgument
  else
    let cs := s.spanned first count ((s.param o 4 1).testBit 0)
    let fit := 10 * o.length
    let n := match cs.drop fit with
      | c :: _ => c.val
      | [] => cs.length
    (s.draw 512).doneOrShort o (fit < cs.length) (BitVec.ofNat 32 (n + 65536 * (s.plan.epoch.toNat % 65536)))
      (pieces 240 8 ((cs.take fit).flatMap s.channelEntry))

/-! ### Expiry of a move timer (R31) -/

/-- The move timer of a channel expires. It runs only in MOVING; the clock then stands at the expiry or later
(notes/assumptions/5.md). -/
def execMoveTimerExpiry (c : Fin 256) (s : State) : Host.Outcome State Fault Refusal :=
  match s.hold c with
  | some (.moving f g expiry) =>
    .next (s.finish ((State.setHold { s with now := max s.now expiry } c (.unresolved f g)).mark (.channel c)
      unresolvedFlag))
  | _ => .next s

end Sys2Proof.Machine
end

