-- ==== Sys2Proof/Machine/CheckList.lean ====
section
/-! DEFINITION. CHECK LIST, entry by entry (R65, R66). -/

namespace Sys2Proof.Machine

/-- The entries an order of `n` carries: 60 in each cell. -/
def State.checkEntries (s : State) (o : Handed) (n : Nat) : List (Nat × Nat) :=
  ((o.records 0 4 60 60).take n).map fun e => (s.port.field e.1 e.2 2, s.port.field e.1 (e.2 + 2) 2)

/-- The verdict word: the score in bits 0 to 9, the verdict in bits 12 to 15 (spec 12.5). -/
def Verdict.word : Verdict → Nat
  | .pass score => score
  | .fail check => check * 4096

/-- The judgement of an entry: its verdict word, and whether an evaluation was made. -/
def State.judge (s : State) (strict : Bool) (e : Nat × Nat) : Nat × Bool :=
  match index 256 e.1 with
  | none => (9 * 4096, false)
  | some c =>
    if !validStep e.2 then (9 * 4096, false)
    else
      match s.channel c with
      | none => (8 * 4096, false)
      | some r => ((s.evaluateAlone c r e.2 strict).word, true)

/-- A CHECK LIST that has judged an entry. -/
def CheckWork.judgedOne (w : CheckWork) (e : Nat × Nat) (v : Nat × Bool) : CheckWork :=
  { w with
    todo := w.todo.tail
    judged := w.judged ++ [(e.2, v.1)]
    evaluations := w.evaluations + (if v.2 then 1 else 0) }

/-- The result: each entry rewritten in place, those not judged as NOT EVALUATED. -/
def CheckWork.result (w : CheckWork) : List Byte :=
  (w.judged.flatMap fun e => half e.1 ++ half e.2) ++ w.todo.flatMap fun e => half e.2 ++ half (10 * 4096)

/-- Ends a CHECK LIST whose last entry has been judged. -/
def State.endCheck (s : State) (w : CheckWork) : State :=
  s.conclude w.order .done .none (BitVec.ofNat 32 w.evaluations) (pieces 240 8 w.result)

/-- One entry of a running CHECK LIST, with the yield point after it. -/
def State.checkStep (s : State) (w : CheckWork) : State :=
  match w.todo with
  | [] => s.endCheck w
  | e :: _ =>
    let v := w.judgedOne e (s.judge w.strict e)
    if v.todo = [] then s.endCheck v else s.yieldWith (.check v)

/-- The procedure of CHECK LIST at its take-up. Its parameters stand in the head argument. -/
def checkListOrder (o : Handed) (s : State) : State :=
  let n := s.port.headField o.head 12 2
  if n = 0 ∨ 480 < n ∨ 60 * o.length < n then s.refuse o .badArgument
  else
    s.runWith (.check
      { order := o, strict := (s.port.headField o.head 14 1).testBit 0, todo := s.checkEntries o n, judged := [],
        evaluations := 0 })

end Sys2Proof.Machine
end

