-- ==== Sys2Proof/Machine/LinkOrders.lean ====
section
/-! DEFINITION. The orders on zones and links: SET ZONE, PROBE with the events that end it, READ LINKS and READ
SPECTRUM (R113 to R117), and the frame CRC (R102, R166). -/

namespace Sys2Proof.Machine

/-! ### SET ZONE (R113) -/

/-- The settings SET ZONE stores from the values sent, each after its clamp, and the clamp marks. -/
def zoneSettingsOf (floor clear occupied period threshold : Nat) (mode : WatchMode) (correction : Int)
    (hostMask : BitVec 64) : ZoneSettings × Nat :=
  let c := clamp 0 118 clear
  let o := clamp (c + 2) 120 occupied
  let n := clamp 1 16 period
  let t := clamp 2 120 threshold
  let k := clampInt (-64) 63 correction
  ({ floor := floor, clearOffset := c, occupiedOffset := o, period := n, threshold := t, mode := mode,
     hostMask := hostMask, correction := k },
    bitAt 0 (c ≠ clear) + bitAt 1 (o ≠ occupied) + bitAt 2 (n ≠ period) + bitAt 3 (t ≠ threshold)
      + bitAt 4 (k ≠ correction))

/-- The settings as SET ZONE returns them. -/
def ZoneSettings.bytes (z : ZoneSettings) : List Byte :=
  [byte z.floor, byte z.clearOffset, byte z.occupiedOffset, byte z.period, byte z.threshold, byte z.mode.code,
    signedByte z.correction] ++ maskBytes z.hostMask

/-- A segment record when SET ZONE stores a mode: a change from LATCHING to FREE_RUN clears its frozen flag
(R125). -/
def Segment.underMode (g : Segment) (before after : WatchMode) : Segment :=
  if before = .latching && after = .freeRun then { g with frozen := false } else g

/-- A zone that takes new settings: they are stored, the period restarts, and the next period end sets references
(R113, R124, R125). -/
def Zone.configure (z : Zone) (settings : ZoneSettings) : Zone :=
  { z.restartPeriod with
    settings := settings
    segments := mapTable (fun g => g.underMode z.settings.mode settings.mode) z.segments
    referencePending := true }

/-- The procedure of SET ZONE. -/
def setZoneOrder (o : Handed) (s : State) : State :=
  match index 4 (s.param o 0 1), watchModeOf (s.param o 6 1) with
  | some z, some mode =>
    let x := zoneSettingsOf (s.param o 1 1) (s.param o 2 1) (s.param o 3 1) (s.param o 4 1) (s.param o 5 1) mode
      (BitVec.ofNat 8 (s.param o 7 1)).toInt (BitVec.ofNat 64 (s.param o 8 8))
    State.done ((s.onLink z Link.abandon).onZone z fun zone => zone.configure x.1) o 0
      (byte z.val :: x.1.bytes ++ [byte x.2])
  | _, _ => s.refuse o .badArgument

/-! ### The frame CRC (R102) -/

/-- One bit of the CRC: polynomial 0x1021, no reflection. -/
def crcBit (c : Half) : Half := if c.msb then (c <<< 1) ^^^ 0x1021#16 else c <<< 1

/-- The CRC after one byte more. -/
def crcByte (c : Half) (b : Byte) : Half :=
  let x := c ^^^ (b.setWidth 16 <<< 8)
  crcBit (crcBit (crcBit (crcBit (crcBit (crcBit (crcBit (crcBit x)))))))

/-- The CRC of bytes from the initial value 0xFFFF. -/
def crc (l : List Byte) : Half := l.foldl crcByte 0xFFFF#16

/-- Two bytes, high byte first (R166). -/
def high (h : Half) : List Byte := [h.extractLsb' 8 8, h.extractLsb' 0 8]

/-- The bytes of a frame of a type with a payload (R166). -/
def frameBytes (type : Byte) (payload : List Byte) : List Byte :=
  let body := high (BitVec.ofNat 16 (payload.length + 1)) ++ type :: payload
  [0x9B#8, 0x64#8] ++ body ++ high (crc body)

/-! ### PROBE (R114, R115) -/

/-- The bytes of a PROBE REQUEST. -/
def probeRequest (probeId : Byte) (step : Nat) (correction : Int) : List Byte :=
  frameBytes 0x02#8 (probeId :: high (BitVec.ofInt 16 (step - correction)))

/-- A link that sends a request and puts its probe into WAITING. -/
def Link.ask (l : Link) (o : Handed) (step threshold now : Nat) (correction : Int) : Link :=
  let i := l.probeCounter + 1
  { l with
    probeCounter := i
    slot := some { order := o, probeId := i, step := step, threshold := threshold, deadline := now + Config.probeTime }
    sent := probeRequest i step correction }

/-- The procedure of PROBE: it releases its context and its cells stay ACTIVE. -/
def probeOrder (o : Handed) (s : State) : State :=
  let step := s.param o 2 2
  match index 4 (s.param o 0 1) with
  | none => s.refuse o .badArgument
  | some z =>
    if !validStep step then s.refuse o .badArgument
    else if s.links[z].slot.isSome then s.refuse o .linkBusy
    else
      State.release (s.onLink z fun l => l.ask o step (s.param o 1 1) s.now s.zones[z].settings.correction)

/-- The result of a PROBE, with its level and verdict if it was answered. -/
def ProbeWork.result (w : ProbeWork) (z : Fin 4) (level : Option Byte) : List Byte :=
  [byte z.val, w.probeId] ++ half w.step ++
    match level with
    | some l => [l, flagByte (w.threshold ≤ l.toNat)]
    | none => [0#8, 0#8]

/-- Frees a probe slot and ends its order. -/
def State.endProbe (s : State) (z : Fin 4) (w : ProbeWork) (outcome : OrderOutcome) (reason : Reason)
    (level : Option Byte) : State :=
  (s.onLink z fun l => { l with slot := none }).close w.order outcome reason 0 [w.result z level]

/-- The effect of a valid PROBE ANSWER on the probe slot (R115). -/
def State.answer (s : State) (z : Fin 4) (probeId level : Byte) : State :=
  match s.links[z].slot with
  | some w =>
    if w.probeId = probeId then s.endProbe z w .done .none (some level)
    else s.onLink z fun l => { l with stray := min (l.stray + 1) 255 }
  | none => s.onLink z fun l => { l with stray := min (l.stray + 1) 255 }

/-! ### READ LINKS (R116) -/

/-- The time since the last valid frame, stopped at 65,535. -/
def Link.age (l : Link) (now : Nat) : Nat := ((l.lastValid.map fun t => min (now - t) 65535).getD 0)

/-- The last step covered as a 2-byte field; a free field where it lies outside 0 to 65,535. -/
def lastCoveredField (n : Int) (free : List Byte) : List Byte :=
  if 0 ≤ n ∧ n ≤ 65535 then half n.toNat else free

/-- The block of a zone. -/
def State.linkBlock (s : State) (z : Fin 4) : List Byte :=
  let l := s.links[z]
  let zone := s.zones[z]
  [byte z.val, byte zone.freshness.code,
    byte (bitAt 0 l.lastValid.isSome + bitAt 1 l.sweep.isSome
      + bitAt 2 ((l.sweep.map SweepWork.damaged).getD false) + bitAt 3 l.slot.isSome), 0#8]
    ++ word l.good
    ++ [byte l.crcErrors, byte l.formatErrors, byte l.abandoned, byte l.damaged, byte l.stray, 0#8]
    ++ half (l.age s.now) ++ half ((l.sweep.map fun w => w.number.toNat).getD 0)
    ++ (match l.sweep with
        | some w => lastCoveredField w.last (s.freeHalf z.val)
        | none => half 0)
    ++ [byte zone.goodSweeps, byte zone.settings.period, ((l.slot.map ProbeWork.probeId).getD 0#8),
        l.probeCounter]

/-- A link with its five saturating counts cleared. -/
def Link.clearCounts (l : Link) : Link :=
  { l with crcErrors := 0, formatErrors := 0, abandoned := 0, damaged := 0, stray := 0 }

/-- The procedure of READ LINKS. -/
def readLinksOrder (o : Handed) (s : State) : State :=
  let zs := zonesOf (s.param o 0 1)
  if zs = [] then s.refuse o .badArgument
  else
    let t := if (s.param o 1 1).testBit 0 then zs.foldl (fun t z => t.onLink z Link.clearCounts) s else s
    (t.draw 4).done o (BitVec.ofNat 32 zs.length) (zs.flatMap s.linkBlock)

/-! ### READ SPECTRUM (R117) -/

/-- A bin of the result: its settled code and its raw class. -/
def Zone.binBytes (z : Zone) (n : Nat) : List Byte :=
  let b := sparseGet Bin.cleared z.map n
  [byte b.settled, byte (z.settings.classOf b).code]

/-- The summary of READ SPECTRUM. -/
def Zone.spectrumSummary (zone : Zone) (z : Fin 4) (first count : Nat) : List Byte :=
  [byte z.val, byte zone.freshness.code] ++ half first ++ half count
    ++ [byte zone.settings.floor, byte zone.settings.clearOffset, byte zone.settings.occupiedOffset,
        byte zone.settings.period, byte zone.goodSweeps] ++ List.replicate 5 0#8

/-- The bins a chain holds: 112 in its first cell and 120 in each further one. -/
def Handed.bins (o : Handed) : Nat := 112 + 120 * o.rest.length

/-- The procedure of READ SPECTRUM. -/
def readSpectrumOrder (o : Handed) (s : State) : State :=
  let start := s.param o 2 2
  let count := s.param o 4 2
  match index 4 (s.param o 0 1) with
  | none => s.refuse o .badArgument
  | some z =>
    if count = 0 || !s.site.window.has start then s.refuse o .badArgument
    else
      let span := min count (s.site.window.top + 1 - start)
      let n := min span o.bins
      let bytes := s.zones[z].spectrumSummary z start n
        ++ (List.range n).flatMap fun i => s.zones[z].binBytes (start + i)
      s.doneOrShort o (n < span) (BitVec.ofNat 32 (if n < span then start + n else n)) (pieces 240 8 bytes)

end Sys2Proof.Machine
end

