-- ==== Sys2Proof/Machine/Place.lean ====
section
/-! DEFINITION. PLACE: screening, channel order, walks, the solver stack, commit and rollback (R67 to R82). -/

namespace Sys2Proof.Machine

/-! ### Screening (R67, R68) -/

/-- The entries an order of `n` carries, as {channel, preferred frequency}: 36 in the head cell, 40 in each
further one. -/
def State.placeEntries (s : State) (o : Handed) (n : Nat) : List (Nat × Nat) :=
  ((o.records 24 6 36 40).take n).map fun e => (s.port.field e.1 e.2 2, s.port.field e.1 (e.2 + 2) 2)

/-- The result of screening an entry, given the channels named before it. -/
def State.screenOne (s : State) (named : List Nat) (e : Nat × Nat) : PlaceEntry :=
  match index 256 e.1 with
  | none => .skipped e.1 .badArgument
  | some c =>
    if !(validStep e.2 || e.2 = 0xFFFF) then .skipped e.1 .badArgument
    else if named.contains e.1 then .skipped e.1 .duplicate
    else if s.hold c = some .defined then .working c
    else .skipped e.1 .state

/-- Screens a list of entries in order. -/
def State.screen (s : State) : List Nat → List (Nat × Nat) → List PlaceEntry
  | _, [] => []
  | named, e :: t => s.screenOne named e :: s.screen (e.1 :: named) t

/-! ### Channel order and walks (R69, R70) -/

/-- The walk of a channel with a preferred frequency: it stands first if it is a grid point. -/
def walkOf (grid : Grid) (preferred : Nat) : Walk :=
  { preferred := if grid.has preferred then some preferred else none, grid := grid }

/-- The grid points of a channel. -/
def ChannelFields.grid (f : ChannelFields) (w : Window) : Grid := gridOf f.multiple (f.effective w)

/-- A channel of the working set with its priority and its walk. -/
abbrev RankedItem := Nat × PlaceItem

/-- Whether an item ranks before another: priority, then fewest grid points, then lowest number. -/
def rankedBefore (a b : RankedItem) : Bool :=
  if a.1 ≠ b.1 then b.1 < a.1
  else if a.2.walk.length ≠ b.2.walk.length then a.2.walk.length < b.2.walk.length
  else a.2.channel < b.2.channel

/-- Inserts an item at its rank. -/
def insertRanked (a : RankedItem) : List RankedItem → List RankedItem
  | [] => [a]
  | x :: t => if rankedBefore a x then a :: x :: t else x :: insertRanked a t

/-- The working set in channel order. -/
def State.rank (s : State) (entries : List PlaceEntry) (sent : List (Nat × Nat)) : List PlaceItem :=
  ((entries.zip sent).foldl (fun l e =>
    match e.1 with
    | .skipped _ _ => l
    | .working c =>
      match s.channel c with
      | none => l
      | some r => insertRanked (r.fields.priority,
          { channel := c, walk := walkOf (r.fields.grid s.site.window) e.2.2 }) l) []).map Prod.snd

/-! ### Working marks, tentatives, commit and rollback (R77, R78) -/

/-- Sets the working mark on the channels of a working set. -/
def Plan.setMarks (p : Plan) (head : Nat) (items : List PlaceItem) : Plan :=
  items.foldl (fun p i => p.setChannel i.channel (p.channels[i.channel].map fun r => { r with mark := some head })) p

/-- Removes the tentative frequency of a stack entry from the plan. -/
def State.clearTentative (s : State) (e : StackEntry) : State :=
  match s.channel e.item.channel, e.chosen with
  | some r, some f => s.removeStep e.item.channel r .defined false f
  | _, _ => s

/-- Clears every working mark. -/
def State.clearMarks (s : State) : State := { s with plan := s.plan.clearMarks }

/-- Rolls a search back: the tentatives are removed from the top of the stack down, and the marks cleared. -/
def State.rollback (s : State) (w : PlaceWork) : State :=
  (s.inStageOrder (w.stack.foldl State.clearTentative s)).clearMarks

/-- Makes a chosen frequency final. -/
def Plan.commitEntry (p : Plan) (e : StackEntry) : Plan :=
  match e.chosen with
  | some f => p.setHold e.item.channel (.placed f)
  | none => p

/-- Commits a search: its tentatives become PLACED and the marks are cleared. -/
def State.commit (s : State) (w : PlaceWork) : State :=
  State.clearMarks { s with plan := w.stack.foldl Plan.commitEntry s.plan }

/-! ### The result (R79, spec 12.5) -/

/-- The frequency a search has placed a channel on. -/
def PlaceWork.placedOn (w : PlaceWork) (c : Fin 256) : Option Nat :=
  (w.stack.find? fun e => e.item.channel = c).bind StackEntry.chosen

/-- The reason an unplaced channel shows: the one recorded for it, or the reason given. -/
def PlaceWork.reasonFor (w : PlaceWork) (reason : Reason) (c : Fin 256) : Reason :=
  ((w.unplaced.find? fun e => e.1 = c).map Prod.snd).getD reason

/-- An entry of the result. `committed` tells whether the chosen frequencies were kept. -/
def PlaceWork.entryBytes (w : PlaceWork) (committed : Bool) (reason : Reason) : PlaceEntry → List Byte
  | .skipped c r => half c ++ [0x12#8, byte r.code] ++ stepField none
  | .working c =>
    match if committed then w.placedOn c else none with
    | some f => half c.val ++ [0x10#8, byte Reason.none.code] ++ half f
    | none => half c.val ++ [0x11#8, byte (w.reasonFor reason c).code] ++ stepField none

/-- How many entries were taken into the working set. -/
def PlaceWork.total (w : PlaceWork) : Nat :=
  w.entries.countP fun e => match e with
    | .working _ => true
    | .skipped _ _ => false

/-- How many channels a search has placed. -/
def PlaceWork.placedCount (w : PlaceWork) : Nat := w.stack.countP fun e => e.chosen.isSome

/-- The result: the summary and the entries. -/
def PlaceWork.result (w : PlaceWork) (committed : Bool) (reason : Reason) (deepest : List Byte) (epoch : Word) :
    List Byte :=
  let placed := if committed then w.placedCount else 0
  [flagByte w.bestEffort, 0#8] ++ half 0 ++ word (BitVec.ofNat 32 w.budget) ++ word (BitVec.ofNat 32 w.used)
    ++ deepest ++ half placed ++ half (w.total - placed) ++ half (w.entries.length - w.total) ++ word epoch
    ++ w.entries.flatMap (w.entryBytes committed reason)

/-- Ends a search, its commit or rollback done: the result is written with the epoch as it stands. -/
def State.endPlace (s : State) (w : PlaceWork) (committed : Bool) (outcome : OrderOutcome) (reason : Reason)
    (argument : Nat) : State :=
  s.conclude w.order outcome reason (BitVec.ofNat 32 argument)
    (pieces 240 8 (w.result committed reason (half w.deepest) s.plan.epoch))

/-! ### The search (R71 to R76) -/

/-- Pushes the next depth. In BEST_EFFORT a channel with an empty walk is passed over as it is reached. -/
def PlaceWork.push (w : PlaceWork) : List PlaceItem → PlaceWork
  | [] => { w with rest := [] }
  | i :: t =>
    let deepest := max w.deepest (w.total - t.length - 1)
    if w.bestEffort && i.walk.length = 0 then
      PlaceWork.push { w with unplaced := w.unplaced ++ [(i.channel, .noCandidate)], deepest := deepest } t
    else { w with stack := { item := i, cursor := 0, chosen := none } :: w.stack, rest := t, deepest := deepest }

/-- The top entry, while its walk is in progress. -/
def PlaceWork.top (w : PlaceWork) : Option StackEntry := w.stack.head?.filter fun e => e.chosen.isNone

/-- Whether the walk of an entry is exhausted. -/
def StackEntry.exhausted (e : StackEntry) : Bool := e.item.walk.length ≤ e.cursor

/-- In BEST_EFFORT, gives up a top entry whose walk is exhausted, and goes on to the next depth (R76). -/
def PlaceWork.passOver (w : PlaceWork) : PlaceWork :=
  match w.top with
  | some e =>
    if w.bestEffort && e.exhausted then
      PlaceWork.push { w with stack := w.stack.tail, unplaced := w.unplaced ++ [(e.item.channel, .noCandidate)] } w.rest
    else w
  | none => w

/-- An entry whose cursor has moved on and whose choice is cleared. -/
def StackEntry.advance (e : StackEntry) : StackEntry := { e with cursor := e.cursor + 1, chosen := none }

/-- Backtracks from an exhausted top entry over the entries below it (R74). The popped channels are ahead of the
search again. -/
def backtrack (item : PlaceItem) : List StackEntry → State × PlaceWork → State × PlaceWork
  | [], x => (x.1, { x.2 with stack := [], rest := item :: x.2.rest })
  | e :: below, x =>
    let s := x.1.clearTentative e
    let w := { x.2 with stack := e.advance :: below, rest := item :: x.2.rest }
    if e.advance.exhausted then backtrack e.item below (s, w) else (s, w)

/-- The completion of a BEST_EFFORT search (R76). -/
def State.bestEffortEnd (s : State) (w : PlaceWork) : State :=
  let t := s.commit w
  if w.placedCount = w.total then t.endPlace w true .done .none w.used
  else if w.placedCount = 0 then t.endPlace w true .failed .noCandidate w.used
  else
    t.endPlace w true .part (if w.unplaced.any fun e => e.2 = .budget then .budget else .noCandidate) w.used

/-- A search with the top channel and every channel ahead given up for want of budget. -/
def PlaceWork.outOfBudget (w : PlaceWork) (e : StackEntry) : PlaceWork :=
  { w with
    stack := w.stack.tail
    rest := []
    unplaced := w.unplaced ++ (e.item :: w.rest).map fun i => (i.channel, Reason.budget) }

/-- The end of a search whose budget is used up before an evaluation (R73). -/
def State.budgetEnd (s : State) (w : PlaceWork) (e : StackEntry) : State :=
  if w.bestEffort then s.bestEffortEnd (w.outOfBudget e)
  else (s.rollback w).endPlace w false .failed .budget w.used

/-- What follows the work of an evaluation: the search ends, or stands at its yield point. -/
def State.afterEvaluation (s : State) (w : PlaceWork) : State :=
  if w.top.isSome then s.yieldWith (.place w)
  else if w.bestEffort then s.bestEffortEnd w
  else if w.stack = [] then (s.clearMarks).endPlace w false .failed .noCandidate w.deepest
  else (s.commit w).endPlace w true .done .none w.used

/-- A search whose top entry has been placed on a frequency. -/
def PlaceWork.chose (w : PlaceWork) (e : StackEntry) (f : Nat) : PlaceWork :=
  PlaceWork.push { w with stack := { e with chosen := some f } :: w.stack.tail } w.rest

/-- The placement of a candidate that passes (R72). -/
def State.placeTop (s : State) (w : PlaceWork) (e : StackEntry) (r : ChannelRecord) (f : Nat) : State :=
  (s.addPrimary e.item.channel r (.tentative f) f).afterEvaluation (w.chose e f)

/-- The work after an evaluation that fails (R74, R76). -/
def State.placeFail (s : State) (w : PlaceWork) (e : StackEntry) : State :=
  let a := e.advance
  let v := { w with stack := a :: w.stack.tail }
  if !a.exhausted then s.afterEvaluation v
  else if w.bestEffort then s.afterEvaluation v.passOver
  else
    let x := backtrack e.item w.stack.tail (s, v)
    (s.inStageOrder x.1).afterEvaluation x.2

/-- One evaluation of the top channel, with the work that belongs to its event. -/
def State.placeEvaluate (s : State) (w : PlaceWork) (e : StackEntry) : State :=
  let v := { w with used := w.used + 1 }
  match s.channel e.item.channel with
  | none => s.placeFail v e
  | some r =>
    let f := e.item.walk.at e.cursor
    match s.evaluateFor r f w.strict with
    | .pass _ => s.placeTop v e r f
    | .fail _ => s.placeFail v e

/-- One step of the search (R73). DESIGN CHOICE: in BEST_EFFORT a channel with an empty walk that comes first in channel
order is passed over at the start of the first step, not at the take-up (notes/assumptions/39.md). -/
def State.placeStep (s : State) (w : PlaceWork) : State :=
  let v := w.passOver
  match v.top with
  | none => s.afterEvaluation v
  | some e => if v.budget ≤ v.used then s.budgetEnd v e else s.placeEvaluate v e

/-! ### Take-up (R67 to R71) -/

/-- The budget fixed at take-up. -/
def budgetOf (sent default : Nat) : Nat := if sent = 0 then default else min sent Config.budgetLimit

/-- A search with its first depth on the stack and the marks of its working set set. -/
def State.startPlace (s : State) (w : PlaceWork) (items : List PlaceItem) : State :=
  let v := match items with
    | [] => w
    | i :: t => { w with stack := [{ item := i, cursor := 0, chosen := none }], rest := t }
  State.runWith { s with plan := s.plan.setMarks w.order.head items } (.place v)

/-- The procedure of PLACE at its take-up. -/
def placeOrder (o : Handed) (s : State) : State :=
  let n := s.param o 0 2
  let options := s.param o 2 1
  if n = 0 ∨ 256 < n ∨ 36 + 40 * o.rest.length < n ∨ 4 ≤ options then s.refuse o .badArgument
  else
    let sent := s.placeEntries o n
    let entries := s.screen [] sent
    let items := s.rank entries sent
    let w : PlaceWork :=
      { order := o, bestEffort := options.testBit 0, strict := options.testBit 1,
        budget := budgetOf (s.param o 4 4) s.site.params.budget, used := 0, deepest := 0, entries := entries,
        stack := [], rest := [], unplaced := [] }
    if items = [] then
      (s.draw 1).conclude o .done .none 0 (pieces 240 8 (w.result true .none (s.freeHalf 0) s.plan.epoch))
    else
      match items.findIdx? fun i => i.walk.length = 0 with
      | some d => if w.bestEffort then s.startPlace w items else s.endPlace w false .failed .noCandidate d
      | none => s.startPlace w items

end Sys2Proof.Machine
end

