-- ==== Sys2Proof/Machine/Replace.lean ====
section
/-! DEFINITION. PIN, REPLACE and the auto-move (R30, R83, R84, R95 to R99). -/

namespace Sys2Proof.Machine

/-! ### PIN (R83, R84) -/

/-- The plan without the old frequency of a PLACED channel: it is removed, and the channel holds nothing while the
new one is judged (R84, R95). -/
def State.vacate (s : State) (c : Fin 256) (r : ChannelRecord) : State :=
  match r.hold with
  | .placed f => s.removeStep c r .defined false f
  | _ => s

/-- The result of PIN. -/
def pinResult (c : Fin 256) (f : Nat) (old : Option Nat) (check : Nat) (forced : Bool) (score : Nat) : List Byte :=
  half c.val ++ half f ++ stepField old ++ [byte check, flagByte forced] ++ half score

/-- The plan with a channel PLACED on a frequency, in place of its old one if it had one. -/
def State.pinned (s : State) (c : Fin 256) (r : ChannelRecord) (f : Nat) : State :=
  s.inStageOrder ((s.vacate c r).addPrimary c r (.placed f) f)

/-- The end of a PIN whose frequency has been judged, from the state before the old one was removed. A PLACED channel
whose PIN fails is given its old frequency again. -/
def State.pinEnd (s : State) (o : Handed) (c : Fin 256) (r : ChannelRecord) (f : Nat) (force : Bool) : Verdict → State
  | .pass score => (s.pinned c r f).done o 0 (pinResult c f r.hold.primary 0 false score)
  | .fail n =>
    if force then (s.pinned c r f).done o 0 (pinResult c f r.hold.primary n true 0)
    else
      match r.hold.primary with
      | some g => (s.pinned c r g).conclude o .failed .noCandidate 0 [pinResult c f (some g) n false 0]
      | none => s.conclude o .failed .noCandidate 0 [pinResult c f none n false 0]

/-- A PIN that has passed its argument, mark and state checks. -/
def State.pin (s : State) (o : Handed) (c : Fin 256) (r : ChannelRecord) (f : Nat) (force strict : Bool) : State :=
  if !s.check1 (s.site.channelCandidate r f) then s.refuse o .badArgument
  else s.pinEnd o c r f force ((s.vacate c r).evaluateFor r f strict)

/-- The procedure of PIN. -/
def pinOrder (o : Handed) (s : State) : State :=
  let f := s.param o 2 2
  let options := s.param o 4 1
  match s.sentChannel o with
  | none => s.refuse o .badArgument
  | some c =>
    if !validStep f || 4 ≤ options then s.refuse o .badArgument
    else if s.marked c then s.refuse o .busy
    else
      match s.channel c with
      | none => s.refuse o .state
      | some r =>
        match r.hold with
        | .defined | .placed _ => s.pin o c r f (options.testBit 0) (options.testBit 1)
        | _ => s.refuse o .state

/-! ### The searches of REPLACE (R96, R97) -/

/-- The first spare of a list that passes for a channel, as its step and score, and the evaluations made. -/
def State.spareSearch (s : State) (r : ChannelRecord) : List Spare → Option (Nat × Nat) × Nat
  | [] => (none, 0)
  | x :: t =>
    match s.evaluateFor r x.step false with
    | .pass score => (some (x.step, score), 1)
    | .fail _ =>
      let y := s.spareSearch r t
      (y.1, y.2 + 1)

/-- The candidates of the full-range search: every grid point but the current frequency. -/
def State.fullRange (s : State) (r : ChannelRecord) (current : Nat) : List Nat :=
  (gridOf r.fields.multiple (r.fields.effective s.site.window)).points.filter fun f => f ≠ current

/-- The better of the best candidate so far and one more: the higher score, the earlier of two equal ones. -/
def better (best : Option (Nat × Nat)) (f : Nat) : Verdict → Option (Nat × Nat)
  | .fail _ => best
  | .pass score =>
    match best with
    | none => some (f, score)
    | some b => if b.2 < score then some (f, score) else some b

/-- The candidate with the highest score, the lowest step among equals, as its step and score. -/
def State.bestOf (s : State) (r : ChannelRecord) (fs : List Nat) : Option (Nat × Nat) :=
  fs.foldl (fun best f => better best f (s.evaluateFor r f false)) none

/-- What a search found: the step, its score and whether it came from the spares; and the evaluations made. -/
abbrev Found := Option (Nat × Nat × Bool) × Nat

/-- The search of REPLACE: the spares of the channel's stage, then the full range unless only spares are asked
for. -/
def State.search (s : State) (r : ChannelRecord) (current : Nat) (sparesOnly : Bool) : Found :=
  match s.spareSearch r s.spares[r.fields.stage] with
  | (some (f, score), n) => (some (f, score, true), n)
  | (none, n) =>
    if sparesOnly then (none, n)
    else
      let fs := s.fullRange r current
      ((s.bestOf r fs).map fun e => (e.1, e.2, false), n + fs.length)

/-! ### Applying a replacement (R30, R96) -/

/-- Takes a spare from its list, and queues UPKEEP where the list falls below its target. -/
def State.takeSpare (s : State) (b : Fin 8) (f : Nat) : State :=
  State.queueUpkeep { s with spares := s.spares.set b (s.spares[b].eraseP fun x => x.step = f) } [b]

/-- The hold of a channel that takes a new frequency: a LIVE one becomes MOVING with its timer started, a PLACED
one stays PLACED. -/
def State.heldAfter (s : State) (h : Hold) (f : Nat) : Hold :=
  match h with
  | .live g => .moving f g (s.now + 1000 * s.site.params.moveWindow)
  | _ => .placed f

/-- Applies what a search found to a channel. -/
def State.applyFound (s : State) (c : Fin 256) (r : ChannelRecord) (f : Nat) (spare : Bool) : State :=
  (if spare then s.takeSpare r.fields.stage f else s).addPrimary c r (s.heldAfter r.hold f) f

/-- The plan after a search that found nothing: the old frequency of a PLACED channel is restored. -/
def State.restore (s : State) (c : Fin 256) (r : ChannelRecord) : State :=
  match r.hold with
  | .placed g => s.addPrimary c r (.placed g) g
  | _ => s

/-- The REPLACE procedure on a channel that is PLACED or LIVE on a frequency: the state after it, and what was
found. -/
def State.replace (s : State) (c : Fin 256) (r : ChannelRecord) (current : Nat) (sparesOnly : Bool) :
    State × Found :=
  let t := s.vacate c r
  let found := t.search r current sparesOnly
  match found.1 with
  | some (f, _, spare) => (s.inStageOrder (t.applyFound c r f spare), found)
  | none => (s.inStageOrder (t.restore c r), found)

/-! ### REPLACE (R95) -/

/-- The result of REPLACE; on failure its score is free. -/
def replaceResult (c : Fin 256) (old : Nat) (found : Found) (free : List Byte) : List Byte :=
  half c.val ++ half old ++ stepField (found.1.map fun e => e.1)
    ++ (match found.1 with
        | some e => half e.2.1 ++ [flagByte e.2.2]
        | none => free ++ [0#8])
    ++ List.replicate 3 0#8 ++ word (BitVec.ofNat 32 found.2)

/-- The end of a REPLACE. -/
def State.replaceEnd (s : State) (o : Handed) (c : Fin 256) (old : Nat) (found : Found) : State :=
  let argument : Word := BitVec.ofNat 32 found.2
  if found.1.isSome then s.done o argument (replaceResult c old found [])
  else (s.draw 1).conclude o .failed .noCandidate argument [replaceResult c old found (s.freeHalf 0)]

/-- The procedure of REPLACE. -/
def replaceOrder (o : Handed) (s : State) : State :=
  let options := s.param o 2 1
  match s.sentChannel o with
  | none => s.refuse o .badArgument
  | some c =>
    if 2 ≤ options then s.refuse o .badArgument
    else if s.marked c then s.refuse o .busy
    else
      match s.channel c with
      | none => s.refuse o .state
      | some r =>
        match r.hold with
        | .placed f | .live f =>
          let x := s.replace c r f (options.testBit 0)
          x.1.replaceEnd o c f x.2
        | _ => s.refuse o .state

/-! ### The auto-move (R99) -/

/-- Runs an auto-move that was not discarded, and marks how it ended. -/
def State.runAutoMove (s : State) (c : Fin 256) (r : ChannelRecord) (f : Nat) : State :=
  let x := s.replace c r f false
  x.1.mark (.channel c) (if x.2.1.isSome then movedFlag else noAlternativeFlag)

/-- The work of an AUTO-MOVE entry: nothing when the channel is not LIVE on the frequency that was hit, or when
CTL.AUTO is 0. -/
def State.autoMove (s : State) (c : Fin 256) (f : Nat) : State :=
  match s.channel c with
  | none => s
  | some r => if r.hold = .live f && s.port.auto then s.runAutoMove c r f else s

end Sys2Proof.Machine
end

