-- ==== Sys2Proof/Machine/CensusOrders.lean ====
section
/-! DEFINITION. REBUILD, internal or handed as REBUILD CENSUS, its steps and its restart, and READ CENSUS (R44 to
R51). -/

namespace Sys2Proof.Machine

/-! ### REBUILD (R45 to R49) -/

/-- The planes cleared and the census REBUILDING, with its cause kept (R45, steps 2 and 3). -/
def Census.startRebuild (c : Census) : Census :=
  { state := .rebuilding, cause := c.cause, plane3 := Vector.replicate 8 [], plane5 := Vector.replicate 8 [] }

/-- The working state of a REBUILD at its start or restart. -/
def State.rebuildWork (s : State) (order : Option Handed) (restarts : Word) : RebuildWork :=
  { order := order, epoch := s.plan.epoch, generation := s.site.generation, restarts := restarts, phase := .add,
    position := 0, added := 0, marked := [] }

/-- Steps 1 to 3 of a REBUILD, and the yield point after the clear (R45). -/
def State.startRebuild (s : State) (order : Option Handed) : State :=
  State.yieldWith { s with census := s.census.startRebuild } (.rebuild (s.rebuildWork order 0))

/-- The restart of a REBUILD that resumes (R46). DESIGN CHOICE: the count of restarts is held in the 32 bits of its field
in the result, and wraps to 0 (notes/assumptions/38.md). -/
def State.restartRebuild (s : State) (w : RebuildWork) : State :=
  State.runWith { s with census := s.census.startRebuild } (.rebuild (s.rebuildWork w.order (w.restarts + 1)))

/-- The result of REBUILD CENSUS. -/
def State.rebuildResult (s : State) (w : RebuildWork) : List Byte :=
  half w.added ++ half w.marked.length ++ word w.restarts ++ [byte s.census.state.code, byte s.census.cause.code]
    ++ half 0 ++ word w.epoch ++ word w.generation

/-- Ends a REBUILD: an order is delivered, an internal one only leaves its context. -/
def State.endRebuild (s : State) (w : RebuildWork) (outcome : OrderOutcome) (reason : Reason) : State :=
  match w.order with
  | some o => s.conclude o outcome reason 0 [s.rebuildResult w]
  | none => s.release

/-- The completion of a REBUILD (R48). -/
def State.rebuildComplete (s : State) (w : RebuildWork) : State :=
  State.endRebuild { s with census := { s.census with state := .valid, cause := .none } } w .done .none

/-- A REBUILD that has added one more frequency; after the last it begins its sweep. -/
def RebuildWork.counted (w : RebuildWork) (total : Nat) : RebuildWork :=
  if w.position + 1 < total then { w with position := w.position + 1, added := w.added + 1 }
  else { w with phase := .sweep, position := 0, added := w.added + 1 }

/-- One step of the add phase: the frequency at the position joins the planes with those before it (R45). -/
def State.rebuildAdd (s : State) (w : RebuildWork) (x : Transmitter) : State :=
  let r := Census.addAll (s.site.increments x (s.plan.transmitters.take w.position)) s.census
  let t := { s with census := r.1 }
  if r.2 then (t.stale .saturated).endRebuild w .failed .saturated
  else t.yieldWith (.rebuild (w.counted s.plan.transmitters.length))

/-- A REBUILD that has marked a channel CONFLICT. -/
def RebuildWork.conflicted (w : RebuildWork) (c : Fin 256) : RebuildWork :=
  { w with marked := w.marked ++ [c] }

/-- One judgement of the conflict sweep (R47). A channel is marked once. -/
def State.rebuildJudge (s : State) (w : RebuildWork) (x : Transmitter) : State × RebuildWork :=
  if s.sweepPasses x || w.marked.contains x.channel then (s, w)
  else (s.mark (.channel x.channel) conflictFlag, w.conflicted x.channel)

/-- One step of the sweep phase; the last one completes the REBUILD. -/
def State.rebuildSweep (s : State) (w : RebuildWork) (x : Transmitter) : State :=
  let r := s.rebuildJudge w x
  if w.position + 1 < s.plan.transmitters.length then
    r.1.yieldWith (.rebuild { r.2 with position := w.position + 1 })
  else r.1.rebuildComplete r.2

/-- One step of a running REBUILD. With no frequency left it completes. -/
def State.rebuildStep (s : State) (w : RebuildWork) : State :=
  match s.plan.transmitters[w.position]? with
  | none => s.rebuildComplete w
  | some x =>
    match w.phase with
    | .add => s.rebuildAdd w x
    | .sweep => s.rebuildSweep w x

/-- The procedure of REBUILD CENSUS at its take-up. -/
def rebuildCensusOrder (o : Handed) (s : State) : State := s.startRebuild (some o)

/-- The take-up of an internal REBUILD entry in its context: discarded when it finds the census VALID (R45). -/
def State.takeRebuild (s : State) : State := if s.census.state = .valid then s.release else s.startRebuild none

/-! ### READ CENSUS (R51) -/

/-- Whether a plane number names plane5 rather than plane3; absent for any other number. -/
def planeOf : Nat → Option Bool
  | 3 => some false
  | 5 => some true
  | _ => none

/-- The summary of READ CENSUS. -/
def State.censusSummary (s : State) (b : Fin 8) (fifth : Bool) (first count : Nat) : List Byte :=
  [byte b.val, if fifth then 5#8 else 3#8] ++ half first ++ half count
    ++ [byte s.census.state.code, byte s.census.cause.code] ++ word s.plan.epoch ++ word s.site.generation

/-- The procedure of READ CENSUS. The first cell holds 112 counts, each further one 120. -/
def readCensusOrder (o : Handed) (s : State) : State :=
  let start := s.param o 2 2
  let count := s.param o 4 2
  match index 8 (s.param o 0 1), planeOf (s.param o 1 1) with
  | some b, some fifth =>
    if count = 0 || !s.site.window.has start then s.refuse o .badArgument
    else
      let span := min count (s.site.window.top + 1 - start)
      let n := min span (112 + 120 * o.rest.length)
      let bytes := s.censusSummary b fifth start n
        ++ (List.range n).flatMap fun i => half (s.census.count (b, fifth, start + i))
      s.doneOrShort o (n < span) (BitVec.ofNat 32 (if n < span then start + n else n)) (pieces 240 8 bytes)
  | _, _ => s.refuse o .badArgument

end Sys2Proof.Machine
end

