-- ==== Sys2Proof/Machine/SpareOrders.lean ====
section
/-! DEFINITION. UPKEEP, REFILL SPARES and READ SPARES (R88 to R94). -/

namespace Sys2Proof.Machine

/-! ### Work on one stage (R89 to R91) -/

/-- The working state of a stage's upkeep at its start or restart (R89, step 1). -/
def State.upkeepWork (s : State) (b : Fin 8) (r : StageRecord) (evaluations : Nat) : UpkeepWork :=
  { stage := b, epoch := s.plan.epoch, grid := gridOf r.multiple (s.site.window.clip r.low r.high), position := 0,
    ranking := [], evaluations := evaluations }

/-- Inserts a spare at the place its score and step give it (R85). -/
def insertSpare (x : Spare) : List Spare → List Spare
  | [] => [x]
  | y :: t => if y.score < x.score ∨ (y.score = x.score ∧ x.step < y.step) then x :: y :: t else y :: insertSpare x t

/-- Whether a stage's list is at its target. -/
def State.atTarget (s : State) (b : Fin 8) : Bool := s.site.target b ≤ s.spares[b].length

/-- Whether the work on a stage has ended: its rank phase is over, and its list is at its target or its ranking
used up. -/
def State.upkeepOver (s : State) (w : UpkeepWork) : Bool :=
  decide (w.grid.count ≤ w.position) && (decide (w.ranking = []) || s.atTarget w.stage)

/-- Whether a candidate of a stage's zone has an in-window bin in a segment whose hit flag is set (R90). -/
def State.inHitSegment (s : State) (r : StageRecord) (f : Nat) : Bool :=
  match r.zone with
  | none => false
  | some z => (allSegments.zip s.zones[z].segments.toList).any fun e =>
      e.2.hit && s.site.window.inSegment e.1 f r.bandwidth.halfWidth

/-- Whether the fill passes over a candidate without evaluating it (R90). -/
def State.passedOver (s : State) (b : Fin 8) (r : StageRecord) (f : Nat) : Bool :=
  s.spares[b].any (fun x => x.step = f || decide (distance x.step f < s.site.spareSpacing r)) || s.inHitSegment r f

/-- One evaluation of the rank phase. -/
def State.rankOne (s : State) (w : UpkeepWork) (r : StageRecord) : UpkeepWork :=
  let f := w.grid.at w.position
  { w with
    position := w.position + 1
    evaluations := w.evaluations + 1
    ranking := match s.evaluateSpare w.stage r f with
      | .pass score => insertSpare { step := f, score := score } w.ranking
      | .fail _ => w.ranking }

/-- Puts a spare on a stage's list. -/
def State.addSpare (s : State) (b : Fin 8) (x : Spare) : State :=
  { s with spares := s.spares.set b (insertSpare x s.spares[b]) }

/-- One candidate of the fill phase. -/
def State.fillOne (s : State) (w : UpkeepWork) (r : StageRecord) (x : Spare) : State × UpkeepWork :=
  let v := { w with ranking := w.ranking.tail }
  if s.passedOver w.stage r x.step then (s, v)
  else
    let u := { v with evaluations := v.evaluations + 1 }
    match s.evaluateSpare w.stage r x.step with
    | .pass score => (s.addSpare w.stage { step := x.step, score := score }, u)
    | .fail _ => (s, u)

/-- One evaluation of the rank phase or one candidate of the fill phase. Nothing is left to do for work that is
over; work with no grid point is over from its start (R89). -/
def State.upkeepUnit (s : State) (w : UpkeepWork) : State × UpkeepWork :=
  match s.site.stages[w.stage] with
  | none => (s, w)
  | some r =>
    if w.position < w.grid.count then (s, s.rankOne w r)
    else
      match w.ranking with
      | x :: _ => if s.atTarget w.stage then (s, w) else s.fillOne w r x
      | [] => (s, w)

/-- Marks SPARES_SHORT for a stage whose work has ended below its target (R91). -/
def State.markShort (s : State) (b : Fin 8) : State :=
  if s.atTarget b then s else s.mark (.stage b) sparesShortFlag

/-- The restart of a stage's work when the plan epoch has changed (R91). -/
def State.restartUpkeep (s : State) (w : UpkeepWork) : UpkeepWork :=
  match s.site.stages[w.stage] with
  | none => w
  | some r => if s.plan.epoch = w.epoch then w else s.upkeepWork w.stage r w.evaluations

/-! ### UPKEEP -/

/-- One step of a running UPKEEP, with the yield point after it or its end. DESIGN CHOICE: an UPKEEP with no grid point ends
in one step without an evaluation, on whose event R89 is silent (notes/assumptions/42.md). -/
def State.upkeepStep (s : State) (w : UpkeepWork) : State :=
  let x := s.upkeepUnit w
  if x.1.upkeepOver x.2 || (x.1.site.stages[w.stage]).isNone then (x.1.markShort w.stage).release
  else x.1.yieldWith (.upkeep x.2)

/-- The take-up of an UPKEEP entry, in its context: discarded when the list is at its target. -/
def State.startUpkeep (s : State) (b : Fin 8) : State :=
  match s.site.stages[b] with
  | none => s.release
  | some r => if s.atTarget b then s.release else s.runWith (.upkeep (s.upkeepWork b r 0))

/-! ### REFILL SPARES (R92, R93) -/

/-- Goes on to the first of the stages ahead whose list is below its target and begins its work; those at their target
count as done, and UNDEFINED ones are passed over (R92). DESIGN CHOICE: all this belongs to the event that ends the stage
before, or to the take-up, and a stage gone past has no yield point of its own; R89, R92 and R136 do not say in which event
it comes (notes/assumptions/42.md). -/
def State.seek (s : State) (w : RefillWork) : List (Fin 8) → RefillWork
  | [] => { w with current := none, rest := [] }
  | b :: t =>
    match s.site.stages[b] with
    | none => s.seek w t
    | some r =>
      if s.atTarget b then
        s.seek { w with finished := w.finished ++ [{ stage := b, evaluations := 0, short := false }] } t
      else { w with current := some (s.upkeepWork b r 0), rest := t }

/-- What a REFILL SPARES reports of a stage it works or has worked: the evaluations, and whether it ended
short. -/
def RefillWork.found (w : RefillWork) (b : Fin 8) : Nat × Bool :=
  match w.finished.find? fun x => x.stage = b with
  | some x => (x.evaluations, x.short)
  | none =>
    match w.current with
    | some u => if u.stage = b then (u.evaluations, false) else (0, false)
    | none => (0, false)

/-- The total number of evaluations. -/
def RefillWork.evaluations (w : RefillWork) : Nat :=
  (w.finished.map RefillResult.evaluations).sum + (w.current.map UpkeepWork.evaluations).getD 0

/-- The target of a stage in a result; free for an UNDEFINED stage. -/
def State.targetByte (s : State) (b : Fin 8) : Byte :=
  match s.site.stages[b] with
  | some r => byte r.target
  | none => s.freeByte b.val

/-- The record of a stage in the result of REFILL SPARES. -/
def State.refillRecord (s : State) (w : RefillWork) (b : Fin 8) : List Byte :=
  [byte b.val, flagByte (s.site.stages[b]).isSome, s.targetByte b, byte s.spares[b].length,
    flagByte (w.found b).2, 0#8, 0#8, 0#8] ++ word (BitVec.ofNat 32 (w.found b).1)

/-- The result of REFILL SPARES. -/
def State.refillResult (s : State) (w : RefillWork) : List Byte := (stagesOf w.mask).flatMap (s.refillRecord w)

/-- Delivers a REFILL SPARES whose last stage is done. -/
def State.endRefill (s : State) (w : RefillWork) : State :=
  let t := s.draw 8
  let argument : Word := BitVec.ofNat 32 w.evaluations
  if w.finished.any RefillResult.short then t.conclude w.order .part .noCandidate argument [s.refillResult w]
  else t.conclude w.order .done .none argument [s.refillResult w]

/-- A REFILL SPARES whose current stage has ended. -/
def State.stageDone (s : State) (w : RefillWork) (u : UpkeepWork) : RefillWork :=
  { w with
    current := none
    finished := w.finished ++ [{ stage := u.stage, evaluations := u.evaluations, short := !s.atTarget u.stage }] }

/-- Stands at the yield point after a step, or delivers when no stage is left. -/
def State.refillOn (s : State) (w : RefillWork) : State :=
  if w.current.isNone then s.endRefill w else s.yieldWith (.refill w)

/-- One step of a running REFILL SPARES. DESIGN CHOICE: a stage with no grid point takes a step of its own, which ends it
without an evaluation and has the yield point or the delivery after it. An order that found no stage below its target is
delivered in a step of its own, not at its take-up. R89, R92 and R136 do not say in which event these come
(notes/assumptions/42.md). -/
def State.refillStep (s : State) (w : RefillWork) : State :=
  match w.current with
  | none => s.endRefill w
  | some u =>
    let x := s.upkeepUnit u
    if x.1.upkeepOver x.2 then
      let t := x.1.markShort u.stage
      t.refillOn (t.seek (t.stageDone w x.2) w.rest)
    else x.1.refillOn { w with current := some x.2 }

/-- The lists after FLUSH: those of the DEFINED stages of a mask are empty. -/
def State.flush (s : State) (mask : BitVec 8) : State :=
  { s with spares := mapPlaces (fun b l => if mask.getLsbD b && (s.site.stages[b]).isSome then [] else l) s.spares }

/-- The procedure of REFILL SPARES at its take-up (R92). It begins the first stage below its target; the order is delivered
in a later step also where there is none (notes/assumptions/42.md). -/
def refillSparesOrder (o : Handed) (s : State) : State :=
  let mask : BitVec 8 := BitVec.ofNat 8 (s.param o 0 1)
  let options := s.param o 1 1
  if mask = 0 ∨ 2 ≤ options then s.refuse o .badArgument
  else
    let t := if options.testBit 0 then s.flush mask else s
    t.runWith (.refill (t.seek { order := o, mask := mask, current := none, rest := [], finished := [] } (stagesOf mask)))

/-! ### READ SPARES (R94) -/

/-- The UPKEEP state of a stage: 0 NONE, 1 QUEUED, 2 ACTIVE (spec 12.3). -/
def Engine.upkeepState (e : Engine) (b : Fin 8) : Nat :=
  if e.upkeepActive b then 2 else if e.routine.contains (.upkeep b) then 1 else 0

/-- The eight spare slots of a block; the score of an unused slot is free. -/
def State.spareSlots (s : State) (b : Fin 8) : List Byte :=
  (List.range 8).flatMap fun i =>
    (match (s.spares[b])[i]? with
     | some x => half x.step ++ half x.score
     | none => half 0xFFFF ++ s.freeHalf (8 * b.val + i)) ++ List.replicate 4 0#8

/-- The block of a stage. -/
def State.spareBlock (s : State) (b : Fin 8) : List Byte :=
  [byte b.val, byte (bitAt 0 (s.site.stages[b]).isSome + 2 * s.engine.upkeepState b), s.targetByte b,
    byte s.spares[b].length] ++ word s.plan.epoch ++ s.spareSlots b

/-- The procedure of READ SPARES. A cell holds three blocks. -/
def readSparesOrder (o : Handed) (s : State) : State :=
  let bs := stagesOf (BitVec.ofNat 8 (s.param o 0 1))
  if bs = [] then s.refuse o .badArgument
  else
    let fit := 3 * o.length
    let n := match bs.drop fit with
      | b :: _ => b.val
      | [] => bs.length
    (s.draw 64).doneOrShort o (fit < bs.length) (BitVec.ofNat 32 n)
      (pieces 216 8 ((bs.take fit).flatMap s.spareBlock))

end Sys2Proof.Machine
end

