-- ==== Sys2Proof/Machine/EngineOrders.lean ====
section
/-! DEFINITION. CANCEL and the resumption of suspended work (R81, R137, R141, R142). -/

namespace Sys2Proof.Machine

/-! ### Stopping suspended work (R142) -/

/-- The order that a piece of routine work belongs to, if it is handed work. -/
def Work.order : Work → Option Handed
  | .place w => some w.order
  | .check w => some w.order
  | .rebuild w => w.order
  | .refill w => some w.order
  | .upkeep _ | .single => none

/-- Leaves the routine context IDLE. -/
def State.idleRoutine (s : State) : State := { s with engine := { s.engine with routineContext := .idle } }

/-- Stops suspended work and delivers its order CANCELLED. -/
def State.cancelWork (s : State) : Work → State
  | .place w =>
    let t := s.rollback w
    t.close w.order .cancelled .none (BitVec.ofNat 32 w.used)
      (pieces 240 8 (PlaceWork.result { w with unplaced := [] } false .none (half w.deepest) t.plan.epoch))
  | .check w => s.close w.order .cancelled .none (BitVec.ofNat 32 w.evaluations) (pieces 240 8 w.result)
  | .rebuild w =>
    match w.order with
    | some o =>
      let t := s.stale .abandoned
      t.close o .cancelled .none 0 [t.rebuildResult w]
    | none => s
  | .refill w =>
    (s.draw 8).close w.order .cancelled .none (BitVec.ofNat 32 w.evaluations) [s.refillResult w]
  | .upkeep _ | .single => s

/-! ### CANCEL (R141, R142) -/

/-- Whether an entry is the handed order with a head cell. -/
def Entry.headed (n : Nat) : Entry → Bool
  | .order o => o.head = n
  | _ => false

/-- The order on a list with a head cell. -/
def queuedOrder (n : Nat) : List Entry → Option Handed
  | [] => none
  | .order o :: t => if o.head = n then some o else queuedOrder n t
  | _ :: t => queuedOrder n t

/-- The queued order with a head cell. -/
def Engine.queued (e : Engine) (n : Nat) : Option Handed := (queuedOrder n e.urgent).or (queuedOrder n e.routine)

/-- Removes the order with a head cell from the lists. -/
def Engine.remove (e : Engine) (n : Nat) : Engine :=
  { e with
    urgent := e.urgent.filter fun x => !x.headed n
    routine := e.routine.filter fun x => !x.headed n }

/-- The suspended work whose order has a head cell. -/
def Engine.suspendedWork (e : Engine) (n : Nat) : Option Work :=
  match e.routineContext with
  | .suspended w => if w.order.map Handed.head = some n then some w else none
  | _ => none

/-- The probe that waits with a head cell, and its link. -/
def State.waitingProbe (s : State) (n : Nat) : Option (Fin 4 × ProbeWork) :=
  allZones.findSome? fun z =>
    match s.links[z].slot with
    | some w => if w.order.head = n then some (z, w) else none
    | none => none

/-- Deals with the target of a CANCEL: the state after the target is delivered; absent when there is none. -/
def State.cancelTarget (s : State) (n : Nat) : Option State :=
  match s.engine.queued n, s.engine.suspendedWork n, s.waitingProbe n with
  | some o, _, _ => some (State.close { s with engine := s.engine.remove n } o .cancelled .none 0 [])
  | none, some w, _ => some (s.cancelWork w).idleRoutine
  | none, none, some (z, w) => some (s.endProbe z w .cancelled .none none)
  | none, none, none => none

/-- The procedure of CANCEL. -/
def cancelOrder (o : Handed) (s : State) : State :=
  let n := s.param o 0 2
  if (poolIndex n).isNone ∨ n = o.head then s.refuse o .badArgument
  else
    match s.cancelTarget n with
    | some t => t.done o 0 []
    | none => s.refuse o .notFound

/-! ### Resumption (R137) -/

/-- The routine context with its suspended work RUNNING again, restarted where the plan or the site model has
changed (R46, R91). -/
def State.resume (s : State) : Work → State
  | .rebuild w =>
    if s.plan.epoch = w.epoch ∧ s.site.generation = w.generation then s.runWith (.rebuild w) else s.restartRebuild w
  | .upkeep w => s.runWith (.upkeep (s.restartUpkeep w))
  | .refill w => s.runWith (.refill { w with current := w.current.map s.restartUpkeep })
  | .place w => s.runWith (.place w)
  | .check w => s.runWith (.check w)
  | .single => s.runWith .single

end Sys2Proof.Machine
end

