-- ==== Sys2Proof/Machine/Arbiter.lean ====
section
/-! DEFINITION. What the arbiter brings about: take-ups and resumptions, one after another in the event that gives it
something to hand out (R134, R135, R138, R140). -/

namespace Sys2Proof.Machine

/-! ### One take-up or resumption -/

/-- The procedure that a code names (R135). -/
def OrderCode.procedure : OrderCode → Handed → State → State
  | .setParameters => setParametersOrder
  | .defineStage => defineStageOrder
  | .setCoupling => setCouplingOrder
  | .addExclusion => addExclusionOrder
  | .dropExclusion => dropExclusionOrder
  | .defineChannel => defineChannelOrder
  | .retireChannel => retireChannelOrder
  | .markLive => markLiveOrder
  | .markIdle => markIdleOrder
  | .release => releaseOrder
  | .readChannels => readChannelsOrder
  | .rebuildCensus => rebuildCensusOrder
  | .readCensus => readCensusOrder
  | .checkList => checkListOrder
  | .place => placeOrder
  | .pin => pinOrder
  | .replace => replaceOrder
  | .confirmMove => confirmMoveOrder
  | .declineMove => declineMoveOrder
  | .refillSpares => refillSparesOrder
  | .readSpares => readSparesOrder
  | .setZone => setZoneOrder
  | .probe => probeOrder
  | .readSpectrum => readSpectrumOrder
  | .readLinks => readLinksOrder
  | .armWatch => armWatchOrder
  | .forceHit => forceHitOrder
  | .readWatch => readWatchOrder
  | .cancel => cancelOrder

/-- An entry that goes into a context and what its take-up brings about. An internal REBUILD that finds the census
VALID is discarded (R45); an AUTO-MOVE is carried out in the event of its take-up (R99). -/
def State.takeEntry (s : State) (urgent : Bool) : Entry → State
  | .order o => o.code.procedure o (s.begin urgent o)
  | .autoMove c f => ((s.beginEntry urgent).autoMove c f).release
  | .rebuild => (s.beginEntry urgent).takeRebuild
  | .upkeep b => (s.beginEntry urgent).startUpkeep b

/-- What the arbiter hands out takes place. -/
def State.handOut (s : State) : Grant → State
  | .takeUrgent e => s.finish (s.takeEntry true e)
  | .takeRoutine e => s.finish (s.takeEntry false e)
  | .resume w => s.finish (s.resume w)

/-! ### The arbiter at the end of an event (R134) -/

/-- A bound on the take-ups that an entry can lead to: an order may queue 256 AUTO-MOVE entries, and an order or an
AUTO-MOVE one entry for each stage and a REBUILD (R132). -/
def Entry.load : Entry → Nat
  | .order _ => 8192
  | .autoMove _ _ => 16
  | .rebuild | .upkeep _ => 1

/-- A bound on the take-ups that the entries on the lists can lead to. -/
def Engine.load (e : Engine) : Nat := ((e.urgent ++ e.routine).map Entry.load).sum

/-- Lets the arbiter act up to `n` times: each take-up that ends leaves a context IDLE, on which it acts again. -/
def State.arbitrateFor : Nat → State → State
  | 0, s => s
  | n + 1, s =>
    match s.arbiter with
    | none => s
    | some g => State.arbitrateFor n (s.handOut g)

/-- The end of an event that may have changed a condition of the arbiter: it acts until it has nothing to hand out
(R134, R138, R140; notes/assumptions/31.md). A resumption is the last of its acts, as the routine context is then
RUNNING. -/
def State.arbitrate (s : State) : State := State.arbitrateFor (s.engine.load + 1) s

/-- The event of the take-up of an order, and of what the arbiter hands out after it. Where the arbiter hands no context
to an order of this code, the event does not occur and nothing changes (notes/assumptions/2.md). -/
def State.takeUp (s : State) (code : OrderCode) (procedure : Handed → State → State) : State :=
  match s.granted code with
  | none => s
  | some (u, o) => (s.finish (procedure o (s.begin u o))).arbitrate

end Sys2Proof.Machine
end

