-- ==== Sys2Proof/Machine/LinkEvents.lean ====
section
/-! DEFINITION. The events of the links that may give the arbiter something to hand out: the frames SWEEP and PROBE
ANSWER, and the deadline of a probe (R103 to R111, R115, R134). -/

namespace Sys2Proof.Machine

/-- A SWEEP frame. One whose stride or level count is wrong is a format error (R102, step 5). -/
def execSweep (link : Fin 4) (number first : Half) (stride flags : Byte) (levels : List Byte) (s : State) :
    Host.Outcome State Fault Refusal :=
  if (Instr.sweep link number first stride flags levels).wellFormed then
    .next (s.finish ((s.validFrame link).sweepFrame link number first stride flags levels)).arbitrate
  else .next (s.finish (s.formatErrorOn link))

/-- A PROBE ANSWER frame. -/
def execProbeAnswer (link : Fin 4) (probeId level : Byte) (s : State) : Host.Outcome State Fault Refusal :=
  .next (s.finish ((s.validFrame link).answer link probeId level)).arbitrate

/-- The deadline of a waiting probe passes. The clock then stands at the deadline or later
(notes/assumptions/5.md). -/
def execProbeDeadline (link : Fin 4) (s : State) : Host.Outcome State Fault Refusal :=
  match s.links[link].slot with
  | none => .next s
  | some w =>
    .next (s.finish (State.endProbe { s with now := max s.now w.deadline } link w .failed .noAnswer none)).arbitrate

end Sys2Proof.Machine
end

