-- ==== Sys2Proof/Machine/Exchange.lean ====
section
/-! DEFINITION. What the host does at the window: CLAIM, HAND, GIVE, the misuse of a register, the notice registers,
CTL writes that start no reset, and writes to exchange memory (R145, R148 to R150, R154, R155). -/

namespace Sys2Proof.Machine

/-- The number in the low 16 bits of a register write (spec 12.2). -/
def lowHalf (value : Word) : Nat := (value.extractLsb' 0 16).toNat

/-- The notice bits of a register write. -/
def noticeBits (value : Word) : BitVec 5 := value.extractLsb' 0 5

/-- Raises FAULT: a register was misused (R154). -/
def State.misuse (s : State) : State := { s with port := s.port.raise faultBit }

/-- A state with another Exchange Port. -/
def State.withPort (s : State) (p : Port) : State := { s with port := p }

/-! ### CLAIM (R148) -/

/-- The port after a read of CLAIM. -/
def Port.claimed (p : Port) : Port :=
  match (if p.reset.isSome then none else p.lowestFree) with
  | some c => { p.setCell c .held with readData := BitVec.ofNat 32 c }
  | none => { p with readData := 0xFFFF#32 }

/-- A host read of CLAIM. -/
def execClaim (s : State) : Host.Outcome State Fault Refusal := .next (s.finish (s.withPort s.port.claimed))

/-! ### HAND (R149) -/

/-- The cells of a chain after those seen, with fuel for its eight cells; absent when the chain breaks its
rules. -/
def Port.chainAfter (p : Port) : Nat → List Nat → Nat → Option (List Nat)
  | 0, _, _ => none
  | fuel + 1, seen, c =>
    let n := p.headField c 4 2
    if n = 0xFFFF then some []
    else if p.hostSide n && !seen.contains n && decide (seen.length < 8) then
      (p.chainAfter fuel (n :: seen) n).map (n :: ·)
    else none

/-- The cells of a chain after its head. -/
def Port.chain (p : Port) (head : Nat) : Option (List Nat) := p.chainAfter 8 [head] head

/-- The flag byte of a head. -/
def Port.headFlags (p : Port) (head : Nat) : Nat := p.headField head 7 1

/-- The checks of a handing after its first: the order, or the reason it fails. -/
def Port.handed (p : Port) (head : Nat) : Except Reason Handed :=
  match p.chain head, orderOf (p.headField head 6 1) with
  | none, _ => .error .malformed
  | some _, none => .error .malformed
  | some rest, some code =>
    let urgent := (p.headFlags head).testBit 0
    if urgent && !code.urgentPermitted then .error .wrongClass
    else .ok { head := head, rest := rest, code := code, urgent := urgent, quiet := (p.headFlags head).testBit 1 }

/-- An order joins the list of its class (R132). -/
def Engine.join (e : Engine) (o : Handed) : Engine :=
  if o.urgent then { e with urgent := e.urgent ++ [.order o] } else { e with routine := e.routine ++ [.order o] }

/-- An order that passes its checks: its cells become QUEUED and it joins its list. -/
def State.accept (s : State) (o : Handed) : State :=
  { s with
    engine := s.engine.join o
    port := (s.port.setCells o.cells .queued).leave o.cells }

/-- A head delivered alone as REFUSED. An entry of the out list that named it is live no longer. -/
def State.turnAway (s : State) (head : Nat) (reason : Reason) : State :=
  let p := s.port.leave [head]
  s.withPort (p.deliver head [] ((p.headFlags head).testBit 0) .refused reason 0 [])

/-- The event of a write to HAND outside a reset. An order that joins its list may be taken up in the same event
(R134). -/
def State.handIn (s : State) (head : Nat) : State :=
  if !s.port.hostSide head then s.finish s.misuse
  else
    match s.port.handed head with
    | .ok o => (s.finish (s.accept o)).arbitrate
    | .error reason => (s.finish (s.turnAway head reason)).arbitrate

/-- A host write to HAND. -/
def execHand (value : Word) (s : State) : Host.Outcome State Fault Refusal :=
  .next (if s.port.reset.isSome then s.finish s.misuse else s.handIn (lowHalf value))

/-! ### GIVE and the misuse of a register (R150) -/

/-- The effect of a write to GIVE outside a reset. -/
def State.giveBack (s : State) (c : Nat) : State :=
  if s.port.hostSide c then State.attempt (s.withPort ((s.port.setCell c .free).leave [c])) else s.misuse

/-- A host write to GIVE. -/
def execGive (value : Word) (s : State) : Host.Outcome State Fault Refusal :=
  .next (s.finish (if s.port.reset.isSome then s.misuse else s.giveBack (lowHalf value)))

/-- A host write to ID or CLAIM. -/
def execFault (_register : ReadOnlyRegister) (_value : Word) (s : State) : Host.Outcome State Fault Refusal :=
  .next (s.finish s.misuse)

/-! ### Notices (R154) -/

/-- A host write to NOTE: each raw flag written 1 is cleared. -/
def execNote (value : Word) (s : State) : Host.Outcome State Fault Refusal :=
  .next (s.finish (s.withPort { s.port with raw := s.port.raw &&& ~~~(noticeBits value) }))

/-- A host write to NOTE_ON: each enable written 1 is set. -/
def execNoteOn (value : Word) (s : State) : Host.Outcome State Fault Refusal :=
  .next (s.finish (s.withPort { s.port with enables := s.port.enables ||| noticeBits value }))

/-- A host write to NOTE_OFF: each enable written 1 is cleared. -/
def execNoteOff (value : Word) (s : State) : Host.Outcome State Fault Refusal :=
  .next (s.finish (s.withPort { s.port with enables := s.port.enables &&& ~~~(noticeBits value) }))

/-! ### CTL without a reset request (R155) -/

/-- Stores RUN and AUTO. -/
def Port.switches (p : Port) (run auto : Bool) : Port := { p with run := run, auto := auto }

/-- The event of a CTL write with SOFT and XRESET 0: it stores RUN and AUTO outside a reset, and the arbiter acts on
RUN (R138). It raises FAULT in an exchange or a soft reset, and has no effect in a power-on reset. -/
def State.ctlWrite (s : State) (run auto : Bool) : State :=
  match s.port.reset.map ResetRun.kind with
  | none => (s.finish (s.withPort (s.port.switches run auto))).arbitrate
  | some .powerOn => s.finish s
  | some .soft | some .exchange => s.finish s.misuse

/-- A CTL write that switches RUN. -/
def execCtlRun (run auto : Bool) (s : State) : Host.Outcome State Fault Refusal :=
  .next (s.ctlWrite run auto)

/-- A CTL write that switches AUTO. -/
def execCtlAuto (run auto : Bool) (s : State) : Host.Outcome State Fault Refusal :=
  .next (s.ctlWrite run auto)

/-! ### Writes to exchange memory (R145) -/

/-- Whether an offset lies in a pool cell. -/
def poolOffset (a : Nat) : Bool := 0x900 ≤ a ∧ a < 0x20000

/-- Writes bytes at consecutive offsets; only those in pool cells are stored. -/
def Memory.hostWrite (m : Memory) (a : Nat) : List Byte → Memory
  | [] => m
  | b :: t => Memory.hostWrite (if poolOffset a then m.write a b else m) (a + 1) t

/-- A host write of bytes to the window. One that leaves the window or touches a register is no write of this
kind, and changes nothing (notes/assumptions/7.md). -/
def execHostCellWrite (offset : BitVec 18) (data : List Byte) (s : State) : Host.Outcome State Fault Refusal :=
  if hostRangeOk offset.toNat data.length then
    .next (s.finish (s.withPort { s.port with memory := s.port.memory.hostWrite offset.toNat data }))
  else .next s

end Sys2Proof.Machine
end

