-- ==== Sys2Proof/Machine/Resets.lean ====
section
/-! DEFINITION. The power-on, soft and exchange resets and their end (R143, R144, R155 to R157, and the reset tables
of each block). -/

namespace Sys2Proof.Machine

/-- A port at the beginning of a soft or exchange reset: the backlog is discarded, and every QUEUED and ACTIVE
cell becomes FREE (R156). -/
def Port.beginReset (p : Port) (kind : ResetKind) (now : Nat) : Port :=
  { p with
    cells := mapTable (fun st => if st = .queued ∨ st = .active then .free else st) p.cells
    backlog := []
    reset := some { kind := kind, ends := now + Config.resetTime } }

/-! ### Soft reset -/

/-- A link at the beginning of a soft reset (R118). What the scanner has sent, and what the device has sent it,
stays on the line. -/
def Link.softReset (l : Link) : Link := { Link.cleared with sent := l.sent, line := l.line }

/-- A zone at the beginning of a soft reset: its settings are kept (R118, R131). -/
def Zone.softReset (z : Zone) : Zone := { Zone.powerOn with settings := z.settings }

/-- The actions of a soft reset at its beginning, RUN and AUTO stored as written. -/
def State.beginSoft (s : State) (run auto : Bool) : State :=
  { s with
    plan := Plan.cleared
    census := Census.cleared
    spares := Vector.replicate 8 []
    links := mapTable Link.softReset s.links
    zones := mapTable Zone.softReset s.zones
    engine := Engine.cleared
    reports := Reports.cleared
    port := (s.port.switches run auto).beginReset .soft s.now }

/-- A CTL write with SOFT 1. -/
def execSoftReset (run auto _xreset : Bool) (s : State) : Host.Outcome State Fault Refusal :=
  match s.port.reset.map ResetRun.kind with
  | none | some .exchange => .next (s.finish (s.beginSoft run auto))
  | some .soft => .next (s.finish s.misuse)
  | some .powerOn => .next s

/-! ### Exchange reset -/

/-- Whether an entry is internal. -/
def Entry.isInternal : Entry → Bool
  | .order _ => false
  | .autoMove _ _ | .rebuild | .upkeep _ => true

/-- The lists without their handed entries (R143). -/
def Engine.keepInternal (e : Engine) : Engine :=
  { e with urgent := e.urgent.filter Entry.isInternal, routine := e.routine.filter Entry.isInternal }

/-- Abandons handed routine work without delivery: a PLACE is rolled back, a REBUILD CENSUS leaves the census
STALE, a CHECK LIST or REFILL SPARES ends (R143). -/
def State.abandonWork (s : State) : State :=
  match s.engine.routineContext.work with
  | some (.place w) => (s.rollback w).idleRoutine
  | some (.rebuild w) => if w.order.isSome then (s.stale .abandoned).idleRoutine else s
  | some (.check _) | some (.refill _) => s.idleRoutine
  | some (.upkeep _) | some .single | none => s

/-- The actions of an exchange reset at its beginning, RUN and AUTO stored as written. -/
def State.beginExchange (s : State) (run auto : Bool) : State :=
  let t := s.abandonWork
  { t with
    engine := t.engine.keepInternal
    links := mapTable (fun l => { l with slot := none }) t.links
    port := (t.port.switches run auto).beginReset .exchange t.now }

/-- A CTL write with SOFT 0 and XRESET 1. With RUN at 1 the arbiter goes on with the internal entries that are left
(R143). -/
def execExchangeReset (run auto : Bool) (s : State) : Host.Outcome State Fault Refusal :=
  match s.port.reset.map ResetRun.kind with
  | none => .next (s.finish (s.beginExchange run auto)).arbitrate
  | some .soft | some .exchange => .next (s.finish s.misuse)
  | some .powerOn => .next s

/-! ### Power-on reset -/

/-- The Exchange Port while a power-on reset is in progress: every byte of exchange memory is 0, the header
included, and no notice is raised (R145, R156, R157). -/
def Port.poweringOn (now : Nat) : Port :=
  { Port.powerOn with
    header := Header.zeroed
    raw := 0
    reset := some { kind := .powerOn, ends := now + Config.resetTime } }

/-- Power is applied: every block takes its power-on values. The model's clock, its count of free values and its
queue go on, and so do bytes on the lines of the scanners. -/
def execPowerOnReset (s : State) : Host.Outcome State Fault Refusal :=
  .next
    { State.reset with
      links := mapTable (fun l => { Link.cleared with line := l.line }) s.links
      port := Port.poweringOn s.now
      now := s.now
      free := s.free
      pending := s.pending }

/-! ### The end of a reset (R156, R157) -/

/-- The port at the end of a reset of a kind. -/
def Port.endReset (p : Port) (kind : ResetKind) : Port :=
  { p with
    cells := Vector.replicate 503 .free
    memory := if kind = .powerOn then [] else p.memory
    outList := []
    outTotal := 0
    backlog := []
    raw := (if kind = .exchange then p.raw else 0) ||| resetDoneBit
    enables := if kind = .powerOn then 0 else p.enables
    run := if kind = .exchange then p.run else false
    auto := if kind = .powerOn then false else p.auto
    reset := none }

/-- The end of the reset in progress; the clock then stands at its end or later (notes/assumptions/5.md). -/
def execResetEnd (s : State) : Host.Outcome State Fault Refusal :=
  match s.port.reset with
  | none => .next s
  | some r =>
    .next (State.finishReset (State.attempt
      { s with port := s.port.endReset r.kind, now := max s.now r.ends }))

end Sys2Proof.Machine
end

