-- ==== Sys2Proof/Machine/TakeUps.lean ====
section
/-! DEFINITION. The commands of the Order Engine: the take-up of each order and of each internal entry, the resumption of
suspended work, and the steps of running work (R133 to R137). -/

namespace Sys2Proof.Machine

/-! ### Orders -/

/-- SET PARAMETERS. -/
def execSetParameters (s : State) : Host.Outcome State Fault Refusal :=
  .next (s.takeUp .setParameters setParametersOrder)

/-- DEFINE STAGE. -/
def execDefineStage (s : State) : Host.Outcome State Fault Refusal :=
  .next (s.takeUp .defineStage defineStageOrder)

/-- SET COUPLING. -/
def execSetCoupling (s : State) : Host.Outcome State Fault Refusal :=
  .next (s.takeUp .setCoupling setCouplingOrder)

/-- ADD EXCLUSION. -/
def execAddExclusion (s : State) : Host.Outcome State Fault Refusal :=
  .next (s.takeUp .addExclusion addExclusionOrder)

/-- DROP EXCLUSION. -/
def execDropExclusion (s : State) : Host.Outcome State Fault Refusal :=
  .next (s.takeUp .dropExclusion dropExclusionOrder)

/-- DEFINE CHANNEL. -/
def execDefineChannel (s : State) : Host.Outcome State Fault Refusal :=
  .next (s.takeUp .defineChannel defineChannelOrder)

/-- RETIRE CHANNEL. -/
def execRetireChannel (s : State) : Host.Outcome State Fault Refusal :=
  .next (s.takeUp .retireChannel retireChannelOrder)

/-- MARK LIVE. -/
def execMarkLive (s : State) : Host.Outcome State Fault Refusal := .next (s.takeUp .markLive markLiveOrder)

/-- MARK IDLE. -/
def execMarkIdle (s : State) : Host.Outcome State Fault Refusal := .next (s.takeUp .markIdle markIdleOrder)

/-- RELEASE. -/
def execRelease (s : State) : Host.Outcome State Fault Refusal := .next (s.takeUp .release releaseOrder)

/-- CONFIRM MOVE. -/
def execConfirmMove (s : State) : Host.Outcome State Fault Refusal :=
  .next (s.takeUp .confirmMove confirmMoveOrder)

/-- DECLINE MOVE. -/
def execDeclineMove (s : State) : Host.Outcome State Fault Refusal :=
  .next (s.takeUp .declineMove declineMoveOrder)

/-- READ CHANNELS. -/
def execReadChannels (s : State) : Host.Outcome State Fault Refusal :=
  .next (s.takeUp .readChannels readChannelsOrder)

/-- Take-up of REBUILD CENSUS. -/
def execRebuildCensus (s : State) : Host.Outcome State Fault Refusal :=
  .next (s.takeUp .rebuildCensus rebuildCensusOrder)

/-- READ CENSUS. -/
def execReadCensus (s : State) : Host.Outcome State Fault Refusal := .next (s.takeUp .readCensus readCensusOrder)

/-- Take-up of CHECK LIST. -/
def execCheckList (s : State) : Host.Outcome State Fault Refusal := .next (s.takeUp .checkList checkListOrder)

/-- Take-up of PLACE. -/
def execPlace (s : State) : Host.Outcome State Fault Refusal := .next (s.takeUp .place placeOrder)

/-- PIN. -/
def execPin (s : State) : Host.Outcome State Fault Refusal := .next (s.takeUp .pin pinOrder)

/-- REPLACE. -/
def execReplace (s : State) : Host.Outcome State Fault Refusal := .next (s.takeUp .replace replaceOrder)

/-- Take-up of REFILL SPARES. -/
def execRefillSpares (s : State) : Host.Outcome State Fault Refusal :=
  .next (s.takeUp .refillSpares refillSparesOrder)

/-- READ SPARES. -/
def execReadSpares (s : State) : Host.Outcome State Fault Refusal := .next (s.takeUp .readSpares readSparesOrder)

/-- SET ZONE. -/
def execSetZone (s : State) : Host.Outcome State Fault Refusal := .next (s.takeUp .setZone setZoneOrder)

/-- PROBE. -/
def execProbe (s : State) : Host.Outcome State Fault Refusal := .next (s.takeUp .probe probeOrder)

/-- READ LINKS. -/
def execReadLinks (s : State) : Host.Outcome State Fault Refusal := .next (s.takeUp .readLinks readLinksOrder)

/-- READ SPECTRUM. -/
def execReadSpectrum (s : State) : Host.Outcome State Fault Refusal :=
  .next (s.takeUp .readSpectrum readSpectrumOrder)

/-- ARM WATCH. -/
def execArmWatch (s : State) : Host.Outcome State Fault Refusal := .next (s.takeUp .armWatch armWatchOrder)

/-- FORCE HIT. -/
def execForceHit (s : State) : Host.Outcome State Fault Refusal := .next (s.takeUp .forceHit forceHitOrder)

/-- READ WATCH. -/
def execReadWatch (s : State) : Host.Outcome State Fault Refusal := .next (s.takeUp .readWatch readWatchOrder)

/-- CANCEL. -/
def execCancel (s : State) : Host.Outcome State Fault Refusal := .next (s.takeUp .cancel cancelOrder)

/-! ### Internal entries -/

/-- Take-up of an AUTO-MOVE entry. -/
def execAutoMove (s : State) : Host.Outcome State Fault Refusal :=
  match s.arbiter with
  | some (.takeUrgent (.autoMove c f)) => .next (s.handOut (.takeUrgent (.autoMove c f))).arbitrate
  | _ => .next s

/-- Take-up of an internal REBUILD entry: discarded when it finds the census VALID (R45). -/
def execRebuild (s : State) : Host.Outcome State Fault Refusal :=
  match s.arbiter with
  | some (.takeRoutine .rebuild) => .next (s.handOut (.takeRoutine .rebuild)).arbitrate
  | _ => .next s

/-- Take-up of an internal UPKEEP entry (R89). -/
def execUpkeep (s : State) : Host.Outcome State Fault Refusal :=
  match s.arbiter with
  | some (.takeRoutine (.upkeep b)) => .next (s.handOut (.takeRoutine (.upkeep b))).arbitrate
  | _ => .next s

/-! ### Suspended and running work -/

/-- A suspended routine entry resumes. -/
def execResumption (s : State) : Host.Outcome State Fault Refusal :=
  match s.arbiter with
  | some (.resume w) => .next (s.handOut (.resume w))
  | _ => .next s

/-- One step of the REBUILD that runs. -/
def execRebuildStep (s : State) : Host.Outcome State Fault Refusal :=
  match s.running with
  | some (.rebuild w) => .next (s.finish (s.rebuildStep w)).arbitrate
  | _ => .next s

/-- One entry of the CHECK LIST that runs. -/
def execCheckListEntry (s : State) : Host.Outcome State Fault Refusal :=
  match s.running with
  | some (.check w) => .next (s.finish (s.checkStep w)).arbitrate
  | _ => .next s

/-- One evaluation of the PLACE that runs. -/
def execPlaceStep (s : State) : Host.Outcome State Fault Refusal :=
  match s.running with
  | some (.place w) => .next (s.finish (s.placeStep w)).arbitrate
  | _ => .next s

/-- One step of the UPKEEP that runs. -/
def execUpkeepStep (s : State) : Host.Outcome State Fault Refusal :=
  match s.running with
  | some (.upkeep w) => .next (s.finish (s.upkeepStep w)).arbitrate
  | _ => .next s

/-- One step of the REFILL SPARES that runs. -/
def execRefillSparesStep (s : State) : Host.Outcome State Fault Refusal :=
  match s.running with
  | some (.refill w) => .next (s.finish (s.refillStep w)).arbitrate
  | _ => .next s

end Sys2Proof.Machine
end

