-- ==== Sys2Proof/Machine/Receiver.lean ====
section
/-! DEFINITION. The receiver of a scanner link, byte by byte (R102, R166), and what the device does next on its own
when no command waits: the device's tick (notes/assumptions/4.md). -/

namespace Sys2Proof.Machine

/-! ### The receiver (R102) -/

/-- The receiver after one byte more: hunting for the sync pair, or inside a frame. -/
def feed : List Byte → Byte → List Byte
  | [], b => if b = 0x9B#8 then [b] else []
  | [a], b => if b = 0x64#8 then [a, b] else if b = 0x9B#8 then [b] else []
  | a :: c :: t, b => (a :: c :: t) ++ [b]

/-- The receiver after bytes. -/
def feedAll (l : List Byte) : List Byte := l.foldl feed []

/-- A number from two bytes, high byte first (R166). -/
def bigEndian (a b : Byte) : Nat := 256 * a.toNat + b.toNat

/-- The length field of a frame; absent until both its bytes are in. -/
def frameLength : List Byte → Option Nat
  | _ :: _ :: a :: b :: _ => some (bigEndian a b)
  | _ => none

/-- The type byte of a frame; absent until it is in. -/
def frameType : List Byte → Option Byte
  | _ :: _ :: _ :: _ :: t :: _ => some t
  | _ => none

/-- Whether a type the scanner sends allows a length (R102, step 3). -/
def lengthOk (type : Byte) (n : Nat) : Bool :=
  if type = 0x01#8 then 10 ≤ n ∧ n ≤ 1033
  else if type = 0x03#8 then n = 3
  else type = 0x04#8 ∧ n = 1

/-- Whether a frame fails at its length or its type (R102, steps 2 and 3). -/
def badStart (l : List Byte) : Bool :=
  match frameLength l with
  | none => false
  | some n =>
    n = 0 || decide (1100 < n) ||
      (match frameType l with
       | some t => !lengthOk t n
       | none => false)

/-- Whether every byte of a frame is in, its CRC included. -/
def complete (l : List Byte) : Bool :=
  match frameLength l with
  | some n => l.length = n + 6
  | none => false

/-- Whether the CRC of a complete frame matches (R102, step 4). -/
def crcMatches (l : List Byte) : Bool := high (crc ((l.drop 2).dropLast.dropLast)) = l.drop (l.length - 2)

/-- The event of a SWEEP frame from its payload: a level count that disagrees with the length is a format error
(R102, step 5). -/
def sweepEvent (link : Fin 4) : List Byte → Instr
  | n1 :: n0 :: f1 :: f0 :: stride :: flags :: c1 :: c0 :: levels =>
    if levels.length = bigEndian c1 c0 then
      .sweep link (BitVec.ofNat 16 (bigEndian n1 n0)) (BitVec.ofNat 16 (bigEndian f1 f0)) stride flags levels
    else .formatError link
  | _ => .formatError link

/-- The event of a complete frame. -/
def frameEvent (link : Fin 4) (l : List Byte) : Instr :=
  let payload := (l.drop 5).dropLast.dropLast
  if !crcMatches l then .crcError link
  else
    match frameType l, payload with
    | some 0x01#8, p => sweepEvent link p
    | some 0x03#8, [i, v] => .probeAnswer link i v
    | some 0x04#8, [] => .idle link
    | _, _ => .formatError link

/-- What a receiver does with the bytes it is inside: the event they bring about, if any, and the receiver after
it. A frame that fails at its length or type is hunted again from the byte after its sync pair. -/
def receive (link : Fin 4) (l : List Byte) : Option Instr × List Byte :=
  if badStart l then (some (.formatError link), feedAll (l.drop 2))
  else if complete l then (some (frameEvent link l), [])
  else (none, l)

/-! ### What is due (R31, R109, R115, R134, R136, R156) -/

/-- The take-up command of an order. -/
def OrderCode.command : OrderCode → Instr
  | .setParameters => .setParameters
  | .defineStage => .defineStage
  | .setCoupling => .setCoupling
  | .addExclusion => .addExclusion
  | .dropExclusion => .dropExclusion
  | .defineChannel => .defineChannel
  | .retireChannel => .retireChannel
  | .markLive => .markLive
  | .markIdle => .markIdle
  | .release => .release
  | .readChannels => .readChannels
  | .rebuildCensus => .rebuildCensus
  | .readCensus => .readCensus
  | .checkList => .checkList
  | .place => .place
  | .pin => .pin
  | .replace => .replace
  | .confirmMove => .confirmMove
  | .declineMove => .declineMove
  | .refillSpares => .refillSpares
  | .readSpares => .readSpares
  | .setZone => .setZone
  | .probe => .probe
  | .readSpectrum => .readSpectrum
  | .readLinks => .readLinks
  | .armWatch => .armWatch
  | .forceHit => .forceHit
  | .readWatch => .readWatch
  | .cancel => .cancel

/-- The take-up command of an entry. -/
def Entry.command : Entry → Instr
  | .order o => o.code.command
  | .autoMove _ _ => .autoMove
  | .rebuild => .rebuild
  | .upkeep _ => .upkeep

/-- The command of what the arbiter hands out. -/
def Grant.command : Grant → Instr
  | .takeUrgent e | .takeRoutine e => e.command
  | .resume _ => .resumption

/-- The command of the next step of running work. -/
def Work.command : Work → Option Instr
  | .place _ => some .placeStep
  | .check _ => some .checkListEntry
  | .rebuild _ => some .rebuildStep
  | .upkeep _ => some .upkeepStep
  | .refill _ => some .refillSparesStep
  | .single => none

/-- The end of a reset, when it is due. -/
def State.resetDue (s : State) : Option Instr :=
  match s.port.reset with
  | some r => if r.ends ≤ s.now then some .resetEnd else none
  | none => none

/-- A probe deadline that is due. -/
def State.deadlineDue (s : State) : Option Instr :=
  (allZones.find? fun z => match s.links[z].slot with
    | some w => w.deadline ≤ s.now
    | none => false).map Instr.probeDeadline

/-- A move timer that is due. -/
def State.moveDue (s : State) : Option Instr :=
  (s.plan.records.find? fun e => match e.2.hold with
    | .moving _ _ expiry => expiry ≤ s.now
    | _ => false).map fun e => .moveTimerExpiry e.1

/-- A link timeout that is due. -/
def State.timeoutDue (s : State) : Option Instr :=
  (allZones.find? fun z => match s.timeoutAt z with
    | some t => t ≤ s.now
    | none => false).map Instr.linkTimeout

/-- What the device does next on its own, in a fixed order: the arbiter's take-up or resumption, a step of the
work that runs, the end of a reset, then the timers. -/
def State.due (s : State) : Option Instr :=
  (s.arbiter.map Grant.command).or
    ((s.running.bind Work.command).or (s.resetDue.or (s.deadlineDue.or (s.moveDue.or s.timeoutDue))))

/-- The first link with a byte to take, and that byte with the bytes behind it. -/
def State.nextByte (s : State) : Option (Fin 4 × Byte × List Byte) :=
  allZones.findSome? fun z =>
    match s.links[z].line with
    | b :: t => some (z, b, t)
    | [] => none

/-- A state with a receiver's bytes. -/
def State.withReceiver (s : State) (z : Fin 4) (l : List Byte) : State := s.onLink z fun k => { k with receiver := l }

/-- The state whose receiver has taken a byte from its line. -/
def State.takeByte (s : State) (z : Fin 4) (b : Byte) (rest : List Byte) : State :=
  s.onLink z fun k => { k with receiver := feed k.receiver b, line := rest }

/-- The clock one millisecond on. -/
def State.idle (s : State) : State := { s with now := s.now + 1 }

end Sys2Proof.Machine
end

