-- ==== Sys2Proof/Machine/Dispatch.lean ====
section
/-! DEFINITION. The meaning of each command, one direct call an arm. -/

namespace Sys2Proof.Machine

def exec (i : Instr) (s : State) : Host.Outcome State Fault Refusal :=
  match i with
  | .setParameters => Sys2Proof.Machine.execSetParameters s
  | .defineStage => Sys2Proof.Machine.execDefineStage s
  | .setCoupling => Sys2Proof.Machine.execSetCoupling s
  | .addExclusion => Sys2Proof.Machine.execAddExclusion s
  | .dropExclusion => Sys2Proof.Machine.execDropExclusion s
  | .defineChannel => Sys2Proof.Machine.execDefineChannel s
  | .retireChannel => Sys2Proof.Machine.execRetireChannel s
  | .markLive => Sys2Proof.Machine.execMarkLive s
  | .markIdle => Sys2Proof.Machine.execMarkIdle s
  | .release => Sys2Proof.Machine.execRelease s
  | .confirmMove => Sys2Proof.Machine.execConfirmMove s
  | .declineMove => Sys2Proof.Machine.execDeclineMove s
  | .readChannels => Sys2Proof.Machine.execReadChannels s
  | .rebuildCensus => Sys2Proof.Machine.execRebuildCensus s
  | .rebuild => Sys2Proof.Machine.execRebuild s
  | .rebuildStep => Sys2Proof.Machine.execRebuildStep s
  | .readCensus => Sys2Proof.Machine.execReadCensus s
  | .checkList => Sys2Proof.Machine.execCheckList s
  | .checkListEntry => Sys2Proof.Machine.execCheckListEntry s
  | .place => Sys2Proof.Machine.execPlace s
  | .placeStep => Sys2Proof.Machine.execPlaceStep s
  | .pin => Sys2Proof.Machine.execPin s
  | .replace => Sys2Proof.Machine.execReplace s
  | .autoMove => Sys2Proof.Machine.execAutoMove s
  | .upkeep => Sys2Proof.Machine.execUpkeep s
  | .upkeepStep => Sys2Proof.Machine.execUpkeepStep s
  | .refillSpares => Sys2Proof.Machine.execRefillSpares s
  | .refillSparesStep => Sys2Proof.Machine.execRefillSparesStep s
  | .readSpares => Sys2Proof.Machine.execReadSpares s
  | .setZone => Sys2Proof.Machine.execSetZone s
  | .probe => Sys2Proof.Machine.execProbe s
  | .probeDeadline link => Sys2Proof.Machine.execProbeDeadline link s
  | .readSpectrum => Sys2Proof.Machine.execReadSpectrum s
  | .readLinks => Sys2Proof.Machine.execReadLinks s
  | .armWatch => Sys2Proof.Machine.execArmWatch s
  | .forceHit => Sys2Proof.Machine.execForceHit s
  | .readWatch => Sys2Proof.Machine.execReadWatch s
  | .cancel => Sys2Proof.Machine.execCancel s
  | .resumption => Sys2Proof.Machine.execResumption s
  | .claim => Sys2Proof.Machine.execClaim s
  | .hand value => Sys2Proof.Machine.execHand value s
  | .give value => Sys2Proof.Machine.execGive value s
  | .fault register value => Sys2Proof.Machine.execFault register value s
  | .note value => Sys2Proof.Machine.execNote value s
  | .noteOn value => Sys2Proof.Machine.execNoteOn value s
  | .noteOff value => Sys2Proof.Machine.execNoteOff value s
  | .ctlRun run auto => Sys2Proof.Machine.execCtlRun run auto s
  | .ctlAuto run auto => Sys2Proof.Machine.execCtlAuto run auto s
  | .softReset run auto xreset => Sys2Proof.Machine.execSoftReset run auto xreset s
  | .exchangeReset run auto => Sys2Proof.Machine.execExchangeReset run auto s
  | .powerOnReset => Sys2Proof.Machine.execPowerOnReset s
  | .resetEnd => Sys2Proof.Machine.execResetEnd s
  | .sweep link number first stride flags levels => Sys2Proof.Machine.execSweep link number first stride flags levels s
  | .probeAnswer link probeId level => Sys2Proof.Machine.execProbeAnswer link probeId level s
  | .idle link => Sys2Proof.Machine.execIdle link s
  | .crcError link => Sys2Proof.Machine.execCrcError link s
  | .formatError link => Sys2Proof.Machine.execFormatError link s
  | .linkTimeout link => Sys2Proof.Machine.execLinkTimeout link s
  | .moveTimerExpiry channel => Sys2Proof.Machine.execMoveTimerExpiry channel s
  | .hostCellWrite offset data => Sys2Proof.Machine.execHostCellWrite offset data s

end Sys2Proof.Machine
end

