-- ==== Sys2Proof/Machine/Step.lean ====
section
/-! DEFINITION. A step: the command at the front of the queue, or what the device does on its own when none
waits (notes/assumptions/4.md). -/

namespace Sys2Proof.Machine

/-- A byte taken from a scanner's line, with the event it brings about. -/
def stepByte (z : Fin 4) (b : Byte) (rest : List Byte) (s : State) : Host.Outcome State Fault Refusal :=
  let t := s.takeByte z b rest
  match receive z t.links[z].receiver with
  | (none, _) => .next t
  | (some c, after) =>
    match exec c t with
    | .next u => .next (u.withReceiver z after)
    | .fault r => .fault r
    | .refused r => .refused r

/-- What the device does when no command waits: an event of its own that is due, else a byte that has arrived on
a link, else a millisecond passes. -/
def tick (s : State) : Host.Outcome State Fault Refusal :=
  match s.due with
  | some c => exec c s
  | none =>
    match s.nextByte with
    | some (z, b, rest) => stepByte z b rest s
    | none => .next s.idle

/-- One step of the machine. -/
def step (s : State) : Host.Outcome State Fault Refusal :=
  match s.pending with
  | c :: rest => exec c { s with pending := rest }
  | [] => tick s

/-- A state with the command that a table word spells at the front of its queue. -/
def State.withFetchWord (s : State) (nbits w : Nat) : State :=
  match decodeTableWord nbits w with
  | some c => { s with pending := c :: s.pending }
  | none => s

end Sys2Proof.Machine
end

