-- ==== Sys2Proof/Safety.lean ====
section
/-! DEFINITION. What a sound state is, rule by rule, and the terms in which the statements say what a command leaves
unchanged. -/

namespace Sys2Proof.Machine

/-! ### Rules that hold between commands -/

/-- The notice line is asserted exactly while a raw flag has its enable set (R154, R167). -/
def State.lineTrue (s : State) : Prop := s.port.line = s.port.asserted

/-- The header mirrors the blocks (R147); in a power-on reset it has yet to be written (R145, R156). -/
def State.headerTrue (s : State) : Prop :=
  s.port.header = s.mirror ∨ s.port.reset.map ResetRun.kind = some .powerOn

/-- Exchange memory and the out list stand in their canonical forms, and a delivery is held back only while the next
slot of the out list is live (R152). -/
def State.memoryOk (s : State) : Prop :=
  s.port.memory.wf = true ∧ sparseOk OutSlot.zero s.port.outList = true ∧
    (s.port.backlog = [] ∨ s.port.blocked = true)

/-- The planes stand in their canonical form, and no count exceeds 65,535 (R36). -/
def Census.planesOk (c : Census) : Prop :=
  (∀ b : Fin 8, sparseOk 0 c.plane3[b] = true ∧ sparseOk 0 c.plane5[b] = true) ∧
    ∀ i : Increment, c.count i ≤ Config.countLimit

/-- The maps of the zones stand in their canonical form. -/
def State.mapsOk (s : State) : Prop := ∀ z : Fin 4, sparseOk Bin.cleared s.zones[z].map = true

/-- Every table stands in its canonical form: exchange memory, the out list, the planes and the maps. -/
def State.tablesOk (s : State) : Prop := s.memoryOk ∧ s.census.planesOk ∧ s.mapsOk

/-- The handed order of an entry. -/
def Entry.handed : Entry → Option Handed
  | .order o => some o
  | .autoMove _ _ | .rebuild | .upkeep _ => none

/-- The handed orders that wait on a list, whose cells are QUEUED (R146). -/
def State.waiting (s : State) : List Handed := (s.engine.urgent ++ s.engine.routine).filterMap Entry.handed

/-- The handed orders in progress, whose cells are ACTIVE: the one in the routine context and those of probes
(R146). -/
def State.working (s : State) : List Handed :=
  (s.engine.routineContext.work.bind Work.order).toList ++
    allZones.filterMap fun z => s.links[z].slot.map ProbeWork.order

/-- A chain holds 1 to 8 different pool cells (R149). -/
def Handed.ok (o : Handed) : Prop :=
  o.cells.Nodup ∧ o.cells.length ≤ 8 ∧ ∀ c ∈ o.cells, 9 ≤ c ∧ c ≤ 511

/-- Every handed order holds cells of its own, 1 to 8 of them: QUEUED while it waits and ACTIVE while it is in
progress (R146, R149). In a reset the device holds no handed order (R156). -/
def State.ordersOk (s : State) : Prop :=
  ((s.waiting ++ s.working).flatMap Handed.cells).Nodup ∧
    (∀ o ∈ s.waiting ++ s.working, o.cells.length ≤ 8) ∧
    (∀ o ∈ s.waiting, ∀ c ∈ o.cells, s.port.cell c = some .queued) ∧
    (∀ o ∈ s.working, ∀ c ∈ o.cells, s.port.cell c = some .active) ∧
    (s.port.reset ≠ none → s.waiting = [] ∧ s.working = [])

/-- What the urgent list holds: orders of a code that may be urgent, and AUTO-MOVE entries (R132, R139). -/
def Entry.urgentOk : Entry → Prop
  | .order o => o.urgent = true ∧ o.code.urgentPermitted = true
  | .autoMove _ _ => True
  | .rebuild | .upkeep _ => False

/-- What the routine list holds: routine orders, REBUILD and UPKEEP entries (R132). -/
def Entry.routineOk : Entry → Prop
  | .order o => o.urgent = false
  | .autoMove _ _ => False
  | .rebuild | .upkeep _ => True

/-- Every handed order holds cells of its own, each list holds entries of its kind, and no entry that is taken up and
ended in one event still holds a context (R132, R133, R146). -/
def State.engineOk (s : State) : Prop :=
  s.ordersOk ∧ s.engine.urgentContext = .idle ∧ s.engine.routineContext.work ≠ some .single ∧
    (∀ e ∈ s.engine.urgent, e.urgentOk) ∧ ∀ e ∈ s.engine.routine, e.routineOk

/-- The parameters stay in their ranges, and T_im does not exceed T_sp (R3). -/
def Params.ok (p : Params) : Prop :=
  1 ≤ p.tIm ∧ p.tIm ≤ p.tSp ∧ p.tSp ≤ 90 ∧ p.margin ≤ 40 ∧ p.guard3 ≤ 16 ∧ p.guard5 ≤ 16 ∧
    1 ≤ p.imLevel ∧ p.imLevel ≤ 3 ∧ p.reserve ≤ 64 ∧ 1 ≤ p.moveWindow ∧ p.moveWindow ≤ 120 ∧
    500 ≤ p.linkTimeout ∧ p.linkTimeout ≤ 10000 ∧ p.linkTimeout % 100 = 0 ∧ 1 ≤ p.budget ∧
    p.budget ≤ Config.budgetLimit

/-- The coupling matrix is symmetric, 0 on its diagonal and at most 90 (R12). -/
def Site.couplingOk (s : Site) : Prop :=
  ∀ a b : Fin 8, s.isolation a b = s.isolation b a ∧ s.isolation a a = 0 ∧ s.isolation a b ≤ 90

/-- The exclusion list holds at most 64 records, each with bounds in order and a stage, in strictly ascending
order (R14). -/
def Site.exclusionsOk (s : Site) : Prop :=
  s.exclusions.length ≤ 64 ∧ (∀ e ∈ s.exclusions, e.ok = true) ∧
    s.exclusions.Pairwise fun a b => a.before b = true

/-- The site model keeps the rules of R1, R3, R12 and R14. -/
def Site.sound (s : Site) : Prop := s.window.ok = true ∧ s.params.ok ∧ s.couplingOk ∧ s.exclusionsOk

/-- A VALID census carries the cause NONE, and a STALE one carries another (R42). -/
def Census.causeOk (c : Census) : Prop :=
  (c.state = .valid → c.cause = .none) ∧ (c.state = .stale → c.cause ≠ .none)

/-- Each subject stands at most once in the pending report set (R158). -/
def Reports.subjectsOnce (r : Reports) : Prop := (r.pending.map PendingSubject.subject).Nodup

/-- The order of a spare list: by descending score, equal scores by ascending step (R85). -/
def Spare.above (a b : Spare) : Prop := b.score < a.score ∨ (a.score = b.score ∧ a.step < b.step)

/-- A spare list stands in its order and holds no more than its stage's target (R85). -/
def State.sparesOk (s : State) : Prop :=
  ∀ b : Fin 8, (s.spares[b]).Pairwise Spare.above ∧ (s.spares[b]).length ≤ s.site.target b

/-- The spares of a stage keep the spacing of its profile from one another (R85). -/
def State.sparesApart (s : State) : Prop :=
  ∀ (b : Fin 8) (r : StageRecord), s.site.stages[b] = some r →
    (s.spares[b]).Pairwise fun x y =>
      2 * r.bandwidth.halfWidth + s.site.params.margin ≤ distance x.step y.step

/-- Every spare passes C2, C4, C5 and C6 for its stage's profile against the held frequencies (R85). -/
def State.sparesPass (s : State) : Prop :=
  ∀ (b : Fin 8) (r : StageRecord), s.site.stages[b] = some r → ∀ x ∈ s.spares[b],
    let c := s.site.spareCandidate b r x.step
    let set := s.plan.transmitters
    s.check2 c = true ∧ s.check4 c set = true ∧ s.check5 c set [] = true ∧ s.check6 c set = true

/-- Every held frequency passes C1 for its channel (R20). -/
def State.heldOk (s : State) : Prop :=
  ∀ (c : Fin 256) (r : ChannelRecord), s.channel c = some r → ∀ f ∈ r.hold.frequencies,
    s.check1 (s.site.channelCandidate r f.2) = true

/-- The search of an active PLACE and the channels agree: each channel on the stack or ahead of the search stands once
and carries a working mark; one with a chosen frequency is TENTATIVE on it, and any other is DEFINED (R68, R71,
R72). -/
def State.searchOk (s : State) : Prop :=
  ∀ w, s.engine.routineContext.work = some (.place w) →
    ((w.stack.map fun e => e.item.channel) ++ w.rest.map PlaceItem.channel).Nodup ∧
      (∀ c ∈ (w.stack.map fun e => e.item.channel) ++ w.rest.map PlaceItem.channel, s.marked c = true) ∧
      (∀ e ∈ w.stack, ∀ g, e.chosen = some g → s.hold e.item.channel = some (.tentative g)) ∧
      (∀ e ∈ w.stack, e.chosen = none → s.hold e.item.channel = some .defined) ∧
      ∀ i ∈ w.rest, s.hold i.channel = some .defined

/-- Two stages are the pair an entry of SET COUPLING names. -/
def CouplingEntry.names (e : CouplingEntry) (a b : Fin 8) : Prop :=
  (e.1 = a ∧ e.2.1 = b) ∨ (e.1 = b ∧ e.2.1 = a)

/-! ### What a command leaves unchanged -/

/-- The site model, the plan and the census are unchanged, and so are the spare lists. -/
def State.samePlan (s t : State) : Prop :=
  t.site = s.site ∧ t.plan = s.plan ∧ t.census = s.census ∧ t.spares = s.spares

/-- The links and the zones are unchanged. -/
def State.sameSpectrum (s t : State) : Prop := t.links = s.links ∧ t.zones = s.zones

/-- The clock stands, and the queue of commands is unchanged. -/
def State.sameTime (s t : State) : Prop := t.now = s.now ∧ t.pending = s.pending

/-- Every block is unchanged but the Exchange Port, the Order Engine and the Report Builder. -/
def State.sameModel (s t : State) : Prop := s.samePlan t ∧ s.sameSpectrum t ∧ s.sameTime t

/-- Every channel but one is unchanged. -/
def State.othersKept (s t : State) (c : Fin 256) : Prop := ∀ d : Fin 256, d ≠ c → t.channel d = s.channel d

/-- The engine after an entry that is taken up and ended in one event: the entry has left its list and its context
is IDLE. -/
def Engine.after (e : Engine) (urgent : Bool) : Engine := (e.begin urgent).release

/-- The arbiter hands a context to an order of a code, in a state whose orders and tables are sound. -/
def State.takes (s : State) (code : OrderCode) (u : Bool) (o : Handed) : Prop :=
  s.granted code = some (u, o) ∧ s.ordersOk ∧ s.memoryOk

/-- Work runs in the routine context, in a state whose orders and tables are sound. -/
def State.runs (s : State) (w : Work) : Prop :=
  s.running = some w ∧ s.engine.urgentContext = .idle ∧ s.ordersOk ∧ s.memoryOk

/-! ### The end of an order (R151 to R153) -/

/-- The byte of exchange memory at an offset is stored by the delivery of a chain: the outcome, the reason and the
byte count of each cell, the argument of the head, and the payloads. -/
def Handed.stored (o : Handed) (payloads : List (List Byte)) (a : Nat) : Prop :=
  ∃ i c, o.cells[i]? = some c ∧ a / 256 = c ∧
    (a % 256 < 4 ∨ (i = 0 ∧ 12 ≤ a % 256 ∧ a % 256 < 16) ∨
      (16 ≤ a % 256 ∧ a % 256 < 16 + (payloads.getD i []).length))

/-- What announces the delivery of a chain (R151). -/
def Handed.announcement (o : Handed) : Announcement := { cell := o.head, report := false, urgent := o.urgent }

/-- The delivery of a chain is announced: its entry is the last of the out list and live, with OUT raised; or the next
slot is live and the backlog holds it as its last (R151, R152). -/
def Handed.announced (o : Handed) (q : Port) : Prop :=
  (q.backlog = [] ∧ q.raw &&& outBit = outBit ∧
      sparseGet OutSlot.zero q.outList ((q.outTotal - 1).toNat % 512) =
        { entry := some o.announcement, live := true }) ∨
    (q.blocked = true ∧ q.backlog.getLast? = some o.announcement)

/-- One delivery is announced between two ports: with the next slot not live and none held before it, its entry goes to
that slot, live, out total rises by one and OUT is raised; otherwise it is held behind those held before it, and the out
list stays (R151, R152). -/
def Port.announces (p q : Port) (a : Announcement) : Prop :=
  (p.backlog = [] → p.blocked = false →
    q.backlog = [] ∧ q.outTotal = p.outTotal + 1 ∧ q.raw &&& outBit = outBit ∧
      ∀ i, sparseGet OutSlot.zero q.outList i =
        if i = p.nextSlot then { entry := some a, live := true } else sparseGet OutSlot.zero p.outList i) ∧
  (p.backlog ≠ [] ∨ p.blocked = true →
    q.backlog = p.backlog ++ [a] ∧ q.outTotal = p.outTotal ∧ q.outList = p.outList ∧
      q.raw &&& outBit = p.raw &&& outBit)

/-- Cells leave the host's side between two ports: the entries that name them are live no longer, their own deliveries are
dropped from the backlog, and the rest of the backlog is written out in order, each delivery to the next slot, until that
slot is live (R152). -/
def Port.drains (p q : Port) (cs : List Nat) : Prop :=
  ∃ written : List Announcement, written.length ≤ 512 ∧
    p.backlog.filter (fun a => !cs.contains a.cell) = written ++ q.backlog ∧
    q.outTotal = p.outTotal + BitVec.ofNat 32 written.length ∧
    q.raw = (if written = [] then p.raw else p.raw ||| outBit) ∧
    (q.backlog ≠ [] → q.blocked = true) ∧
    (∀ (k : Nat) (a : Announcement), written[k]? = some a →
      sparseGet OutSlot.zero q.outList ((p.outTotal.toNat + k) % 512) = { entry := some a, live := true }) ∧
    ∀ i, let x := sparseGet OutSlot.zero p.outList i
      let named : Bool := (x.entry.map fun a => cs.contains a.cell).getD false
      ((∃ k, k < written.length ∧ i = (p.outTotal.toNat + k) % 512) → x.live = false ∨ named = true) ∧
        ((∀ k, k < written.length → i ≠ (p.outTotal.toNat + k) % 512) →
          sparseGet OutSlot.zero q.outList i = { x with live := x.live && !named })

/-- Each cell of a chain is DELIVERED and holds the outcome, the reason and its part of the result with its byte count,
and the head holds the argument (R151). -/
def Handed.written (o : Handed) (q : Port) (outcome : OrderOutcome) (reason : Reason) (argument : Word)
    (payloads : List (List Byte)) : Prop :=
  (∀ i c, o.cells[i]? = some c →
    q.cell c = some .delivered ∧ q.headField c 0 1 = outcome.code ∧ q.headField c 1 1 = reason.code ∧
      q.headField c 2 2 = (payloads.getD i []).length ∧
      q.memory.readAll (payloadOffset c 0) (payloads.getD i []).length = payloads.getD i []) ∧
    q.headField o.head 12 4 = argument.toNat

/-- A chain stands delivered: it is written, and the delivery is announced (R151, R152). -/
def Handed.delivered (o : Handed) (q : Port) (outcome : OrderOutcome) (reason : Reason) (argument : Word)
    (payloads : List (List Byte)) : Prop :=
  o.written q outcome reason argument payloads ∧ o.announced q

/-- A cell is a report that the Report Builder has delivered (R160, R163). -/
def Port.reportIn (q : Port) (c : Nat) : Prop :=
  q.cell c = some .delivered ∧ q.headField c 6 1 = Config.reportCode.toNat

/-- The cells of a chain are FREE again; a report may have taken one since (R153, R160). -/
def Handed.freed (o : Handed) (q : Port) : Prop := ∀ c ∈ o.cells, q.cell c = some .free ∨ q.reportIn c

/-- Whether an outcome ends an order without delivery: a QUIET order that is DONE (R153). -/
def Handed.silent (o : Handed) (outcome : OrderOutcome) : Bool := o.quiet && outcome = .done

/-- The bytes that the end of an order may store: none outside the chain when it is silent. -/
def Handed.touched (o : Handed) (outcome : OrderOutcome) (payloads : List (List Byte)) (a : Nat) : Prop :=
  if o.silent outcome then a / 256 ∈ o.cells else o.stored payloads a

/-- The switches, the enables, the reset and the last register read are unchanged, and so are the clock and the
queue. -/
def State.sameSwitches (s t : State) : Prop :=
  t.port.run = s.port.run ∧ t.port.auto = s.port.auto ∧ t.port.enables = s.port.enables ∧
    t.port.reset = s.port.reset ∧ t.port.readData = s.port.readData ∧ s.sameTime t

/-- A command ends an order: the order is delivered, or freed when it is silent. Every byte of memory it does not
store and every other cell is unchanged, but for FREE cells that the Report Builder takes for reports. -/
def State.ends (s t : State) (o : Handed) (outcome : OrderOutcome) (reason : Reason) (argument : Word)
    (payloads : List (List Byte)) : Prop :=
  (if o.silent outcome then o.freed t.port else o.delivered t.port outcome reason argument payloads) ∧
    (∀ a, ¬ o.touched outcome payloads a → s.port.cell (a / 256) ≠ some .free →
      t.port.memory.read a = s.port.memory.read a) ∧
    (∀ c, c ∉ o.cells → s.port.cell c ≠ some .free → t.port.cell c = s.port.cell c) ∧
    (∀ c, c ∉ o.cells → s.port.cell c = some .free → t.port.cell c = some .free ∨ t.port.reportIn c) ∧
    s.sameSwitches t

/-- The out list and its backlog are the same. -/
def Port.sameOut (p q : Port) : Prop := q.outList = p.outList ∧ q.outTotal = p.outTotal ∧ q.backlog = p.backlog

/-- An attempt to emit from `x` leads to the port and the pending set of `t`, but for the header and the line, which
follow the blocks. `EmissionBuildsReports` says what an attempt does (R160). -/
def State.tries (x t : State) : Prop :=
  t.reports = x.attempt.reports ∧
    t.port = { x.attempt.port with header := t.port.header, line := t.port.line }

/-- A mark from `x`, which is an attempt to emit, leads to the port and the pending set of `t`, but for the header and the
line (R158, R160). -/
def State.marks (x t : State) (subject : Subject) (flag : Byte) : Prop :=
  let y := x.mark subject flag
  t.reports = y.reports ∧ t.port = { y.port with header := t.port.header, line := t.port.line }

/-- A command that ends an order does nothing else to the Exchange Port and the Report Builder. A delivery is announced
once, and the pending set, every other cell, every byte of memory it does not store and every raw flag but OUT are
unchanged. A silent end frees the cells and attempts to emit once (notes/assumptions/36.md): it does what that attempt does,
and no more (R151 to R154, R160). -/
def State.aloneWith (s t : State) (o : Handed) (outcome : OrderOutcome) (payloads : List (List Byte)) : Prop :=
  (o.silent outcome = false →
    t.reports = s.reports ∧
      (∀ a, ¬ o.stored payloads a → t.port.memory.read a = s.port.memory.read a) ∧
      (∀ c, c ∉ o.cells → t.port.cell c = s.port.cell c) ∧
      t.port.raw ||| outBit = s.port.raw ||| outBit ∧ s.port.announces t.port o.announcement) ∧
  (o.silent outcome = true →
    State.tries { t with port := s.port.setCells o.cells .free, reports := s.reports } t)

/-- The UPKEEP entries that an event from `s` to `t` queues where it triggers some stages, in ascending stage number: one
for each of these stages whose list is then below its target, with none queued and none active as the event began
(R88). -/
def State.shortEntries (s t : State) (triggered : Fin 8 → Bool) : List Entry :=
  (allStages.filter fun b =>
    triggered b && decide ((t.spares[b]).length < t.site.target b) && !s.engine.routine.contains (.upkeep b) &&
      !s.engine.upkeepActive b).map Entry.upkeep

/-- The UPKEEP entries that an event from `s` to `t` queues where it triggers every stage, as a plan change does (R86). -/
def State.allShort (s t : State) : List Entry := s.shortEntries t fun _ => true

/-- The engine after an order that is taken up and ended in one event, with the entries it has queued behind those that
wait on the routine list. -/
def State.leaves (s t : State) (u : Bool) (queued : List Entry) : Prop :=
  s.sameTime t ∧ t.engine = { s.engine.after u with routine := (s.engine.after u).routine ++ queued }

/-- An order is REFUSED with a reason: it is delivered with argument 0 and no result, and nothing else changes
(R140, R151). -/
def State.refuses (s t : State) (u : Bool) (o : Handed) (reason : Reason) : Prop :=
  s.ends t o .refused reason 0 [] ∧ s.aloneWith t o .refused [] ∧ s.sameModel t ∧ t.engine = s.engine.after u ∧
    t.free = s.free

/-- The port is unchanged but for the header and the line, which follow the blocks. -/
def State.samePort (s t : State) : Prop := t.port = { s.port with header := t.port.header, line := t.port.line }

/-- Everything but the port is unchanged. -/
def State.onlyPort (s t : State) : Prop :=
  s.sameModel t ∧ t.engine = s.engine ∧ t.reports = s.reports ∧ t.free = s.free

/-- An order goes into a context: its cells are ACTIVE, and the port is unchanged otherwise (R135, R146). -/
def State.takenIn (s t : State) (o : Handed) : Prop :=
  t.port = { s.port.setCells o.cells .active with header := t.port.header, line := t.port.line }

/-- Work that has made a step stands at its yield point: it goes on, or it is suspended when an urgent entry waits or
RUN is 0 (R136). The entries that the step has queued have joined the routine list. -/
def State.yields (s t : State) (w : Work) (queued : List Entry) : Prop :=
  s.sameTime t ∧ t.engine = { s.engine with
    routine := s.engine.routine ++ queued
    routineContext := if s.engine.urgent ≠ [] ∨ s.port.run = false then .suspended w else .running w }

/-- Memory and cells are unchanged, and so are the switches: the port changes by notices alone. -/
def State.noticesOnly (s t : State) : Prop :=
  t.port = { s.port with header := t.port.header, line := t.port.line, raw := t.port.raw } ∧
    s.port.raw &&& ~~~t.port.raw = 0

/-! ### Effects on the census (R40, R41) -/

/-- Every count of the planes is raised by the number of times it stands in a list. -/
def Census.gains (c d : Census) (l : List Increment) : Prop := ∀ i, d.count i = c.count i + l.count i

/-- Every count of the planes is lowered by the number of times it stands in a list. -/
def Census.loses (c d : Census) (l : List Increment) : Prop := ∀ i, d.count i = c.count i - l.count i

/-- The effect on the census of a frequency that joins the plan: a VALID census counts its products, and goes STALE
with the cause SATURATED where a count would pass 65,535; any other census is unchanged (R40, R41). -/
def State.adds (s t : State) (x : Transmitter) : Prop :=
  let l := s.site.increments x (t.plan.others x)
  (s.census.state ≠ .valid → t.census = s.census) ∧
    (s.census.state = .valid → (∀ i, s.census.count i + l.count i ≤ Config.countLimit) →
      t.census.state = .valid ∧ t.census.cause = s.census.cause ∧ s.census.gains t.census l) ∧
    (s.census.state = .valid → (∃ i, Config.countLimit < s.census.count i + l.count i) →
      t.census.state = .stale ∧ t.census.cause = .saturated)

/-- The effect on the census of a frequency that leaves the plan: a VALID census loses its products, any other is
unchanged (R40). -/
def State.removes (s t : State) (x : Transmitter) : Prop :=
  (s.census.state ≠ .valid → t.census = s.census) ∧
    (s.census.state = .valid → t.census.state = .valid ∧ t.census.cause = s.census.cause ∧
      s.census.loses t.census (s.site.increments x t.plan.transmitters))

/-- The lists of some stages are rechecked, those of `s` against the site model, the plan and the census of `t`, and the
other lists are unchanged. `UpkeepFillsSpares` says which spares a recheck keeps (R86). -/
def State.rechecks (s t : State) (stages : Fin 8 → Bool) : Prop :=
  ∀ b : Fin 8, t.spares[b] = if stages b then State.rechecked { t with spares := s.spares } b else s.spares[b]

/-- The lists of all stages are rechecked, as at a plan change. -/
def State.rechecksAll (s t : State) : Prop := s.rechecks t fun _ => true

/-- The port of `s` with CENSUS raised where the census enters STALE from VALID or REBUILDING on the way to `t` (R42). -/
def State.portFor (s t : State) : Port :=
  if s.census.state ≠ .stale ∧ t.census.state = .stale then s.port.raise censusBit else s.port

/-- `s` with CENSUS raised where the census enters STALE on the way to `t`, and otherwise as it is (R42). -/
def State.noticed (s t : State) : State := { s with port := s.portFor t }

/-- An order that is taken up and ended in one event gives a channel a hold and changes nothing else of the model, and
makes no plan change. -/
def State.holdSet (s t : State) (u : Bool) (c : Fin 256) (h : Hold) : Prop :=
  t.channel c = (s.channel c).map (fun r => { r with hold := h }) ∧ s.othersKept t c ∧ t.plan.epoch = s.plan.epoch ∧
    t.site = s.site ∧ t.census = s.census ∧ t.spares = s.spares ∧ s.sameSpectrum t ∧ t.engine = s.engine.after u ∧
    t.free = s.free

/-- A PLACED channel has its old frequency taken out of the plan, a plan change, and holds nothing while a new one is
judged; with any other hold nothing changes (R84, R95). -/
def State.vacates (s x : State) (c : Fin 256) (r : ChannelRecord) : Prop :=
  ((∀ g, r.hold ≠ .placed g) → x = s) ∧
    ∀ g, r.hold = .placed g →
      x.channel c = some { r with hold := .defined } ∧ s.othersKept x c ∧ x.plan.epoch = s.plan.epoch + 1 ∧
        s.removes x (r.transmitter c false g) ∧ s.rechecksAll x ∧
        x = { s with plan := x.plan, census := x.census, spares := x.spares, engine := x.engine }

/-- The planes hold exactly the products of a set of transmitters (R36 to R39, R43). -/
def State.exactFor (s : State) (l : List Transmitter) : Prop :=
  ∀ (b : Fin 8) (n : Nat),
    s.census.count (b, false, n) = landing s.site.window (s.site.thirdOf b l []) n ∧
      s.census.count (b, true, n) = landing s.site.window (s.site.fifthOf b l []) n

/-- The planes are exact: those of a VALID census for the held frequencies, those of a REBUILD that runs for the
frequencies it has added so far, all of them in its sweep (R40, R45). -/
def State.censusExact (s : State) : Prop :=
  (s.census.state = .valid → s.exactFor s.plan.transmitters) ∧
    ∀ w, s.engine.routineContext = .running (.rebuild w) →
      s.census.state = .rebuilding ∧
        (w.phase = .add → s.exactFor (s.plan.transmitters.take w.position)) ∧
        (w.phase = .sweep → s.exactFor s.plan.transmitters)

/-- No REBUILD is suspended, and none that runs is about to be: a suspended one is judged by the plan epoch and the model
generation when it resumes (R46). -/
def State.rebuildUndisturbed (s : State) : Prop :=
  (∀ w, s.engine.routineContext ≠ .suspended (.rebuild w)) ∧
    ∀ w, s.engine.routineContext = .running (.rebuild w) → s.engine.urgent = []

/-! ### Reports and routine work -/

/-- The Report Builder cannot emit: the reserve holds it back, or a reset is in progress (R160, R161). -/
def State.heldBack (s : State) : Prop := s.port.freeCount ≤ s.site.params.reserve ∨ s.port.reset ≠ none

/-- A subject stands in the pending report set with a flag (R158). -/
def State.flagged (t : State) (x : Subject) (f : Byte) : Prop :=
  ∃ q ∈ t.reports.pending, q.subject = x ∧ q.flags &&& f = f

/-- The Exchange Port changes by notices and reports alone: only FREE cells change, and each that does holds a report
(R154, R160). -/
def State.reportsOnly (s t : State) : Prop :=
  (∀ c, s.port.cell c ≠ some .free → t.port.cell c = s.port.cell c) ∧
    (s.memoryOk → ∀ c, s.port.cell c = some .free → t.port.cell c = some .free ∨ t.port.reportIn c) ∧
    (s.memoryOk → ∀ a, s.port.cell (a / 256) ≠ some .free → t.port.memory.read a = s.port.memory.read a) ∧
    t.port.run = s.port.run ∧ t.port.auto = s.port.auto ∧ t.port.enables = s.port.enables ∧
    t.port.reset = s.port.reset ∧ t.port.readData = s.port.readData

/-- The routine context takes work from the routine list, whose oldest entry it was. -/
def State.starts (s t : State) (w : Work) : Prop :=
  s.sameTime t ∧ t.engine = { s.engine with routine := s.engine.routine.tail, routineContext := .running w }

/-- The routine context becomes IDLE, and the entries that the event has queued have joined the routine list. -/
def State.rests (s t : State) (queued : List Entry) : Prop :=
  s.sameTime t ∧ t.engine = { s.engine with routine := s.engine.routine ++ queued, routineContext := .idle }

/-- An order that is taken up and ended in one event reads the blocks and changes none of them; it draws `n` free
values. -/
def State.reads (s t : State) (u : Bool) (o : Handed) (outcome : OrderOutcome) (reason : Reason) (argument : Word)
    (payloads : List (List Byte)) (n : Nat) : Prop :=
  s.ends t o outcome reason argument payloads ∧ s.aloneWith t o outcome payloads ∧ s.sameModel t ∧
    t.engine = s.engine.after u ∧ t.free = s.free + n

/-- The outcome and the reason of a READ whose records may not fit its chain (R151). -/
def shortOutcome (short : Bool) : OrderOutcome × Reason := if short then (.part, .short) else (.done, .none)

/-- Every link but one and every zone but one are unchanged. -/
def State.otherZonesKept (s t : State) (z : Fin 4) : Prop :=
  ∀ y : Fin 4, y ≠ z → t.links[y] = s.links[y] ∧ t.zones[y] = s.zones[y]

/-- A valid frame on a link: the time is recorded, the frame is counted, the receiver hunts, and a zone that is SILENT or
STALE becomes WARMING with its references pending (R103, R108, R124). -/
def State.frameTaken (s t : State) (z : Fin 4) : Prop :=
  t.links[z].lastValid = some s.now ∧ t.links[z].good = s.links[z].good + 1 ∧ t.links[z].receiver = [] ∧
    (s.zones[z].freshness = .silent ∨ s.zones[z].freshness = .stale →
      t.zones[z] = { s.zones[z] with freshness := .warming, referencePending := true }) ∧
    (s.zones[z].freshness = .warming ∨ s.zones[z].freshness = .fresh → t.zones[z] = s.zones[z])

/-! ### The work on spare lists -/

/-- The work on a stage begins afresh: from the grid of its spare profile, at the first point, with nothing ranked
(R89). -/
def State.beginsStage (s : State) (v : UpkeepWork) : Prop :=
  v.epoch = s.plan.epoch ∧ v.position = 0 ∧ v.ranking = [] ∧ v.evaluations = 0 ∧
    ∀ r, s.site.stages[v.stage] = some r → v.grid = gridOf r.multiple (s.site.window.clip r.low r.high)

/-- The stages among some that a REFILL SPARES passes over at their target: the DEFINED ones, each done with no
evaluation (R92, R93). -/
def State.passedStages (s : State) (l : List (Fin 8)) : List RefillResult :=
  (l.filter fun b => (s.site.stages[b]).isSome).map fun b => { stage := b, evaluations := 0, short := false }

/-! ### The search of PLACE -/

/-- The search a PLACE asks for, before its first depth is reached (R67, R68). -/
def State.searchFor (s : State) (o : Handed) : PlaceWork :=
  { order := o, bestEffort := (s.param o 2 1).testBit 0, strict := (s.param o 2 1).testBit 1,
    budget := if s.param o 4 4 = 0 then s.site.params.budget else min (s.param o 4 4) Config.budgetLimit,
    used := 0, deepest := 0, entries := s.screen [] (s.placeEntries o (s.param o 0 2)), stack := [], rest := [],
    unplaced := [] }

/-- The working set of a PLACE in channel order, each channel with its walk (R69, R70). -/
def State.workingSet (s : State) (o : Handed) : List PlaceItem :=
  s.rank (s.screen [] (s.placeEntries o (s.param o 0 2))) (s.placeEntries o (s.param o 0 2))

/-- How a search that has run to its end is delivered: ALL_OR_NOTHING with every channel placed is DONE, and BEST_EFFORT is
DONE, PARTIAL or FAILED by what it placed (R76, R77). -/
def PlaceWork.verdict (w : PlaceWork) : OrderOutcome × Reason :=
  if w.bestEffort = false ∨ w.placedCount = w.total then (.done, .none)
  else if w.placedCount = 0 then (.failed, .noCandidate)
  else (.part, if w.unplaced.any (fun e => e.2 = .budget) then .budget else .noCandidate)

/-- The channel records after a search ends: no working mark is left, and the hold of each channel that the search had
placed is given by a function of its frequency (R77, R78). -/
def State.searchEnded (s t : State) (w : PlaceWork) (hold : Nat → Hold) : Prop :=
  ∀ c : Fin 256, t.channel c = (s.channel c).map fun r =>
    { r with
      mark := none
      hold := ((w.stack.find? fun e => e.item.channel = c ∧ e.chosen.isSome).bind StackEntry.chosen).elim r.hold hold }

end Sys2Proof.Machine
end

