-- ==== Sys2Proof/Certificates/Slice0/Obligations.lean ====
section
/-! DEFINITION. What is claimed of the model: one `def` for each statement. OBLIGATIONS.json lists them.

An event that may give the arbiter something to hand out ends with the arbiter's acts (R134). Its statement reads
`exec c s = .next t.arbitrate`: `t` is the state to which the event's own effect leads, which the statement describes, and
ArbiterHandsOut says what `arbitrate` adds to it. With nothing to hand out, `t.arbitrate` is `t`. -/

open Sys2Proof Sys2Proof.Machine

/-! ### The machine as a whole -/

/-- A step takes the command at the front of the queue and runs it with the queue's rest.
Where the manual leaves room it rests on the choices of notes/assumptions/1.md. -/
def Obligations.StepRunsFrontCommand : Prop :=
  ∀ (s : State) (c : Instr) (rest : List Instr), s.pending = c :: rest →
    step s = exec c { s with pending := rest }

/-- An event whose condition does not hold does not occur: the command that names it changes nothing. The model's
choice (notes/assumptions/2.md, 7.md and 31.md). -/
def Obligations.AbsentEventsChangeNothing : Prop :=
  ∀ s : State,
    (∀ code : OrderCode, s.granted code = none → exec code.command s = .next s) ∧
    ((∀ c f, s.arbiter ≠ some (.takeUrgent (.autoMove c f))) → exec .autoMove s = .next s) ∧
    (s.arbiter ≠ some (.takeRoutine .rebuild) → exec .rebuild s = .next s) ∧
    ((∀ b, s.arbiter ≠ some (.takeRoutine (.upkeep b))) → exec .upkeep s = .next s) ∧
    ((∀ w, s.arbiter ≠ some (.resume w)) → exec .resumption s = .next s) ∧
    ((∀ w, s.running ≠ some (.rebuild w)) → exec .rebuildStep s = .next s) ∧
    ((∀ w, s.running ≠ some (.check w)) → exec .checkListEntry s = .next s) ∧
    ((∀ w, s.running ≠ some (.place w)) → exec .placeStep s = .next s) ∧
    ((∀ w, s.running ≠ some (.upkeep w)) → exec .upkeepStep s = .next s) ∧
    ((∀ w, s.running ≠ some (.refill w)) → exec .refillSparesStep s = .next s) ∧
    (∀ z : Fin 4, s.links[z].slot = none → exec (.probeDeadline z) s = .next s) ∧
    (∀ z : Fin 4, s.zones[z].freshness = .silent ∨ s.zones[z].freshness = .stale →
      exec (.linkTimeout z) s = .next s) ∧
    (∀ c : Fin 256, (∀ f g e, s.hold c ≠ some (.moving f g e)) → exec (.moveTimerExpiry c) s = .next s) ∧
    (s.port.reset = none → exec .resetEnd s = .next s) ∧
    (∀ (a : BitVec 18) (l : List Byte), hostRangeOk a.toNat l.length = false →
      exec (.hostCellWrite a l) s = .next s)

/-- The arbiter hands a context out only with RUN 1 and no context RUNNING: to the oldest urgent entry, else to the
suspended routine entry, else to the oldest routine entry (R134). What it hands out is taken up, or resumes, by the event
that names it, after which the arbiter acts again: it goes on in the same event until it has nothing to hand out (R134,
R138, R140). After every step that began with nothing to hand out nothing is left to hand out, so no entry waits that an
event could have taken up. With no command waiting, what the arbiter hands out is the next event. With nothing to hand out
the device goes on by itself, in an order of the model's choosing (notes/assumptions/4.md): it makes a step of the work that
runs; with none running it ends a reset that is due, then takes the deadline of the lowest link whose probe is overdue, the
move timer of the lowest channel whose move is overdue, and the timeout of the lowest link that has been silent too long;
and with nothing due and no byte waiting on a line, a millisecond passes.
Where the manual leaves room it rests on the choices of notes/assumptions/4.md and notes/assumptions/31.md, and on
notes/assumptions/43.md for the timeout of a zone that a window change has put into WARMING with its time already passed. -/
def Obligations.ArbiterHandsOut : Prop :=
  (∀ s : State,
    ((s.port.run = false ∨ s.engine.urgentContext = .running ∨ ∃ w, s.engine.routineContext = .running w) →
      s.arbiter = none) ∧
    (s.port.run = true → s.engine.urgentContext = .idle → (∀ w, s.engine.routineContext ≠ .running w) →
      (∀ e l, s.engine.urgent = e :: l → s.arbiter = some (.takeUrgent e)) ∧
      (s.engine.urgent = [] →
        (∀ w, s.engine.routineContext = .suspended w → s.arbiter = some (.resume w)) ∧
        (∀ e l, s.engine.routineContext = .idle → s.engine.routine = e :: l → s.arbiter = some (.takeRoutine e)) ∧
        (s.engine.routineContext = .idle → s.engine.routine = [] → s.arbiter = none))) ∧
    (∀ g, s.pending = [] → s.arbiter = some g → step s = exec g.command s) ∧
    (∀ g, s.engineOk → s.arbiter = some g → exec g.command s = .next (s.handOut g).arbitrate) ∧
    (s.arbiter = none → s.arbitrate = s) ∧
    (∀ g, s.arbiter = some g → s.arbitrate = (s.handOut g).arbitrate) ∧
    s.arbitrate.arbiter = none) ∧
  (∀ s t : State, s.arbiter = none → step s = .next t → t.arbiter = none) ∧
  ∀ s : State, s.pending = [] → s.arbiter = none →
    (∀ w, s.running = some (.rebuild w) → step s = exec .rebuildStep s) ∧
    (∀ w, s.running = some (.check w) → step s = exec .checkListEntry s) ∧
    (∀ w, s.running = some (.place w) → step s = exec .placeStep s) ∧
    (∀ w, s.running = some (.upkeep w) → step s = exec .upkeepStep s) ∧
    (∀ w, s.running = some (.refill w) → step s = exec .refillSparesStep s) ∧
    (s.running = none →
      let ends := ∃ r, s.port.reset = some r ∧ r.ends ≤ s.now
      let unanswered := fun z : Fin 4 => ∃ w, s.links[z].slot = some w ∧ w.deadline ≤ s.now
      let overdue := fun c : Fin 256 => ∃ f g e, s.hold c = some (.moving f g e) ∧ e ≤ s.now
      let silent := fun z : Fin 4 => (s.zones[z].freshness = .warming ∨ s.zones[z].freshness = .fresh) ∧
        ∃ v, s.links[z].lastValid = some v ∧ v + s.site.params.linkTimeout ≤ s.now
      (ends → step s = exec .resetEnd s) ∧
      (¬ ends →
        (∀ z, unanswered z → (∀ y, y < z → ¬ unanswered y) → step s = exec (.probeDeadline z) s) ∧
        ((∀ z, ¬ unanswered z) →
          (∀ c, overdue c → (∀ d, d < c → ¬ overdue d) → step s = exec (.moveTimerExpiry c) s) ∧
          ((∀ c, ¬ overdue c) →
            (∀ z, silent z → (∀ y, y < z → ¬ silent y) → step s = exec (.linkTimeout z) s) ∧
            ((∀ z, ¬ silent z) → s.due = none ∧
              ((∀ z : Fin 4, s.links[z].line = []) → step s = .next { s with now := s.now + 1 }))))))

/-- What the end of a power-on reset leaves, block by block.
Where the manual leaves room it rests on the choices of notes/assumptions/9.md. -/
def Obligations.ResetValues : Prop :=
  let s := State.reset
  (s.site.window = { w0 := 18800, width := 8192 } ∧
    s.site.params = { tIm := 25, tSp := 40, margin := 8, guard3 := 2, guard5 := 1, imLevel := 1, reserve := 8,
                      moveWindow := 15, linkTimeout := 2000, budget := 1048576 } ∧
    s.site.generation = 0 ∧ (∀ b : Fin 8, s.site.stages[b] = none) ∧ (∀ a b : Fin 8, s.site.isolation a b = 0) ∧
    s.site.exclusions = []) ∧
  ((∀ c : Fin 256, s.channel c = none) ∧ s.plan.epoch = 0) ∧
  (s.census.state = .valid ∧ s.census.cause = .none ∧ (∀ i, s.census.count i = 0)) ∧
  (∀ b : Fin 8, s.spares[b] = []) ∧
  (∀ z : Fin 4, s.links[z].lastValid = none ∧ s.links[z].sweep = none ∧ s.links[z].slot = none ∧
    s.links[z].receiver = [] ∧ s.links[z].good = 0 ∧ s.links[z].crcErrors = 0 ∧ s.links[z].formatErrors = 0 ∧
    s.links[z].abandoned = 0 ∧ s.links[z].damaged = 0 ∧ s.links[z].stray = 0 ∧ s.links[z].probeCounter = 0) ∧
  (∀ z : Fin 4, s.zones[z].freshness = .silent ∧ s.zones[z].referencePending = true ∧ s.zones[z].goodSweeps = 0 ∧
    (∀ n, sparseGet Bin.cleared s.zones[z].map n = { settled := 0, sum := 0, samples := 0, seen := false }) ∧
    (∀ j : Fin 64, s.zones[z].segments[j] = { reference := none, last := none, hit := false, frozen := false }) ∧
    s.zones[z].settings = { floor := 40, clearOffset := 12, occupiedOffset := 30, period := 4, threshold := 12,
                            mode := .latching, hostMask := 0, correction := 0 }) ∧
  s.engine = { urgent := [], routine := [], urgentContext := .idle, routineContext := .idle } ∧
  ((∀ c, 9 ≤ c → c ≤ 511 → s.port.cell c = some .free) ∧ (∀ a, s.port.memory.read a = 0#8) ∧
    (∀ i, sparseGet OutSlot.zero s.port.outList i = { entry := none, live := false }) ∧ s.port.outTotal = 0 ∧
    s.port.backlog = [] ∧ s.port.raw = resetDoneBit ∧ s.port.enables = 0 ∧ s.port.run = false ∧
    s.port.auto = false ∧ s.port.reset = none ∧ s.port.line = false ∧ s.port.header = s.mirror) ∧
  s.reports = { pending := [], sequence := 0, starved := 0 }

/-- Every invariant holds in the state right after reset.
Where the manual leaves room it rests on the choices of notes/assumptions/9.md. -/
def Obligations.ResetMeetsInvariants : Prop :=
  let s := State.reset
  s.lineTrue ∧ s.headerTrue ∧ s.tablesOk ∧ s.site.sound ∧ s.census.causeOk ∧ s.reports.subjectsOnce ∧ s.sparesOk ∧
    s.sparesApart ∧ s.heldOk ∧ s.engineOk ∧ s.searchOk ∧ s.exactFor s.plan.transmitters ∧ s.censusExact ∧ s.sparesPass ∧
    s.arbiter = none

/-- Every step keeps the notice line asserted exactly while a raw flag has its enable set (R154, R167), and keeps the header
in agreement with the blocks it mirrors, from the end of the power-on reset on (R147). -/
def Obligations.StepKeepsLineAndHeader : Prop :=
  (∀ s t : State, s.lineTrue → step s = .next t → t.lineTrue) ∧
  (∀ s t : State, s.headerTrue → step s = .next t → t.headerTrue)

/-- Every step keeps exchange memory, the out list, the planes and the maps of the zones in their canonical forms, holds a
delivery back only while the next slot of the out list is live (R152), and lets no count of a plane pass 65,535 (R36). -/
def Obligations.StepKeepsTables : Prop :=
  ∀ s t : State, s.tablesOk → step s = .next t → t.tablesOk

/-- Every step keeps the window and the parameters in their ranges, the coupling matrix symmetric with 0 on its diagonal, and
the exclusion list ordered, without repeats and at 64 records at most (R1, R3, R12, R14). It keeps the census cause NONE in
VALID and another in STALE (R42), each subject at most once in the pending report set (R158), and each spare list in the
order of its scores, within its stage's target and with its spares at the spacing of the profile (R85). Every held
frequency stays in the window and in its channel's range, and a multiple of its step multiple: it passes C1 (R20). -/
def Obligations.StepKeepsModelRules : Prop :=
  (∀ s t : State, s.site.sound → step s = .next t → t.site.sound) ∧
  (∀ s t : State, step s = .next t →
     (s.census.causeOk → t.census.causeOk) ∧ (s.reports.subjectsOnce → t.reports.subjectsOnce)) ∧
  (∀ s t : State, s.sparesOk → step s = .next t → t.sparesOk) ∧
  (∀ s t : State, s.sparesApart → step s = .next t → t.sparesApart) ∧
  (∀ s t : State, s.engineOk → s.searchOk → s.heldOk → step s = .next t → t.heldOk)

/-- Every step keeps the handed orders on cells of their own, QUEUED while they wait and ACTIVE while they are in
progress, and keeps each list to entries of its kind (R132, R133, R146). It keeps the search of an active PLACE and the
channels in agreement: those on the stack and those ahead carry the working mark, one with a chosen frequency is TENTATIVE
on it, and the others are DEFINED (R68, R71, R72, R80). -/
def Obligations.StepKeepsOrders : Prop :=
  (∀ s t : State, s.engineOk → step s = .next t → t.engineOk) ∧
  ∀ s t : State, s.engineOk → s.searchOk → step s = .next t → t.searchOk

/-! ### The site model -/

/-- SET PARAMETERS stores the window and every parameter after its clamp (R3, R4). A window change clears the planes, the
spare lists, the maps and the segments, puts every zone but a SILENT one into WARMING with its references pending, and
queues UPKEEP for each DEFINED stage with a target above 0 (R5). A check-parameter change rechecks the spare lists and
queues UPKEEP for the stages left short; with frequencies held it also puts the census into STALE and has a REBUILD queued
(R6, R86). The generation counts the change once (R8). A changed reserve is one more attempt to emit (R7, R160). A lowered
link timeout makes each WARMING or FRESH zone whose last valid frame is now too old STALE, marks it STALE, abandons its
sweep in progress and restarts its integration period (R7, R109).
Where the manual leaves room it rests on the choices of notes/assumptions/31.md, 32.md and 36.md, on 37.md for the
attempt that comes before the marks, and on notes/assumptions/41.md for the order of the effects of R5, R6 and R7: the zones
that a changed window puts into WARMING are held against the lowered timeout after it. With no lowered timeout they stay
WARMING in the event of the order, by the choice of notes/assumptions/43.md. -/
def Obligations.SetParametersStoresClamped : Prop :=
  ∀ (s : State) (u : Bool) (o : Handed), s.takes .setParameters u o → (s.sentWindow o).ok = true →
    1 ≤ (s.sentParams o).imLevel → (s.sentParams o).imLevel ≤ 3 →
    (s.site.window = s.sentWindow o ∨ s.plan.held = false) →
    ∃ t, exec .setParameters s = .next t.arbitrate ∧
      let w := s.sentWindow o
      let q := (s.sentParams o).clamped
      let changed := s.site.params.checkChange q
      let begun : Vector Zone 4 := if s.site.window = w then s.zones else mapTable Zone.newWindow s.zones
      let late := fun z : Fin 4 => decide (q.linkTimeout < s.site.params.linkTimeout) && (begun[z]).freshness.timed &&
        ((s.links[z].lastValid).map fun v => decide (v + q.linkTimeout ≤ s.now)).getD false
      let bytes := t.site.parameterBytes ++ half (s.sentParams o).marks
      t.site = { s.site with
        window := w
        params := q
        generation := if s.site.window ≠ w ∨ changed = true then s.site.generation + 1 else s.site.generation } ∧
      q.ok ∧ t.plan = s.plan ∧
      (s.site.window ≠ w → t.census = Census.cleared ∧ t.spares = Vector.replicate 8 [] ∧
        ∀ z : Fin 4, begun[z] = { s.zones[z] with
          map := []
          goodSweeps := 0
          segments := Vector.replicate 64 Segment.cleared
          freshness := if s.zones[z].freshness = .silent then .silent else .warming
          referencePending := if s.zones[z].freshness = .silent then s.zones[z].referencePending else true }) ∧
      (s.site.window = w → changed = true → s.plan.held = true →
        t.census = { s.census with state := .stale, cause := .model } ∧ Entry.rebuild ∈ t.engine.routine ∧
          (s.census.state ≠ .stale → t.port.raw &&& censusBit = censusBit)) ∧
      (s.site.window = w → changed = false ∨ s.plan.held = false → t.census = s.census) ∧
      (s.site.window = w → changed = true → s.rechecksAll t) ∧
      (s.site.window = w → changed = false → t.spares = s.spares) ∧
      (∀ z : Fin 4, late z = false → t.zones[z] = begun[z] ∧ t.links[z] = s.links[z]) ∧
      (∀ z : Fin 4, late z = true →
        t.zones[z] = { begun[z] with freshness := .stale, goodSweeps := 0, map := t.zones[z].map } ∧
          (s.mapsOk → ∀ n, sparseGet Bin.cleared t.zones[z].map n =
            { sparseGet Bin.cleared begun[z].map n with sum := 0, samples := 0 }) ∧
          t.links[z] = { s.links[z] with
            sweep := none
            abandoned := if s.links[z].sweep = none then s.links[z].abandoned else min (s.links[z].abandoned + 1) 255 } ∧
          (s.port.freeCount ≤ q.reserve → o.quiet = false → t.flagged (.zone z) staleFlag)) ∧
      s.leaves t u
        ((if changed = true ∧ s.plan.held = true ∧ Entry.rebuild ∉ s.engine.routine then [.rebuild] else []) ++
          if s.site.window ≠ w ∨ changed = true then s.allShort t else []) ∧
      s.ends t o .done .none 0 [bytes] ∧
      let stored : State :=
        { t with
          zones := begun, links := s.links, port := (s.portFor t).setCells o.cells .active, reports := s.reports }
      let tried := if s.site.params.reserve = q.reserve then stored else stored.attempt
      (allZones.foldl (fun x z => if late z then x.goStale z else x) tried).aloneWith t o .done [bytes]

/-- DEFINE STAGE stores the record of one stage, with a target above 8 stored as 8 (R10). A changed profile empties
the stage's spare list, and a changed target alone cuts it; either has UPKEEP queued for the stage if its list is short
afterwards (R11, R88).
Where the manual leaves room it rests on the choices of notes/assumptions/31.md and notes/assumptions/36.md. -/
def Obligations.DefineStageStoresRecord : Prop :=
  ∀ (s : State) (u : Bool) (o : Handed) (b : Fin 8) (r : StageRecord), s.takes .defineStage u o →
    index 8 (s.param o 0 1) = some b →
    stageRecordOf (s.param o 1 1) (s.param o 2 1) (s.param o 3 1) (s.param o 4 1) (s.param o 5 1) (s.param o 8 2)
      (s.param o 10 2) = some r →
    ∃ t, exec .defineStage s = .next t.arbitrate ∧
      t.site.stages[b] = some r ∧ (∀ c : Fin 8, c ≠ b → t.site.stages[c] = s.site.stages[c]) ∧
      r.multiple = s.param o 3 1 ∧ r.low = s.param o 8 2 ∧ r.high = s.param o 10 2 ∧ r.target = min 8 (s.param o 5 1) ∧
      t.site.window = s.site.window ∧ t.site.params = s.site.params ∧ t.site.iso = s.site.iso ∧
      t.site.exclusions = s.site.exclusions ∧
      t.site.generation = (if s.site.stages[b] = some r then s.site.generation else s.site.generation + 1) ∧
      (∀ c : Fin 8, c ≠ b → t.spares[c] = s.spares[c]) ∧
      (s.site.stages[b] = none → t.spares[b] = []) ∧
      (∀ old, s.site.stages[b] = some old → old.sameProfile r = false → t.spares[b] = []) ∧
      (∀ old, s.site.stages[b] = some old → old.sameProfile r = true → old.target ≠ r.target →
        t.spares[b] = s.spares[b].take r.target) ∧
      (∀ old, s.site.stages[b] = some old → old.sameProfile r = true → old.target = r.target →
        t.spares[b] = s.spares[b]) ∧
      (spareFieldsChange s.site.stages[b] r = true → t.spares[b].length < r.target →
        s.engine.upkeepActive b = false → Entry.upkeep b ∈ t.engine.routine) ∧
      t.plan = s.plan ∧ t.census = s.census ∧ s.sameSpectrum t ∧
      s.leaves t u
        (if spareFieldsChange s.site.stages[b] r = true then s.shortEntries t fun c => decide (c = b) else []) ∧
      s.ends t o .done .none 0 [r.bytes b ++ [flagByte (8 < s.param o 5 1)]] ∧
      s.aloneWith t o .done [r.bytes b ++ [flagByte (8 < s.param o 5 1)]]

/-- SET COUPLING stores each isolation, cut at 90, both ways round; the later of two entries for a pair stands, and
every pair it does not name is unchanged (R13). A change puts the census into STALE, with a REBUILD queued, where frequencies
are held; it rechecks the spare lists, and queues UPKEEP for the stages left short (R13, R86).
Where the manual leaves room it rests on the choices of notes/assumptions/15.md, notes/assumptions/31.md and
notes/assumptions/36.md. -/
def Obligations.SetCouplingStoresBothWays : Prop :=
  ∀ (s : State) (u : Bool) (o : Handed) (entries : List CouplingEntry), s.takes .setCoupling u o →
    1 ≤ s.param o 0 1 → s.param o 0 1 ≤ 28 →
    allPresent ((List.range (s.param o 0 1)).map (s.couplingEntry o)) = some entries →
    ∃ t, exec .setCoupling s = .next t.arbitrate ∧
      (∀ a b : Fin 8, (∀ e ∈ entries, ¬ CouplingEntry.names e a b) →
        t.site.isolation a b = s.site.isolation a b) ∧
      (∀ l e l', entries = l ++ e :: l' → (∀ x ∈ l', ¬ CouplingEntry.names x e.1 e.2.1) →
        t.site.isolation e.1 e.2.1 = min 90 e.2.2 ∧ t.site.isolation e.2.1 e.1 = min 90 e.2.2) ∧
      t.site.window = s.site.window ∧ t.site.params = s.site.params ∧ t.site.stages = s.site.stages ∧
      t.site.exclusions = s.site.exclusions ∧
      t.site.generation = (if t.site.iso = s.site.iso then s.site.generation else s.site.generation + 1) ∧
      (t.site.iso ≠ s.site.iso → s.plan.held = true →
        t.census = { s.census with state := .stale, cause := .model } ∧ Entry.rebuild ∈ t.engine.routine ∧
          (s.census.state ≠ .stale → t.port.raw &&& censusBit = censusBit)) ∧
      (t.site.iso = s.site.iso ∨ s.plan.held = false → t.census = s.census) ∧
      (t.site.iso = s.site.iso → t.spares = s.spares) ∧ (t.site.iso ≠ s.site.iso → s.rechecksAll t) ∧
      t.plan = s.plan ∧ s.sameSpectrum t ∧
      s.leaves t u (if t.site.iso = s.site.iso then [] else
        (if s.plan.held = true ∧ Entry.rebuild ∉ s.engine.routine then [.rebuild] else []) ++ s.allShort t) ∧
      s.ends t o .done .none 0
        [[byte (s.param o 0 1), 0#8, 0#8, 0#8] ++ entries.flatMap t.site.couplingBytes] ∧
      (s.noticed t).aloneWith t o .done
        [[byte (s.param o 0 1), 0#8, 0#8, 0#8] ++ entries.flatMap t.site.couplingBytes]

/-- ADD EXCLUSION inserts the record at its place and marks CONFLICT, in ascending number and before the recheck, for the
channels it overlaps, each mark an attempt to emit; DROP EXCLUSION removes the one record equal in all four fields. Each counts the generation, rechecks the spare lists of the stages in the mask
alone, and queues UPKEEP for those of them left short; where every spare passed, DROP EXCLUSION removes none (R8, R14 to R16,
R86, R160).
Where the manual leaves room it rests on the choices of notes/assumptions/6.md, notes/assumptions/31.md and
notes/assumptions/36.md. -/
def Obligations.ExclusionOrdersChangeList : Prop :=
  (∀ (s : State) (u : Bool) (o : Handed) (e : Exclusion), s.takes .addExclusion u o →
     s.sentExclusion o = some e → e.ok = true → e ∉ s.site.exclusions → s.site.exclusions.length < 64 →
     ∃ t, exec .addExclusion s = .next t.arbitrate ∧
       t.site.exclusions.Perm (e :: s.site.exclusions) ∧ (s.site.exclusionsOk → t.site.exclusionsOk) ∧
       t.site = { s.site with exclusions := t.site.exclusions, generation := s.site.generation + 1 } ∧
       s.rechecks t (fun b => e.mask.getLsbD b) ∧
       (∀ c ∈ s.conflicting e, o.quiet = false → s.port.freeCount ≤ s.site.params.reserve →
         ∃ q ∈ t.reports.pending, q.subject = .channel c ∧ q.flags &&& conflictFlag = conflictFlag) ∧
       t.plan = s.plan ∧ t.census = s.census ∧ s.sameSpectrum t ∧
       s.leaves t u (s.shortEntries t fun b => e.mask.getLsbD b) ∧
       let bytes := [byte (t.site.exclusions.findIdx (· = e)), byte t.site.exclusions.length]
         ++ half (s.conflicting e).length
       s.ends t o .done .none 0 [bytes] ∧
       let taken : State := { s with port := s.port.setCells o.cells .active }
       ((s.conflicting e).foldl (fun x c => x.mark (.channel c) conflictFlag) taken).aloneWith t o .done [bytes]) ∧
  (∀ (s : State) (u : Bool) (o : Handed) (e : Exclusion), s.takes .dropExclusion u o →
     validStep (s.param o 0 2) = true → validStep (s.param o 2 2) = true → s.sentExclusion o = some e →
     e ∈ s.site.exclusions →
     ∃ t, exec .dropExclusion s = .next t.arbitrate ∧
       s.site.exclusions.Perm (e :: t.site.exclusions) ∧ t.site.exclusions.Sublist s.site.exclusions ∧
       t.site = { s.site with exclusions := t.site.exclusions, generation := s.site.generation + 1 } ∧
       s.rechecks t (fun b => e.mask.getLsbD b) ∧ (s.sparesPass → s.sparesApart → t.spares = s.spares) ∧
       t.plan = s.plan ∧ t.census = s.census ∧ s.sameSpectrum t ∧
       s.leaves t u (s.shortEntries t fun b => e.mask.getLsbD b) ∧
       s.ends t o .done .none 0 [[byte t.site.exclusions.length]] ∧
       s.aloneWith t o .done [[byte t.site.exclusions.length]])

/-- The five site-model orders are refused by their checks, and a refused one changes no stored value (R2, R4, R10, R13,
R15, R16).
Where the manual leaves room it rests on the choices of notes/assumptions/6.md and notes/assumptions/31.md. -/
def Obligations.SiteOrdersRefused : Prop :=
  ∀ (s : State) (u : Bool) (o : Handed),
    (s.takes .setParameters u o → (s.sentWindow o).ok = false →
      ∃ t, exec .setParameters s = .next t.arbitrate ∧ s.refuses t u o .badArgument) ∧
    (s.takes .setParameters u o → (s.sentParams o).imLevel = 0 ∨ 3 < (s.sentParams o).imLevel →
      ∃ t, exec .setParameters s = .next t.arbitrate ∧ s.refuses t u o .badArgument) ∧
    (s.takes .setParameters u o → (s.sentWindow o).ok = true → 1 ≤ (s.sentParams o).imLevel →
      (s.sentParams o).imLevel ≤ 3 → s.site.window ≠ s.sentWindow o → s.plan.held = true →
      ∃ t, exec .setParameters s = .next t.arbitrate ∧ s.refuses t u o .planPresent) ∧
    (s.takes .defineStage u o → 7 < s.param o 0 1 ∨ (3 < s.param o 1 1 ∧ s.param o 1 1 ≠ 0xFF) ∨
        1 < s.param o 2 1 ∨ s.param o 3 1 ∉ [1, 2, 4, 5] ∨ 2 < s.param o 4 1 ∨
        rangeOk (s.param o 8 2) (s.param o 10 2) = false →
      ∃ t, exec .defineStage s = .next t.arbitrate ∧ s.refuses t u o .badArgument) ∧
    (s.takes .setCoupling u o → s.param o 0 1 = 0 ∨ 28 < s.param o 0 1 ∨
        (∃ i, i < s.param o 0 1 ∧ s.couplingEntry o i = none) →
      ∃ t, exec .setCoupling s = .next t.arbitrate ∧ s.refuses t u o .badArgument) ∧
    (s.takes .addExclusion u o → s.sentExclusion o = none ∨ (∃ e, s.sentExclusion o = some e ∧ e.ok = false) →
      ∃ t, exec .addExclusion s = .next t.arbitrate ∧ s.refuses t u o .badArgument) ∧
    (∀ e, s.takes .addExclusion u o → s.sentExclusion o = some e → e.ok = true → e ∈ s.site.exclusions →
      ∃ t, exec .addExclusion s = .next t.arbitrate ∧ s.refuses t u o .exists) ∧
    (∀ e, s.takes .addExclusion u o → s.sentExclusion o = some e → e.ok = true → e ∉ s.site.exclusions →
      64 ≤ s.site.exclusions.length → ∃ t, exec .addExclusion s = .next t.arbitrate ∧ s.refuses t u o .full) ∧
    (∀ e, s.takes .dropExclusion u o → validStep (s.param o 0 2) = true → validStep (s.param o 2 2) = true →
      s.sentExclusion o = some e → e ∉ s.site.exclusions →
      ∃ t, exec .dropExclusion s = .next t.arbitrate ∧ s.refuses t u o .notFound) ∧
    (s.takes .dropExclusion u o → validStep (s.param o 0 2) = false ∨ validStep (s.param o 2 2) = false →
      ∃ t, exec .dropExclusion s = .next t.arbitrate ∧ s.refuses t u o .badArgument) ∧
    (s.takes .dropExclusion u o → validStep (s.param o 0 2) = true → validStep (s.param o 2 2) = true →
      s.sentExclusion o = none → ∃ t, exec .dropExclusion s = .next t.arbitrate ∧ s.refuses t u o .notFound)

/-! ### The Channel Table -/

/-- DEFINE CHANNEL stores every field. A VACANT or DEFINED channel becomes DEFINED, at a DEFINED stage (R24); a channel
that holds a frequency keeps its hold, with the stage and the class it has and with every held frequency passing C1
(R25). The order is no plan change (R22).
Where the manual leaves room it rests on the choices of notes/assumptions/31.md and notes/assumptions/36.md. -/
def Obligations.DefineChannelStoresFields : Prop :=
  ∀ (s : State) (u : Bool) (o : Handed) (c : Fin 256) (f : ChannelFields) (h : Hold), s.takes .defineChannel u o →
    s.sentChannel o = some c → s.sentFields o = some f →
    ((s.hold c = none ∨ s.hold c = some .defined) ∧ h = .defined ∧ (s.site.stages[f.stage]).isSome = true ∨
      ∃ r, s.channel c = some r ∧ r.hold = h ∧ h ≠ .defined ∧ f.stage = r.fields.stage ∧
        f.bandwidth = r.fields.bandwidth ∧ s.keeps f h = true) →
    ∃ t, exec .defineChannel s = .next t.arbitrate ∧
      t.channel c = some { fields := f, hold := h, mark := (s.channel c).bind ChannelRecord.mark } ∧
      s.othersKept t c ∧ t.plan.epoch = s.plan.epoch ∧
      f.low = s.param o 8 2 ∧ f.high = s.param o 10 2 ∧ f.multiple = s.param o 3 1 ∧ f.priority = s.param o 5 1 ∧
      t.site = s.site ∧ t.census = s.census ∧ t.spares = s.spares ∧ s.sameSpectrum t ∧
      t.engine = s.engine.after u ∧ t.free = s.free ∧
      s.ends t o .done (if (f.effective s.site.window).isSome then .none else .emptyRange) 0
        [f.bytes c s.site.window] ∧
      s.aloneWith t o .done [f.bytes c s.site.window]

/-- RETIRE CHANNEL makes a DEFINED channel VACANT (R26). MARK LIVE makes a PLACED channel LIVE, MARK IDLE makes a LIVE
channel PLACED, and either leaves a channel that stands so already as it is; the frequency stays held (R27, R28). None of
them is a plan change.
Where the manual leaves room it rests on the choices of notes/assumptions/31.md and notes/assumptions/36.md. -/
def Obligations.RetireAndMarkSwitchState : Prop :=
  (∀ (s : State) (u : Bool) (o : Handed) (c : Fin 256), s.takes .retireChannel u o → s.sentChannel o = some c →
     s.hold c = some .defined →
     ∃ t, exec .retireChannel s = .next t.arbitrate ∧ t.channel c = none ∧ s.othersKept t c ∧ t.plan.epoch = s.plan.epoch ∧
       t.site = s.site ∧ t.census = s.census ∧ t.spares = s.spares ∧ s.sameSpectrum t ∧
       t.engine = s.engine.after u ∧ t.free = s.free ∧
       s.ends t o .done .none 0 [half c.val ++ [0#8]] ∧ s.aloneWith t o .done [half c.val ++ [0#8]]) ∧
  (∀ (s : State) (u : Bool) (o : Handed) (c : Fin 256) (f : Nat), s.sentChannel o = some c →
     s.hold c = some (.placed f) ∨ s.hold c = some (.live f) →
     (s.takes .markLive u o → ∃ t, exec .markLive s = .next t.arbitrate ∧ s.holdSet t u c (.live f) ∧
       s.ends t o .done .none 0 [half c.val ++ [4#8]] ∧ s.aloneWith t o .done [half c.val ++ [4#8]]) ∧
     (s.takes .markIdle u o → ∃ t, exec .markIdle s = .next t.arbitrate ∧ s.holdSet t u c (.placed f) ∧
       s.ends t o .done .none 0 [half c.val ++ [3#8]] ∧ s.aloneWith t o .done [half c.val ++ [3#8]]))

/-- RELEASE removes the primary of a PLACED or LIVE channel, which becomes DEFINED: one plan change. On a DEFINED
channel it is DONE and changes nothing (R29, R21, R40). The plan change rechecks the spare lists and queues UPKEEP for the
stages left short (R21, R86, R88).
Where the manual leaves room it rests on the choices of notes/assumptions/31.md and notes/assumptions/36.md. -/
def Obligations.ReleaseRemovesPrimary : Prop :=
  ∀ (s : State) (u : Bool) (o : Handed) (c : Fin 256) (r : ChannelRecord), s.takes .release u o →
    s.sentChannel o = some c → s.channel c = some r → r.mark = none →
    (∀ f, r.hold = .placed f ∨ r.hold = .live f → s.census.planesOk →
      ∃ t, exec .release s = .next t.arbitrate ∧ t.channel c = some { r with hold := .defined } ∧ s.othersKept t c ∧
        t.plan.epoch = s.plan.epoch + 1 ∧ s.removes t (r.transmitter c false f) ∧ s.rechecksAll t ∧
        t.site = s.site ∧ s.sameSpectrum t ∧ s.leaves t u (s.allShort t) ∧ t.free = s.free ∧
        s.ends t o .done .none 0 [half c.val ++ half f] ∧ s.aloneWith t o .done [half c.val ++ half f]) ∧
    (r.hold = .defined →
      ∃ t, exec .release s = .next t.arbitrate ∧ s.sameModel t ∧ t.engine = s.engine.after u ∧ t.free = s.free ∧
        s.ends t o .done .none 0 [half c.val ++ half 0xFFFF] ∧ s.aloneWith t o .done [half c.val ++ half 0xFFFF])

/-- CONFIRM MOVE removes the secondary of a MOVING or UNRESOLVED channel and makes it LIVE on the primary; DECLINE MOVE
removes the primary and makes it LIVE on the old frequency. Each is one plan change, which rechecks the spare lists and
queues UPKEEP for the stages left short (R21, R32, R33, R86, R88).
Where the manual leaves room it rests on the choices of notes/assumptions/31.md and notes/assumptions/36.md. -/
def Obligations.ConfirmAndDeclineEndMove : Prop :=
  ∀ (s : State) (u : Bool) (o : Handed) (c : Fin 256) (r : ChannelRecord) (f g : Nat), s.sentChannel o = some c →
    s.channel c = some r → ((∃ e, r.hold = .moving f g e) ∨ r.hold = .unresolved f g) → s.census.planesOk →
    (s.takes .confirmMove u o →
      ∃ t, exec .confirmMove s = .next t.arbitrate ∧ t.channel c = some { r with hold := .live f } ∧ s.othersKept t c ∧
        t.plan.epoch = s.plan.epoch + 1 ∧ s.removes t (r.transmitter c true g) ∧ s.rechecksAll t ∧
        t.site = s.site ∧ s.sameSpectrum t ∧ s.leaves t u (s.allShort t) ∧ t.free = s.free ∧
        s.ends t o .done .none 0 [half c.val ++ half f ++ half g] ∧
        s.aloneWith t o .done [half c.val ++ half f ++ half g]) ∧
    (s.takes .declineMove u o →
      ∃ t, exec .declineMove s = .next t.arbitrate ∧ t.channel c = some { r with hold := .live g } ∧ s.othersKept t c ∧
        t.plan.epoch = s.plan.epoch + 1 ∧ s.removes t (r.transmitter c false f) ∧ s.rechecksAll t ∧
        t.site = s.site ∧ s.sameSpectrum t ∧ s.leaves t u (s.allShort t) ∧ t.free = s.free ∧
        s.ends t o .done .none 0 [half c.val ++ half g ++ half f] ∧
        s.aloneWith t o .done [half c.val ++ half g ++ half f])

/-- The orders that name a channel are refused by their arguments, then by the working mark, then by the channel's state
(R23 to R25, R26 to R29, R32, R33, R83, R95). DEFINE CHANNEL is refused with BAD_ARGUMENT for a field outside its values,
and with STATE for an UNDEFINED stage, or on a channel that holds a frequency for another stage or class or a range or step
multiple under which a held frequency fails C1. PLACE, CHECK LIST and REFILL SPARES are refused with BAD_ARGUMENT by the
checks at their take-up (R65, R67, R92). A refused order changes nothing.
Where the manual leaves room it rests on the choices of notes/assumptions/31.md and notes/assumptions/33.md. -/
def Obligations.PlanOrdersRefused : Prop :=
  (∀ (s : State) (u : Bool) (o : Handed), s.takes .defineChannel u o →
     (255 < s.param o 0 2 ∨ 7 < s.param o 2 1 ∨ s.param o 3 1 ∉ [1, 2, 4, 5] ∨ 2 < s.param o 4 1 ∨ 3 < s.param o 5 1 ∨
         1 < s.param o 6 1 ∨ rangeOk (s.param o 8 2) (s.param o 10 2) = false →
       ∃ t, exec .defineChannel s = .next t.arbitrate ∧ s.refuses t u o .badArgument) ∧
     ∀ c f, s.sentChannel o = some c → s.sentFields o = some f →
       ((s.hold c = none ∨ s.hold c = some .defined) → s.site.stages[f.stage] = none →
         ∃ t, exec .defineChannel s = .next t.arbitrate ∧ s.refuses t u o .state) ∧
       ∀ r, s.channel c = some r → r.hold ≠ .defined →
         f.stage ≠ r.fields.stage ∨ f.bandwidth ≠ r.fields.bandwidth ∨
           (∃ g, (r.hold.primary = some g ∨ r.hold.secondary = some g) ∧
             s.check1 (s.site.channelCandidate { r with fields := f } g) = false) →
         ∃ t, exec .defineChannel s = .next t.arbitrate ∧ s.refuses t u o .state) ∧
  (∀ (s : State) (u : Bool) (o : Handed),
     (255 < s.param o 0 2 →
       (s.takes .retireChannel u o → ∃ t, exec .retireChannel s = .next t.arbitrate ∧ s.refuses t u o .badArgument) ∧
       (s.takes .markLive u o → ∃ t, exec .markLive s = .next t.arbitrate ∧ s.refuses t u o .badArgument) ∧
       (s.takes .markIdle u o → ∃ t, exec .markIdle s = .next t.arbitrate ∧ s.refuses t u o .badArgument) ∧
       (s.takes .release u o → ∃ t, exec .release s = .next t.arbitrate ∧ s.refuses t u o .badArgument) ∧
       (s.takes .confirmMove u o → ∃ t, exec .confirmMove s = .next t.arbitrate ∧ s.refuses t u o .badArgument) ∧
       (s.takes .declineMove u o → ∃ t, exec .declineMove s = .next t.arbitrate ∧ s.refuses t u o .badArgument) ∧
       (s.takes .pin u o → ∃ t, exec .pin s = .next t.arbitrate ∧ s.refuses t u o .badArgument) ∧
       (s.takes .replace u o → ∃ t, exec .replace s = .next t.arbitrate ∧ s.refuses t u o .badArgument)) ∧
     (∀ c, s.sentChannel o = some c → s.marked c = true →
       (s.takes .release u o → ∃ t, exec .release s = .next t.arbitrate ∧ s.refuses t u o .busy) ∧
       (s.takes .pin u o → validStep (s.param o 2 2) = true → s.param o 4 1 < 4 →
         ∃ t, exec .pin s = .next t.arbitrate ∧ s.refuses t u o .busy) ∧
       (s.takes .replace u o → s.param o 2 1 < 2 → ∃ t, exec .replace s = .next t.arbitrate ∧ s.refuses t u o .busy)) ∧
     (∀ c, s.sentChannel o = some c →
       (s.takes .retireChannel u o → s.hold c = none →
         ∃ t, exec .retireChannel s = .next t.arbitrate ∧ s.refuses t u o .notFound) ∧
       (∀ h, s.takes .retireChannel u o → s.hold c = some h → h ≠ .defined →
         ∃ t, exec .retireChannel s = .next t.arbitrate ∧ s.refuses t u o .state) ∧
       (s.takes .markLive u o → (∀ f, s.hold c ≠ some (.placed f) ∧ s.hold c ≠ some (.live f)) →
         ∃ t, exec .markLive s = .next t.arbitrate ∧ s.refuses t u o .state) ∧
       (s.takes .markIdle u o → (∀ f, s.hold c ≠ some (.placed f) ∧ s.hold c ≠ some (.live f)) →
         ∃ t, exec .markIdle s = .next t.arbitrate ∧ s.refuses t u o .state) ∧
       (s.takes .release u o → s.marked c = false → (s.hold c).bind Hold.move ≠ none ∨ s.hold c = none →
         ∃ t, exec .release s = .next t.arbitrate ∧ s.refuses t u o .state) ∧
       (s.takes .confirmMove u o → (s.hold c).bind Hold.move = none →
         ∃ t, exec .confirmMove s = .next t.arbitrate ∧ s.refuses t u o .state) ∧
       (s.takes .declineMove u o → (s.hold c).bind Hold.move = none →
         ∃ t, exec .declineMove s = .next t.arbitrate ∧ s.refuses t u o .state))) ∧
  (∀ (s : State) (u : Bool) (o : Handed),
     (s.takes .checkList u o → s.port.headField o.head 12 2 = 0 ∨ 480 < s.port.headField o.head 12 2 ∨
         60 * o.length < s.port.headField o.head 12 2 →
       ∃ t, exec .checkList s = .next t.arbitrate ∧ s.refuses t u o .badArgument) ∧
     (s.takes .place u o → s.param o 0 2 = 0 ∨ 256 < s.param o 0 2 ∨ 36 + 40 * o.rest.length < s.param o 0 2 ∨
         4 ≤ s.param o 2 1 →
       ∃ t, exec .place s = .next t.arbitrate ∧ s.refuses t u o .badArgument) ∧
     (s.takes .refillSpares u o → s.param o 0 1 = 0 ∨ 2 ≤ s.param o 1 1 →
       ∃ t, exec .refillSpares s = .next t.arbitrate ∧ s.refuses t u o .badArgument) ∧
     (s.takes .pin u o → validStep (s.param o 2 2) = false ∨ 4 ≤ s.param o 4 1 →
       ∃ t, exec .pin s = .next t.arbitrate ∧ s.refuses t u o .badArgument) ∧
     (∀ c, s.takes .pin u o → s.sentChannel o = some c → validStep (s.param o 2 2) = true → s.param o 4 1 < 4 →
       s.channel c = none → ∃ t, exec .pin s = .next t.arbitrate ∧ s.refuses t u o .state) ∧
     (s.takes .replace u o → 2 ≤ s.param o 2 1 → ∃ t, exec .replace s = .next t.arbitrate ∧ s.refuses t u o .badArgument) ∧
     (∀ c, s.takes .replace u o → s.sentChannel o = some c → s.param o 2 1 < 2 → s.marked c = false →
       (∀ g, s.hold c ≠ some (.placed g) ∧ s.hold c ≠ some (.live g)) →
       ∃ t, exec .replace s = .next t.arbitrate ∧ s.refuses t u o .state))

/-- The move timer of a MOVING channel expires: the channel becomes UNRESOLVED with both frequencies held, the flag
UNRESOLVED is marked, which is an attempt to emit, and the plan epoch and the census stay (R31, R160). With a pending set
that the reserve holds back, the channel's subject stands in it afterwards.
Where the manual leaves room it rests on the choices of notes/assumptions/5.md. -/
def Obligations.MoveTimerExpiryUnresolves : Prop :=
  ∀ (s : State) (c : Fin 256) (r : ChannelRecord) (f g e : Nat), s.channel c = some r → r.hold = .moving f g e →
    ∃ t, exec (.moveTimerExpiry c) s = .next t ∧ t.channel c = some { r with hold := .unresolved f g } ∧
      s.othersKept t c ∧ t.plan.epoch = s.plan.epoch ∧ t.site = s.site ∧ t.census = s.census ∧
      t.spares = s.spares ∧ s.sameSpectrum t ∧ t.engine = s.engine ∧ t.free = s.free ∧ t.pending = s.pending ∧
      t.now = max s.now e ∧
      State.marks { s with plan := t.plan, now := t.now } t (.channel c) unresolvedFlag ∧
      (s.port.freeCount ≤ s.site.params.reserve ∨ s.port.reset ≠ none →
        (∃ q ∈ t.reports.pending, q.subject = .channel c ∧ q.flags &&& unresolvedFlag = unresolvedFlag) ∧
        s.noticesOnly t) ∧
      (∀ d, s.port.cell d ≠ some .free → t.port.cell d = s.port.cell d) ∧
      (s.memoryOk → ∀ a, s.port.cell (a / 256) ≠ some .free → t.port.memory.read a = s.port.memory.read a)


/-! ### The Intermod Census and the Evaluator -/

/-- REBUILD CENSUS and an internal REBUILD that does not find the census VALID clear the planes, put the census into
REBUILDING with its cause kept, and record the plan epoch and the model generation (R45, R49). An internal REBUILD that
finds the census VALID is discarded.
Where the manual leaves room it rests on the choices of notes/assumptions/22.md and notes/assumptions/31.md. -/
def Obligations.RebuildClearsPlanes : Prop :=
  ∀ s : State,
    let d : Census := { state := .rebuilding, cause := s.census.cause, plane3 := Vector.replicate 8 [],
                        plane5 := Vector.replicate 8 [] }
    let w : RebuildWork := { order := none, epoch := s.plan.epoch, generation := s.site.generation, restarts := 0,
                             phase := .add, position := 0, added := 0, marked := [] }
    (∀ o, s.takes .rebuildCensus false o →
      ∃ t, exec .rebuildCensus s = .next t.arbitrate ∧ t.census = d ∧ s.starts t (.rebuild { w with order := some o }) ∧
        t.site = s.site ∧ t.plan = s.plan ∧ t.spares = s.spares ∧ s.sameSpectrum t ∧ s.takenIn t o ∧
        t.reports = s.reports ∧ t.free = s.free) ∧
    (s.arbiter = some (.takeRoutine .rebuild) → s.census.state ≠ .valid →
      ∃ t, exec .rebuild s = .next t.arbitrate ∧ t.census = d ∧ s.starts t (.rebuild w) ∧ t.site = s.site ∧ t.plan = s.plan ∧
        t.spares = s.spares ∧ s.sameSpectrum t ∧ s.samePort t ∧ t.reports = s.reports ∧ t.free = s.free) ∧
    (s.arbiter = some (.takeRoutine .rebuild) → s.census.state = .valid →
      ∃ t, exec .rebuild s = .next t.arbitrate ∧ s.sameModel t ∧ s.samePort t ∧ t.reports = s.reports ∧ t.free = s.free ∧
        t.engine = { s.engine with routine := s.engine.routine.tail })

/-- A step of a REBUILD in its add phase adds the products of one frequency with those before it, and stands at its
yield point. Where a count would pass 65,535 the census goes STALE with the cause SATURATED, CENSUS is raised, and the
REBUILD ends, an order as FAILED (R41, R45, R48).
Where the manual leaves room it rests on the choices of notes/assumptions/19.md, notes/assumptions/22.md and
notes/assumptions/31.md. -/
def Obligations.RebuildStepAddsProducts : Prop :=
  ∀ (s : State) (w : RebuildWork) (x : Transmitter), s.runs (.rebuild w) → s.census.state = .rebuilding →
    s.census.planesOk → w.phase = .add → s.plan.transmitters[w.position]? = some x →
    let l := s.site.increments x (s.plan.transmitters.take w.position)
    ((∀ i, s.census.count i + l.count i ≤ Config.countLimit) →
      ∃ t, exec .rebuildStep s = .next t.arbitrate ∧ t.census.state = .rebuilding ∧ t.census.cause = s.census.cause ∧
        s.census.gains t.census l ∧ t.site = s.site ∧ t.plan = s.plan ∧ t.spares = s.spares ∧ s.sameSpectrum t ∧
        s.samePort t ∧ t.reports = s.reports ∧ t.free = s.free ∧
        s.yields t (.rebuild
          (if w.position + 1 < s.plan.transmitters.length then
            { w with position := w.position + 1, added := w.added + 1 }
          else { w with phase := .sweep, position := 0, added := w.added + 1 })) []) ∧
    ((∃ i, Config.countLimit < s.census.count i + l.count i) →
      ∃ t, exec .rebuildStep s = .next t.arbitrate ∧ t.census.state = .stale ∧ t.census.cause = .saturated ∧ t.site = s.site ∧
        t.plan = s.plan ∧ t.spares = s.spares ∧ s.sameSpectrum t ∧ t.free = s.free ∧ s.rests t [] ∧
        t.port.raw &&& censusBit = censusBit ∧ t.reports = s.reports ∧
        (w.order = none → (s.noticed t).samePort t) ∧
        ∀ o, w.order = some o →
          let bytes := half w.added ++ half w.marked.length ++ word w.restarts ++ [1#8, 1#8] ++ half 0 ++ word w.epoch
            ++ word w.generation
          s.ends t o .failed .saturated 0 [bytes] ∧ (s.noticed t).aloneWith t o .failed [bytes])

/-- A step of a REBUILD in its sweep phase judges one frequency against C2, C4 and C5 with that frequency set aside, the
counts read from the planes it has built. With exact planes that is C5 against the rest of the plan (R43, R47). A channel
that fails and has not been marked yet is marked CONFLICT (R47). After the last frequency, or where none is
left, the census becomes VALID with the cause NONE and the REBUILD ends, an order as DONE, after the mark (R48).
Where the manual leaves room it rests on the choices of notes/assumptions/22.md, notes/assumptions/31.md and
notes/assumptions/36.md. -/
def Obligations.RebuildStepSweepsAndEnds : Prop :=
  (∀ (s : State) (x : Transmitter),
    let c : Candidate :=
      { step := x.step, halfWidth := x.halfWidth, multiple := 1, range := none, stage := x.stage }
    let rest := s.plan.others x
    let built : State := { s with census := { s.census with state := .valid } }
    (s.sweepPasses x = true ↔
      s.check2 c = true ∧ s.check4 c rest = true ∧ built.check5 c rest [x] = true) ∧
    (s.exactFor s.plan.transmitters → x ∈ s.plan.transmitters → s.census.state ≠ .valid →
      built.check5 c rest [x] = s.check5 c rest [x])) ∧
  ∀ (s : State) (w : RebuildWork), s.runs (.rebuild w) →
    (∀ x : Transmitter, w.phase = .sweep → s.plan.transmitters[w.position]? = some x →
      let marks : Bool := !s.sweepPasses x && !w.marked.contains x.channel
      let v := if marks then { w with marked := w.marked ++ [x.channel] } else w
      (w.position + 1 < s.plan.transmitters.length →
        ∃ t, exec .rebuildStep s = .next t.arbitrate ∧ s.samePlan t ∧ s.sameSpectrum t ∧ t.free = s.free ∧ s.reportsOnly t ∧
          s.yields t (.rebuild { v with position := w.position + 1 }) [] ∧
          (marks = false → s.samePort t ∧ t.reports = s.reports) ∧
          (marks = true → s.marks t (.channel x.channel) conflictFlag ∧
            (s.heldBack → t.flagged (.channel x.channel) conflictFlag))) ∧
      (w.position + 1 = s.plan.transmitters.length →
        ∃ t, exec .rebuildStep s = .next t.arbitrate ∧ t.census = { s.census with state := .valid, cause := .none } ∧
          t.site = s.site ∧ t.plan = s.plan ∧ t.spares = s.spares ∧ s.sameSpectrum t ∧ t.free = s.free ∧ s.rests t [] ∧
          (w.order = none → s.reportsOnly t ∧ (marks = false → s.samePort t ∧ t.reports = s.reports) ∧
            (marks = true → s.marks t (.channel x.channel) conflictFlag)) ∧
          (∀ o, w.order = some o →
            let bytes := half v.added ++ half v.marked.length ++ word v.restarts ++ [0#8, 0#8] ++ half 0 ++ word v.epoch
              ++ word v.generation
            s.ends t o .done .none 0 [bytes] ∧
              (if marks then s.mark (.channel x.channel) conflictFlag else s).aloneWith t o .done [bytes]) ∧
          (marks = true → s.heldBack → (∀ o, w.order = some o → o.quiet = false) →
            t.flagged (.channel x.channel) conflictFlag))) ∧
    (s.plan.transmitters[w.position]? = none →
      ∃ t, exec .rebuildStep s = .next t.arbitrate ∧ t.census = { s.census with state := .valid, cause := .none } ∧
        t.site = s.site ∧ t.plan = s.plan ∧ t.spares = s.spares ∧ s.sameSpectrum t ∧ t.free = s.free ∧ s.rests t [] ∧
        (w.order = none → s.samePort t ∧ t.reports = s.reports) ∧
        ∀ o, w.order = some o →
          let bytes := half w.added ++ half w.marked.length ++ word w.restarts ++ [0#8, 0#8] ++ half 0 ++ word w.epoch
            ++ word w.generation
          s.ends t o .done .none 0 [bytes] ∧ s.aloneWith t o .done [bytes])

/-- The census stays exact: the path of R21 for an added frequency takes exact planes to exact planes while the census
stays VALID, and so does the path for a removed one (R38 to R40). A REBUILD that adds the frequencies in turn builds exact
planes (R45). Over every step a VALID census stays exact for the held frequencies, and so do the planes of a REBUILD that
runs for those it has added (R40, R45 to R48). Then every spare goes on passing C2, C4, C5 and C6 as well (R85, R86). A
suspended REBUILD is judged by the plan epoch when it resumes (R46), so these two hold from states that have none.
Where the manual leaves room it rests on the choices of notes/assumptions/31.md. -/
def Obligations.CensusStaysExact : Prop :=
  (∀ (s : State) (x : Transmitter), s.census.state = .valid → s.census.planesOk → x ∈ s.plan.transmitters →
    s.exactFor (s.plan.others x) → (s.added x).census.state = .valid → (s.added x).exactFor s.plan.transmitters) ∧
  (∀ (s : State) (x : Transmitter), s.census.state = .valid → s.census.planesOk →
    s.exactFor (x :: s.plan.transmitters) →
    (s.removed x).census.state = .valid ∧ (s.removed x).exactFor s.plan.transmitters) ∧
  (∀ (s : State) (w : RebuildWork) (x : Transmitter), s.runs (.rebuild w) → s.census.planesOk →
    w.phase = .add → s.plan.transmitters[w.position]? = some x →
    s.exactFor (s.plan.transmitters.take w.position) →
    ∃ t : State, exec .rebuildStep s = .next t.arbitrate ∧
      (t.census.state ≠ .stale → t.exactFor (s.plan.transmitters.take (w.position + 1)))) ∧
  ∀ s t : State, s.engineOk → s.searchOk → s.census.planesOk → s.rebuildUndisturbed → s.censusExact →
    step s = .next t → t.censusExact ∧ (s.sparesPass → t.sparesPass)

/-- The verdict, the failing check and the score of an evaluation do not depend on the census state: with exact planes, an
evaluation under a VALID census answers what it answers under a census that is not VALID, whatever its planes hold. So it
does with the frequencies of a channel set aside (R43, R59, R61). -/
def Obligations.VerdictIgnoresCensusState : Prop :=
  ∀ (s : State) (d : Census), s.census.state = .valid → s.census.planesOk → d.state ≠ .valid →
    s.exactFor s.plan.transmitters →
    let t : State := { s with census := d }
    (∀ (c : Candidate) (strict : Bool),
      s.evaluate c s.plan.transmitters [] strict = t.evaluate c s.plan.transmitters [] strict) ∧
    (∀ (c : Fin 256) (r : ChannelRecord) (f : Nat) (strict : Bool), s.channel c = some r →
      s.evaluateAlone c r f strict = t.evaluateAlone c r f strict)

/-- An evaluation stops at the first check that fails and answers its number; a candidate that passes all six gets its
score (R53). -/
def Obligations.EvaluationStopsAtFirstFailure : Prop :=
  ∀ (s : State) (c : Candidate) (set aside : List Transmitter) (strict : Bool) (n : Nat),
    let checks := [s.check1 c, s.check2 c, s.check3 c strict, s.check4 c set, s.check5 c set aside, s.check6 c set]
    (s.evaluate c set aside strict = .fail n ↔
      1 ≤ n ∧ checks[n - 1]? = some false ∧ ∀ i, i < n - 1 → checks[i]? = some true) ∧
    (s.evaluate c set aside strict = .pass n ↔
      (∀ b ∈ checks, b = true) ∧
        n = 8 * min (s.termP c set aside) 64 + 2 * min (s.termC c set) 100 + 5 * min (s.termM c) 60)

/-- C1 passes exactly when the frequency lies in the window and in the subject's range, a channel's or a spare profile's cut
to the window, and is a multiple of the subject's step multiple (R55). -/
def Obligations.RangeCheck : Prop :=
  ∀ (s : State) (f : Nat),
    let w := s.site.window
    (∀ r : ChannelRecord, s.check1 (s.site.channelCandidate r f) = true ↔
      (w.w0 ≤ f ∧ f + 1 ≤ w.w0 + w.width) ∧ (r.fields.low ≤ f ∧ f ≤ r.fields.high) ∧ f % r.fields.multiple = 0) ∧
    ∀ (b : Fin 8) (r : StageRecord), s.check1 (s.site.spareCandidate b r f) = true ↔
      (w.w0 ≤ f ∧ f + 1 ≤ w.w0 + w.width) ∧ (r.low ≤ f ∧ f ≤ r.high) ∧ f % r.multiple = 0

/-- C4 fails exactly when some held frequency of the considered set, at a stage in N_sp of the candidate's, stands closer
than the two half-widths and the spacing margin (R58). -/
def Obligations.SpacingCheck : Prop :=
  ∀ (s : State) (c : Candidate) (set : List Transmitter),
    s.check4 c set = false ↔
      ∃ a ∈ set, s.site.isolation c.stage a.stage < s.site.params.tSp ∧
        ((c.step : Int) - a.step).natAbs < c.halfWidth + a.halfWidth + s.site.params.margin

/-- The dP term is the distance to the nearest bin with a count, out to 64 steps. The dC term is the least distance beyond
the required spacing, 100 when C4 compared nothing. The m2 term is the headroom below the occupied level, 0 with no zone,
and 60 at most. The score of a candidate that passes lies from 8 to 1,012 (R62 to R64). -/
def Obligations.ScoreTerms : Prop :=
  ∀ (s : State) (c : Candidate) (set aside : List Transmitter),
    let full := fun n => s.count3 c.stage set aside n ≠ 0 ∨
      ((s.site.params.imLevel = 2 ∨ s.site.params.imLevel = 3) ∧ s.count5 c.stage set aside n ≠ 0)
    (1 ≤ s.termP c set aside ∧ s.termP c set aside ≤ 64 ∧
      (∀ d, 1 ≤ d → d < s.termP c set aside → ¬ full (c.step - d) ∧ ¬ full (c.step + d)) ∧
      (s.termP c set aside < 64 → full (c.step - s.termP c set aside) ∨ full (c.step + s.termP c set aside))) ∧
    (s.check4 c set = true →
      (s.compared c set = [] → s.termC c set = 100) ∧
      (s.compared c set ≠ [] →
        (∃ a ∈ s.compared c set, distance c.step a.step = s.spacing c a + s.termC c set) ∧
        ∀ a ∈ s.compared c set, s.spacing c a + s.termC c set ≤ distance c.step a.step)) ∧
    (s.site.zoneOf c.stage = none → s.termM c = 0) ∧
    (∀ z, s.site.zoneOf c.stage = some z →
      let occupied := s.zones[z].settings.floor + s.zones[z].settings.occupiedOffset
      let steps := s.site.window.steps (c.step - c.halfWidth) (c.step + c.halfWidth)
      let bin := fun n => sparseGet Bin.cleared s.zones[z].map n
      ((∃ n ∈ steps, (bin n).seen = false) → s.termM c = 0) ∧
        (steps ≠ [] → (∀ n ∈ steps, (bin n).seen = true) →
          (∃ n ∈ steps, s.termM c = min (occupied - (bin n).settled) 60) ∧
            ∀ n ∈ steps, s.termM c ≤ occupied - (bin n).settled)) ∧
    ∀ strict n, s.evaluate c set aside strict = .pass n → 8 ≤ n ∧ n ≤ 1012

/-! ### CHECK LIST, PLACE and PIN -/

/-- CHECK LIST is taken up with its entries in list order, 60 to a cell (R65). Each step judges one entry: a bad channel
number or frequency gives FAIL with BAD_ARGUMENT, a VACANT channel FAIL with STATE, and any other channel the verdict of an
evaluation with all its frequencies set aside. After the last entry the order is DONE with the number of evaluations
(R66).
Where the manual leaves room it rests on the choices of notes/assumptions/22.md, notes/assumptions/31.md and
notes/assumptions/36.md. -/
def Obligations.CheckListJudgesEntries : Prop :=
  (∀ (s : State) (o : Handed), s.takes .checkList false o →
    let n := s.port.headField o.head 12 2
    1 ≤ n → n ≤ 480 → n ≤ 60 * o.length →
    ∃ t w, exec .checkList s = .next t.arbitrate ∧ s.starts t (.check w) ∧ s.sameModel t ∧ s.takenIn t o ∧
      t.reports = s.reports ∧ t.free = s.free ∧ w.order = o ∧
      w.strict = (s.port.headField o.head 14 1).testBit 0 ∧ w.judged = [] ∧ w.evaluations = 0 ∧ w.todo.length = n ∧
      ∀ i c, i < n → o.cells[i / 60]? = some c →
        w.todo[i]? = some (s.port.field c (4 * (i % 60)) 2, s.port.field c (4 * (i % 60) + 2) 2)) ∧
  ∀ (s : State) (w : CheckWork) (e : Nat × Nat) (l : List (Nat × Nat)), s.runs (.check w) → w.todo = e :: l →
    ∃ t v k, exec .checkListEntry s = .next t.arbitrate ∧ s.sameModel t ∧ t.free = s.free ∧
      (255 < e.1 ∨ validStep e.2 = false → v = 0x9000 ∧ k = 0) ∧
      (∀ c, index 256 e.1 = some c → validStep e.2 = true →
        (s.channel c = none → v = 0x8000 ∧ k = 0) ∧
        ∀ r, s.channel c = some r → k = 1 ∧
          (∀ n, s.evaluateAlone c r e.2 w.strict = .pass n → v = n) ∧
          (∀ n, s.evaluateAlone c r e.2 w.strict = .fail n → v = n * 4096)) ∧
      (l ≠ [] → s.samePort t ∧ t.reports = s.reports ∧
        s.yields t (.check { w with todo := l, judged := w.judged ++ [(e.2, v)], evaluations := w.evaluations + k }) []) ∧
      (l = [] → s.rests t [] ∧
        let bytes := pieces 240 8 ((w.judged ++ [(e.2, v)]).flatMap fun x => half x.1 ++ half x.2)
        s.ends t w.order .done .none (BitVec.ofNat 32 (w.evaluations + k)) bytes ∧ s.aloneWith t w.order .done bytes)

/-- PLACE screens its entries in list order: one with a bad channel number or preferred frequency is SKIPPED with
BAD_ARGUMENT, one whose channel an earlier entry names with DUPLICATE, one whose channel is not DEFINED with STATE, and any
other channel joins the working set (R68). It ranks the working set by descending priority, then by fewest grid points, then
by channel number (R69). Each channel walks the multiples of its step multiple in its effective range in ascending order,
the preferred frequency of the first entry that names it standing first if it is one of them (R68 to R70).
Where the manual leaves room it rests on the choices of notes/assumptions/17.md. -/
def Obligations.PlaceRanksAndWalks : Prop :=
  (∀ (s : State) (sent : List (Nat × Nat)),
    let entries := s.screen [] sent
    entries.length = sent.length ∧
      ∀ (i : Nat) (e : Nat × Nat), sent[i]? = some e →
        let bad := 255 < e.1 ∨ (validStep e.2 = false ∧ e.2 ≠ 0xFFFF)
        let again := ∃ j x, j < i ∧ sent[j]? = some x ∧ x.1 = e.1
        (bad → entries[i]? = some (.skipped e.1 .badArgument)) ∧
        (¬ bad → again → entries[i]? = some (.skipped e.1 .duplicate)) ∧
        ∀ c : Fin 256, ¬ bad → ¬ again → e.1 = c.val →
          entries[i]? = some (if s.hold c = some .defined then .working c else .skipped e.1 .state)) ∧
  (∀ (s : State) (sent : List (Nat × Nat)),
    let entries := s.screen [] sent
    let items := s.rank entries sent
    let priority := fun i : PlaceItem => ((s.channel i.channel).map fun r => r.fields.priority).getD 0
    (∀ c, (∃ i ∈ items, i.channel = c) ↔ PlaceEntry.working c ∈ entries) ∧ (items.map PlaceItem.channel).Nodup ∧
      (items.Pairwise fun i j =>
        priority j < priority i ∨
          (priority i = priority j ∧
            (i.walk.length < j.walk.length ∨ (i.walk.length = j.walk.length ∧ i.channel < j.channel)))) ∧
      ∀ i ∈ items, ∃ r l preferred l', s.channel i.channel = some r ∧
        sent = l ++ (i.channel.val, preferred) :: l' ∧ (∀ e ∈ l, e.1 ≠ i.channel.val) ∧
        i.walk = walkOf (gridOf r.fields.multiple (r.fields.effective s.site.window)) preferred) ∧
  (∀ (w : Window) (f : ChannelFields) (l h : Nat), f.effective w = some (l, h) ↔
    l = max f.low w.w0 ∧ h = min f.high w.top ∧ l ≤ h) ∧
  (∀ (k l h n : Nat), 1 ≤ k →
    (n ∈ (gridOf k (some (l, h))).points ↔ l ≤ n ∧ n ≤ h ∧ n % k = 0) ∧
      (gridOf k (some (l, h))).points.Pairwise (· < ·) ∧ (gridOf k none).points = []) ∧
  ∀ (k p : Nat) (range : Option (Nat × Nat)), 1 ≤ k →
    let g := gridOf k range
    (List.range (walkOf g p).length).map (walkOf g p).at =
      if p ∈ g.points then p :: g.points.filter (fun n => n ≠ p) else g.points

/-- The take-up of PLACE screens its entries, marks the working set with the order's head cell, and begins the search
with the first channel in channel order (R67, R68, R71). With an empty working set the order is DONE. In ALL_OR_NOTHING
a channel with no grid point makes it FAILED with NO_CANDIDATE (R69).
Where the manual leaves room it rests on the choices of notes/assumptions/3.md, notes/assumptions/17.md,
notes/assumptions/31.md and notes/assumptions/36.md. -/
def Obligations.PlaceTakeUp : Prop :=
  ∀ (s : State) (o : Handed), s.takes .place false o → 1 ≤ s.param o 0 2 → s.param o 0 2 ≤ 256 →
    s.param o 0 2 ≤ 36 + 40 * o.rest.length → s.param o 2 1 < 4 →
    let w := s.searchFor o
    (∀ i l, s.workingSet o = i :: l → (w.bestEffort = true ∨ ∀ x ∈ s.workingSet o, x.walk.length ≠ 0) →
      ∃ t, exec .place s = .next t.arbitrate ∧
        s.starts t (.place { w with stack := [{ item := i, cursor := 0, chosen := none }], rest := l }) ∧
        (∀ c, t.channel c = if c ∈ (s.workingSet o).map PlaceItem.channel then
            (s.channel c).map fun r => { r with mark := some o.head } else s.channel c) ∧
        t.plan.epoch = s.plan.epoch ∧ t.site = s.site ∧ t.census = s.census ∧ t.spares = s.spares ∧
        s.sameSpectrum t ∧ s.takenIn t o ∧ t.reports = s.reports ∧ t.free = s.free) ∧
    (∀ d i, w.bestEffort = false → (s.workingSet o)[d]? = some i → i.walk.length = 0 →
      (∀ j x, j < d → (s.workingSet o)[j]? = some x → x.walk.length ≠ 0) →
      ∃ t, exec .place s = .next t.arbitrate ∧
        s.reads t false o .failed .noCandidate (BitVec.ofNat 32 d)
          (pieces 240 8 (w.result false .noCandidate (half 0) s.plan.epoch)) 0) ∧
    (s.workingSet o = [] →
      ∃ t deepest, deepest.length = 2 ∧ exec .place s = .next t.arbitrate ∧
        s.reads t false o .done .none 0 (pieces 240 8 (w.result true .none deepest s.plan.epoch)) 1)

/-- A step of PLACE evaluates the candidate of the top channel and counts it (R73). A pass makes the channel TENTATIVE, a
plan change, and goes on to the next channel (R72). A failure advances the cursor. A walk used up sends ALL_OR_NOTHING
back to the nearest channel below whose walk is not used up: the tentatives from the top down to that channel are removed,
each a plan change, the channels above it are ahead again, and its cursor advances (R74). It makes BEST_EFFORT give the
channel up and go on to the next, passing over each channel with an empty walk (R76). Each plan change rechecks the spare
lists, and the step queues UPKEEP for the stages left short in ascending number (R21, R86, R88). That a channel with an
empty walk which comes first is passed over at the start of the first step is the choice of notes/assumptions/39.md.
Where the manual leaves room it rests on the choices of notes/assumptions/17.md and notes/assumptions/31.md. -/
def Obligations.PlaceStepSearches : Prop :=
  (∀ (s : State) (e : StackEntry),
    let x := s.clearTentative e
    (e.chosen = none ∨ s.channel e.item.channel = none → x = s) ∧
    ∀ r g, s.channel e.item.channel = some r → e.chosen = some g → s.census.planesOk →
      x.channel e.item.channel = some { r with hold := .defined } ∧ s.othersKept x e.item.channel ∧
        x.plan.epoch = s.plan.epoch + 1 ∧ s.removes x (r.transmitter e.item.channel false g) ∧ s.rechecksAll x ∧
        x = { s with plan := x.plan, census := x.census, spares := x.spares, engine := x.engine }) ∧
  (∀ (s : State) (w : PlaceWork) (e : StackEntry) (a : List PlaceItem) (i : PlaceItem) (l : List PlaceItem),
    s.runs (.place w) → w.top = some e → e.exhausted = true → w.bestEffort = true → w.rest = a ++ i :: l →
    (∀ x ∈ a, x.walk.length = 0) → i.walk.length ≠ 0 →
    let v := { w with
      stack := { item := i, cursor := 0, chosen := none } :: w.stack.tail
      rest := l
      unplaced := w.unplaced ++ (e.item :: a).map fun x => (x.channel, .noCandidate)
      deepest := max w.deepest (w.total - l.length - 1) }
    exec .placeStep s =
      exec .placeStep { s with engine := { s.engine with routineContext := .running (.place v) } }) ∧
  ∀ (s : State) (w : PlaceWork) (e : StackEntry) (r : ChannelRecord), s.runs (.place w) → s.census.planesOk →
    w.top = some e → e.exhausted = false → w.used < w.budget → s.channel e.item.channel = some r →
    let f := e.item.walk.at e.cursor
    let v := { w with used := w.used + 1 }
    let up : StackEntry := { e with cursor := e.cursor + 1 }
    (∀ n a i l, s.evaluateFor r f w.strict = .pass n → w.rest = a ++ i :: l → (∀ x ∈ a, x.walk.length = 0) →
      (w.bestEffort = false → a = []) → (w.bestEffort = true → i.walk.length ≠ 0) →
      ∃ t, exec .placeStep s = .next t.arbitrate ∧ t.channel e.item.channel = some { r with hold := .tentative f } ∧
        s.othersKept t e.item.channel ∧ t.plan.epoch = s.plan.epoch + 1 ∧
        s.adds t (r.transmitter e.item.channel false f) ∧ s.rechecksAll t ∧ t.site = s.site ∧ s.sameSpectrum t ∧
        (s.noticed t).samePort t ∧ t.reports = s.reports ∧ t.free = s.free ∧
        s.yields t (.place { v with
          stack := { item := i, cursor := 0, chosen := none } :: { e with chosen := some f } :: w.stack.tail
          rest := l
          unplaced := w.unplaced ++ a.map fun x => (x.channel, .noCandidate)
          deepest := max w.deepest (w.total - l.length - 1) }) (s.allShort t)) ∧
    (∀ n, s.evaluateFor r f w.strict = .fail n → e.cursor + 1 < e.item.walk.length →
      ∃ t, exec .placeStep s = .next t.arbitrate ∧ s.sameModel t ∧ s.samePort t ∧ t.reports = s.reports ∧ t.free = s.free ∧
        s.yields t (.place { v with stack := up :: w.stack.tail }) []) ∧
    (∀ n a b l g, s.evaluateFor r f w.strict = .fail n → e.cursor + 1 = e.item.walk.length →
      w.bestEffort = false → w.stack.tail = a ++ b :: l →
      (∀ x ∈ a, x.chosen.isSome = true ∧ x.item.walk.length ≤ x.cursor + 1) →
      (∀ x ∈ a, (s.channel x.item.channel).isSome = true) → b.chosen = some g →
      b.cursor + 1 < b.item.walk.length → (s.channel b.item.channel).isSome = true →
      let x := (a ++ [b]).foldl State.clearTentative s
      ∃ t, exec .placeStep s = .next t.arbitrate ∧ t.plan = x.plan ∧ t.census = x.census ∧ t.spares = x.spares ∧
        t.site = s.site ∧ s.sameSpectrum t ∧ s.samePort t ∧ t.reports = s.reports ∧ t.free = s.free ∧
        s.yields t (.place { v with
          stack := { b with cursor := b.cursor + 1, chosen := none } :: l
          rest := (a.map StackEntry.item).reverse ++ e.item :: w.rest }) (s.allShort t)) ∧
    (∀ n a i l, s.evaluateFor r f w.strict = .fail n → e.cursor + 1 = e.item.walk.length → w.bestEffort = true →
      w.rest = a ++ i :: l → (∀ x ∈ a, x.walk.length = 0) → i.walk.length ≠ 0 →
      ∃ t, exec .placeStep s = .next t.arbitrate ∧ s.sameModel t ∧ s.samePort t ∧ t.reports = s.reports ∧ t.free = s.free ∧
        s.yields t (.place { v with
          stack := { item := i, cursor := 0, chosen := none } :: w.stack.tail
          rest := l
          unplaced := w.unplaced ++ (e.item :: a).map fun x => (x.channel, .noCandidate)
          deepest := max w.deepest (w.total - l.length - 1) }) [])

/-- How a PLACE ends. With its last channel placed it commits: every tentative becomes PLACED and the marks are cleared
(R77). With its budget used up before an evaluation ALL_OR_NOTHING rolls back, each removal a plan change, and is FAILED
with BUDGET, while BEST_EFFORT keeps what it has placed (R73, R76, R78). With every walk on its stack used up, from the top
down to the first channel, ALL_OR_NOTHING removes every tentative and is FAILED with NO_CANDIDATE (R74, R75). BEST_EFFORT
ends as well when the walk of its last channel is used up, or when only channels with an empty walk are left (R76). Each
plan change rechecks the spare lists, and the event queues UPKEEP for the stages left short in ascending number (R86, R88).
Where the manual leaves room it rests on the choices of notes/assumptions/17.md, notes/assumptions/31.md and
notes/assumptions/36.md, and on notes/assumptions/39.md for a search whose walks are all empty. -/
def Obligations.PlaceEnds : Prop :=
  ∀ (s : State) (w : PlaceWork) (e : StackEntry), s.runs (.place w) → s.census.planesOk → w.top = some e →
    (w.stack.map fun x => x.item.channel).Nodup →
    (∀ x ∈ w.stack, (s.channel x.item.channel).isSome = true) →
    (∀ x ∈ w.stack, ∀ g, x.chosen = some g → s.hold x.item.channel = some (.tentative g)) →
    let f := e.item.walk.at e.cursor
    let given := fun l : List PlaceItem => w.unplaced ++ l.map fun i => (i.channel, Reason.noCandidate)
    let deepest := if w.rest = [] then w.deepest else max w.deepest (w.total - 1)
    let kept := fun v : PlaceWork =>
      let bytes := pieces 240 8 (v.result true v.verdict.2 (half v.deepest) s.plan.epoch)
      ∃ t, exec .placeStep s = .next t.arbitrate ∧ s.searchEnded t v Hold.placed ∧ t.plan.epoch = s.plan.epoch ∧
        t.census = s.census ∧ t.spares = s.spares ∧ t.site = s.site ∧ s.sameSpectrum t ∧ t.free = s.free ∧
        s.rests t [] ∧ s.ends t w.order v.verdict.1 v.verdict.2 (BitVec.ofNat 32 v.used) bytes ∧
        s.aloneWith t w.order v.verdict.1 bytes
    (∀ r n, e.exhausted = false → w.used < w.budget → s.channel e.item.channel = some r →
      s.evaluateFor r f w.strict = .pass n → (∀ i ∈ w.rest, i.walk.length = 0) →
      (w.bestEffort = false → w.rest = []) →
      let v := { w with
        used := w.used + 1, stack := { e with chosen := some f } :: w.stack.tail, rest := [], unplaced := given w.rest
        deepest := deepest }
      let bytes := fun q : State => pieces 240 8 (v.result true v.verdict.2 (half v.deepest) q.plan.epoch)
      ∃ t, exec .placeStep s = .next t.arbitrate ∧ s.searchEnded t v Hold.placed ∧ t.plan.epoch = s.plan.epoch + 1 ∧
        s.adds t (r.transmitter e.item.channel false f) ∧ s.rechecksAll t ∧ t.site = s.site ∧ s.sameSpectrum t ∧
        t.free = s.free ∧ s.rests t (s.allShort t) ∧
        s.ends t w.order v.verdict.1 v.verdict.2 (BitVec.ofNat 32 v.used) (bytes t) ∧
        (s.noticed t).aloneWith t w.order v.verdict.1 (bytes t)) ∧
    (e.exhausted = false → w.budget ≤ w.used → w.bestEffort = false →
      let bytes := fun q : State => pieces 240 8 (w.result false .budget (half w.deepest) q.plan.epoch)
      let x := w.stack.foldl State.clearTentative s
      ∃ t, exec .placeStep s = .next t.arbitrate ∧ s.searchEnded t w (fun _ => .defined) ∧
        t.plan.epoch = s.plan.epoch + BitVec.ofNat 32 w.placedCount ∧ t.census = x.census ∧ t.spares = x.spares ∧
        t.site = s.site ∧ s.sameSpectrum t ∧ t.free = s.free ∧
        s.rests t (if w.placedCount = 0 then [] else s.allShort t) ∧
        s.ends t w.order .failed .budget (BitVec.ofNat 32 w.used) (bytes t) ∧
        s.aloneWith t w.order .failed (bytes t)) ∧
    (e.exhausted = false → w.budget ≤ w.used → w.bestEffort = true →
      kept { w with stack := w.stack.tail, rest := [],
                    unplaced := w.unplaced ++ (e.item :: w.rest).map fun i => (i.channel, .budget) }) ∧
    (∀ r n, e.exhausted = false → w.used < w.budget → s.channel e.item.channel = some r →
      s.evaluateFor r f w.strict = .fail n → e.cursor + 1 = e.item.walk.length → w.bestEffort = false →
      (∀ x ∈ w.stack.tail, x.chosen.isSome = true ∧ x.item.walk.length ≤ x.cursor + 1) →
      let v := { w with used := w.used + 1 }
      let bytes := fun q : State => pieces 240 8 (v.result false .noCandidate (half w.deepest) q.plan.epoch)
      let x := w.stack.foldl State.clearTentative s
      ∃ t, exec .placeStep s = .next t.arbitrate ∧ s.searchEnded t w (fun _ => .defined) ∧
        t.plan.epoch = s.plan.epoch + BitVec.ofNat 32 w.placedCount ∧ t.census = x.census ∧ t.spares = x.spares ∧
        t.site = s.site ∧ s.sameSpectrum t ∧ t.free = s.free ∧
        s.rests t (if w.stack.tail = [] then [] else s.allShort t) ∧
        s.ends t w.order .failed .noCandidate (BitVec.ofNat 32 w.deepest) (bytes t) ∧
        s.aloneWith t w.order .failed (bytes t)) ∧
    (∀ r n, e.exhausted = false → w.used < w.budget → s.channel e.item.channel = some r →
      s.evaluateFor r f w.strict = .fail n → e.cursor + 1 = e.item.walk.length → w.bestEffort = true →
      (∀ i ∈ w.rest, i.walk.length = 0) → (∀ x ∈ w.stack.tail, x.chosen.isSome = true) →
      kept { w with used := w.used + 1, stack := w.stack.tail, rest := [], unplaced := given (e.item :: w.rest),
                    deepest := deepest }) ∧
    (e.exhausted = true → w.bestEffort = true → (∀ i ∈ w.rest, i.walk.length = 0) →
      (∀ x ∈ w.stack.tail, x.chosen.isSome = true) →
      kept { w with stack := w.stack.tail, rest := [], unplaced := given (e.item :: w.rest), deepest := deepest })

/-- PIN puts a DEFINED or PLACED channel on a frequency that passes, and with FORCE on one that fails C2 to C6 as well;
otherwise it is FAILED and the channel stands as before. A PLACED channel's old frequency is out of the plan while the new
one is judged (R54, R83, R84). A frequency that fails C1 is refused. The removal and the addition are plan changes, each of
which rechecks the spare lists, and UPKEEP is queued for the stages left short in ascending number (R21, R86, R88).
Where the manual leaves room it rests on the choices of notes/assumptions/31.md and notes/assumptions/36.md,
and on notes/assumptions/35.md for the order of the UPKEEP entries. -/
def Obligations.PinPlacesChannel : Prop :=
  ∀ (s : State) (u : Bool) (o : Handed) (c : Fin 256) (r : ChannelRecord), s.takes .pin u o →
    s.sentChannel o = some c → validStep (s.param o 2 2) = true → s.param o 4 1 < 4 → s.channel c = some r →
    r.mark = none →
    ((∃ g, r.hold = .tentative g ∨ r.hold = .live g ∨ (∃ k e, r.hold = .moving g k e) ∨ ∃ k, r.hold = .unresolved g k) →
      ∃ t, exec .pin s = .next t.arbitrate ∧ s.refuses t u o .state) ∧
    (r.hold = .defined ∨ (∃ g, r.hold = .placed g) →
      let f := s.param o 2 2
      let force := (s.param o 4 1).testBit 0
      let x := s.vacate c r
      let verdict := x.evaluateFor r f ((s.param o 4 1).testBit 1)
      let removals : Word := if r.hold = .defined then 0 else 1
      let bytes := fun (check forced : Byte) (score : Nat) =>
        half c.val ++ half f ++ stepField r.hold.primary ++ [check, forced] ++ half score
      (s.check1 (s.site.channelCandidate r f) = false →
        ∃ t, exec .pin s = .next t.arbitrate ∧ s.refuses t u o .badArgument) ∧
      (s.check1 (s.site.channelCandidate r f) = true → s.census.planesOk →
        ∃ t, exec .pin s = .next t.arbitrate ∧ s.othersKept t c ∧ t.site = s.site ∧ s.sameSpectrum t ∧ s.vacates x c r ∧
          t.free = s.free ∧
          (∀ n, verdict = .pass n →
            t.channel c = some { r with hold := .placed f } ∧ t.plan.epoch = s.plan.epoch + removals + 1 ∧
              x.adds t (r.transmitter c false f) ∧ x.rechecksAll t ∧ s.leaves t u (s.allShort t) ∧
              s.ends t o .done .none 0 [bytes 0#8 0#8 n] ∧ (s.noticed t).aloneWith t o .done [bytes 0#8 0#8 n]) ∧
          (∀ n, verdict = .fail n → force = true →
            t.channel c = some { r with hold := .placed f } ∧ t.plan.epoch = s.plan.epoch + removals + 1 ∧
              x.adds t (r.transmitter c false f) ∧ x.rechecksAll t ∧ s.leaves t u (s.allShort t) ∧
              s.ends t o .done .none 0 [bytes (byte n) 1#8 0] ∧
              (s.noticed t).aloneWith t o .done [bytes (byte n) 1#8 0]) ∧
          (∀ n, verdict = .fail n → force = false →
            t.channel c = some r ∧ t.plan.epoch = s.plan.epoch + removals + removals ∧
              (r.hold = .defined → s.samePlan t ∧ s.leaves t u []) ∧
              (∀ g, r.hold = .placed g →
                x.adds t (r.transmitter c false g) ∧ x.rechecksAll t ∧ s.leaves t u (s.allShort t)) ∧
              s.ends t o .failed .noCandidate 0 [bytes (byte n) 0#8 0] ∧
              (s.noticed t).aloneWith t o .failed [bytes (byte n) 0#8 0])))

/-! ### REPLACE, the auto-move and the spare lists -/

/-- The spare search takes the first spare of the list that passes. The full-range search takes the grid point with the
highest score, the lowest step among equals, and never the current frequency. The search of REPLACE tries the spares of the
channel's stage first, and the full range only when none of them passes and SPARES_ONLY is clear. Each candidate judged
counts as one evaluation: the spares up to the one taken; or all the spares, and then every grid point of the full range
but the current frequency (R96, R97).
Where the manual leaves room it rests on the choices of notes/assumptions/29.md. -/
def Obligations.ReplaceSearchPicksBest : Prop :=
  ∀ (s : State) (r : ChannelRecord) (current : Nat),
    (∀ l : List Spare,
      (∀ f n, (s.spareSearch r l).1 = some (f, n) ↔
        ∃ a x b, l = a ++ x :: b ∧ x.step = f ∧ s.evaluateFor r f false = .pass n ∧
          ∀ y ∈ a, ∃ k, s.evaluateFor r y.step false = .fail k) ∧
      ((s.spareSearch r l).1 = none ↔ ∀ y ∈ l, ∃ k, s.evaluateFor r y.step false = .fail k) ∧
      (∀ a x b n, l = a ++ x :: b → s.evaluateFor r x.step false = .pass n →
        (∀ y ∈ a, ∃ k, s.evaluateFor r y.step false = .fail k) → (s.spareSearch r l).2 = a.length + 1) ∧
      ((s.spareSearch r l).1 = none → (s.spareSearch r l).2 = l.length)) ∧
    (1 ≤ r.fields.multiple →
      let fs := s.fullRange r current
      fs.Pairwise (· < ·) ∧
      (∀ f, f ∈ fs ↔ f ≠ current ∧ f % r.fields.multiple = 0 ∧
        ∃ l h, r.fields.effective s.site.window = some (l, h) ∧ l ≤ f ∧ f ≤ h) ∧
      (∀ f n, s.bestOf r fs = some (f, n) ↔
        f ∈ fs ∧ s.evaluateFor r f false = .pass n ∧
          ∀ g ∈ fs, ∀ m, s.evaluateFor r g false = .pass m → m < n ∨ (m = n ∧ f ≤ g)) ∧
      (s.bestOf r fs = none ↔ ∀ g ∈ fs, ∃ k, s.evaluateFor r g false = .fail k)) ∧
    ∀ sparesOnly : Bool,
      let spares := s.spareSearch r s.spares[r.fields.stage]
      let fs := s.fullRange r current
      let found := s.search r current sparesOnly
      (∀ f n, spares.1 = some (f, n) → found = (some (f, n, true), spares.2)) ∧
      (spares.1 = none → sparesOnly = true → found = (none, spares.2)) ∧
      (spares.1 = none → sparesOnly = false →
        (∀ f n, s.bestOf r fs = some (f, n) → found.1 = some (f, n, false)) ∧
        (s.bestOf r fs = none → found.1 = none) ∧
        found.2 = (s.spares[r.fields.stage]).length + fs.length)

/-- REPLACE gives a LIVE channel the frequency its search finds as a move with its timer started, and a PLACED one as its
new primary; a spare that is used leaves its list before the recheck. When nothing is found the order is FAILED with
NO_CANDIDATE and the channel stands as before (R30, R95, R96). A PLACED channel's old frequency is out of the plan during the
search, a plan change. UPKEEP is queued for the stages left short, in ascending number over the whole event (R86, R88).
Where the manual leaves room it rests on the choices of notes/assumptions/3.md, notes/assumptions/31.md and
notes/assumptions/36.md,
and on notes/assumptions/35.md for the order of the UPKEEP entries. -/
def Obligations.ReplaceGivesFrequency : Prop :=
  ∀ (s : State) (u : Bool) (o : Handed) (c : Fin 256) (r : ChannelRecord) (g : Nat), s.takes .replace u o →
    s.sentChannel o = some c → s.param o 2 1 < 2 → s.channel c = some r → r.mark = none →
    r.hold = .placed g ∨ r.hold = .live g → s.census.planesOk →
    let x := s.vacate c r
    let found := x.search r g ((s.param o 2 1).testBit 0)
    let live : Bool := r.hold = .live g
    s.vacates x c r ∧
    (∀ f n spare, found.1 = some (f, n, spare) →
      let y : State := { x with
        spares := if spare then
            x.spares.set r.fields.stage ((x.spares[r.fields.stage]).eraseP fun k => k.step = f)
          else x.spares }
      let bytes := half c.val ++ half g ++ half f ++ half n ++ [flagByte spare] ++ List.replicate 3 0#8
        ++ word (BitVec.ofNat 32 found.2)
      ∃ t, exec .replace s = .next t.arbitrate ∧
        t.channel c = some { r with
          hold := if live then .moving f g (s.now + 1000 * s.site.params.moveWindow) else .placed f } ∧
        s.othersKept t c ∧ t.plan.epoch = s.plan.epoch + (if live then 1 else 2) ∧
        x.adds t (r.transmitter c false f) ∧ y.rechecksAll t ∧
        t.site = s.site ∧ s.sameSpectrum t ∧ s.leaves t u (s.allShort t) ∧ t.free = s.free ∧
        s.ends t o .done .none (BitVec.ofNat 32 found.2) [bytes] ∧ (s.noticed t).aloneWith t o .done [bytes]) ∧
    (found.1 = none →
      ∃ t score, score.length = 2 ∧ exec .replace s = .next t.arbitrate ∧ t.channel c = some r ∧ s.othersKept t c ∧
        t.plan.epoch = s.plan.epoch + (if live then 0 else 2) ∧ (live = true → s.samePlan t ∧ s.leaves t u []) ∧
        (live = false → x.adds t (r.transmitter c false g) ∧ x.rechecksAll t ∧ s.leaves t u (s.allShort t)) ∧
        t.site = s.site ∧ s.sameSpectrum t ∧ t.free = s.free + 1 ∧
        let bytes := half c.val ++ half g ++ half 0xFFFF ++ score ++ [0#8] ++ List.replicate 3 0#8
          ++ word (BitVec.ofNat 32 found.2)
        s.ends t o .failed .noCandidate (BitVec.ofNat 32 found.2) [bytes] ∧
          (s.noticed t).aloneWith t o .failed [bytes])

/-- An AUTO-MOVE entry runs the search of REPLACE on a channel that is still LIVE on the frequency that was hit, with AUTO
1: it makes the channel MOVING and marks MOVED, or marks NO_ALTERNATIVE, and a mark is an attempt to emit. Any other is
discarded (R99, R160). A spare that is taken leaves its list before the recheck of the plan change, and UPKEEP is queued for
the stages left short in ascending number (R86, R88, R96).
Where the manual leaves room it rests on the choices of notes/assumptions/31.md,
and on notes/assumptions/35.md for the order of the UPKEEP entries. -/
def Obligations.AutoMoveReplacesOrDiscards : Prop :=
  ∀ (s : State) (c : Fin 256) (g : Nat), s.arbiter = some (.takeUrgent (.autoMove c g)) → s.census.planesOk →
    (s.hold c ≠ some (.live g) ∨ s.port.auto = false →
      ∃ t, exec .autoMove s = .next t.arbitrate ∧ s.sameModel t ∧ s.samePort t ∧ t.reports = s.reports ∧ t.free = s.free ∧
        t.engine = s.engine.after true) ∧
    (∀ r, s.channel c = some r → r.hold = .live g → s.port.auto = true →
      let found := s.search r g false
      ∃ t, exec .autoMove s = .next t.arbitrate ∧ s.othersKept t c ∧ t.site = s.site ∧ s.sameSpectrum t ∧
        s.reportsOnly t ∧ t.free = s.free ∧
        let marked := fun flag => State.marks { t with port := s.portFor t, reports := s.reports } t (.channel c) flag
        (∀ f n spare, found.1 = some (f, n, spare) →
          let y : State := { s with
            spares := if spare then
                s.spares.set r.fields.stage ((s.spares[r.fields.stage]).eraseP fun k => k.step = f)
              else s.spares }
          t.channel c = some { r with hold := .moving f g (s.now + 1000 * s.site.params.moveWindow) } ∧
            t.plan.epoch = s.plan.epoch + 1 ∧ s.adds t (r.transmitter c false f) ∧ y.rechecksAll t ∧
            s.leaves t true (s.allShort t) ∧ marked movedFlag ∧ (s.heldBack → t.flagged (.channel c) movedFlag)) ∧
        (found.1 = none → s.samePlan t ∧ s.leaves t true [] ∧ marked noAlternativeFlag ∧
          (s.heldBack → t.flagged (.channel c) noAlternativeFlag)))

/-- A recheck takes a list from the top down. It keeps a spare that passes C2, C4, C5 and C6 for the stage's profile and
stands at the spacing of the profile from every spare kept above it, and drops any other; a list whose spares pass and
stand apart stays as it is (R86). An UPKEEP entry is discarded for a list at its target or an UNDEFINED stage; otherwise
it begins with the grid of the spare profile (R89). A step ranks one grid point or fills with one ranked candidate: one
too close to a spare, on one, or in a segment that is hit is passed over, and one that passes joins the list (R90). Work
that ends below the target marks SPARES_SHORT (R91). A fill step that begins with its ranking used up, or with the list at
its target, changes no list.
Where the manual leaves room it rests on the choices of notes/assumptions/22.md and notes/assumptions/31.md, and on
notes/assumptions/42.md for the one step without an evaluation in which an UPKEEP with no grid point ends. -/
def Obligations.UpkeepFillsSpares : Prop :=
  (∀ (s : State) (b : Fin 8),
    (s.site.stages[b] = none → s.rechecked b = s.spares[b]) ∧
    (∀ r, s.site.stages[b] = some r →
      let passes := fun (kept : List Spare) (x : Spare) =>
        let c := s.site.spareCandidate b r x.step
        let set := s.plan.transmitters
        s.check2 c = true ∧ s.check4 c set = true ∧ s.check5 c set [] = true ∧ s.check6 c set = true ∧
          ∀ y ∈ kept, 2 * r.bandwidth.halfWidth + s.site.params.margin ≤ distance y.step x.step
      ∃ kept : Nat → List Spare, kept 0 = [] ∧ s.rechecked b = kept (s.spares[b]).length ∧
        ∀ i x, (s.spares[b])[i]? = some x →
          (passes (kept i) x → kept (i + 1) = kept i ++ [x]) ∧ (¬ passes (kept i) x → kept (i + 1) = kept i)) ∧
    (s.sparesPass → s.sparesApart → s.rechecked b = s.spares[b])) ∧
  (∀ (s : State) (b : Fin 8), s.arbiter = some (.takeRoutine (.upkeep b)) →
    ∃ t, exec .upkeep s = .next t.arbitrate ∧ s.sameModel t ∧ s.samePort t ∧ t.reports = s.reports ∧ t.free = s.free ∧
      (s.site.target b ≤ (s.spares[b]).length → t.engine = { s.engine with routine := s.engine.routine.tail }) ∧
      ∀ r, s.site.stages[b] = some r → (s.spares[b]).length < r.target →
        s.starts t (.upkeep { stage := b, epoch := s.plan.epoch,
                              grid := gridOf r.multiple (s.site.window.clip r.low r.high), position := 0, ranking := [],
                              evaluations := 0 })) ∧
  ∀ (s : State) (w : UpkeepWork) (r : StageRecord), s.runs (.upkeep w) → s.site.stages[w.stage] = some r →
    ∃ (t : State) (v : UpkeepWork), exec .upkeepStep s = .next t.arbitrate ∧ t.site = s.site ∧ t.plan = s.plan ∧
      t.census = s.census ∧ s.sameSpectrum t ∧ t.free = s.free ∧ s.reportsOnly t ∧
      (∀ b, b ≠ w.stage → t.spares[b] = s.spares[b]) ∧
      (w.position < w.grid.count →
        let f := w.grid.at w.position
        t.spares = s.spares ∧ v.position = w.position + 1 ∧ v.evaluations = w.evaluations + 1 ∧
          (∀ n, s.evaluateSpare w.stage r f = .pass n → v.ranking.Perm ({ step := f, score := n } :: w.ranking) ∧
            (w.ranking.Pairwise Spare.above → (∀ x ∈ w.ranking, x.step ≠ f) → v.ranking.Pairwise Spare.above)) ∧
          (∀ n, s.evaluateSpare w.stage r f = .fail n → v.ranking = w.ranking)) ∧
      (∀ x l, w.grid.count ≤ w.position → w.ranking = x :: l → (s.spares[w.stage]).length < r.target →
        let close : Bool := (s.spares[w.stage]).any fun y =>
          y.step = x.step || decide (distance y.step x.step < 2 * r.bandwidth.halfWidth + s.site.params.margin)
        v.position = w.position ∧ v.ranking = l ∧
          (close = true ∨ s.inHitSegment r x.step = true → t.spares = s.spares ∧ v.evaluations = w.evaluations) ∧
          (close = false → s.inHitSegment r x.step = false → v.evaluations = w.evaluations + 1 ∧
            (∀ n, s.evaluateSpare w.stage r x.step = .pass n →
              (t.spares[w.stage]).Perm ({ step := x.step, score := n } :: s.spares[w.stage])) ∧
            (∀ n, s.evaluateSpare w.stage r x.step = .fail n → t.spares = s.spares))) ∧
      (w.grid.count ≤ w.position → w.ranking = [] ∨ r.target ≤ (s.spares[w.stage]).length →
        t.spares = s.spares ∧ v = w) ∧
      v.stage = w.stage ∧ v.grid = w.grid ∧ v.epoch = w.epoch ∧
      let ended := w.grid.count ≤ v.position ∧ (v.ranking = [] ∨ r.target ≤ (t.spares[w.stage]).length)
      (¬ ended → s.samePort t ∧ t.reports = s.reports ∧ s.yields t (.upkeep v) []) ∧
      (ended → s.rests t [] ∧
        (r.target ≤ (t.spares[w.stage]).length → s.samePort t ∧ t.reports = s.reports) ∧
        ((t.spares[w.stage]).length < r.target →
          State.marks { s with spares := t.spares } t (.stage w.stage) sparesShortFlag ∧
            (s.heldBack → t.flagged (.stage w.stage) sparesShortFlag)))

/-- REFILL SPARES empties the lists of the DEFINED stages it names under FLUSH, and begins with the lowest DEFINED stage
below its target; a DEFINED stage it passes over at its target counts as done with no evaluation (R92). A step does what a
step of UPKEEP does for that stage. When the stage is done the lowest stage of the mask behind it that is below its target
follows, begun afresh from its own grid, and after the last the order is DONE, or PARTIAL with NO_CANDIDATE if a stage ended
short (R93). A stage that ends short is marked SPARES_SHORT, the last one before the delivery (R91).
Where the manual leaves room it rests on the choices of notes/assumptions/3.md, notes/assumptions/18.md,
notes/assumptions/22.md, notes/assumptions/31.md and notes/assumptions/36.md, and on notes/assumptions/42.md for the event
in which a stage with no grid point ends, in which the next stage is found and the ones at their target are passed over, and
in which an order with no stage below its target is delivered. -/
def Obligations.RefillWorksStages : Prop :=
  (∀ (s : State) (o : Handed), s.takes .refillSpares false o → BitVec.ofNat 8 (s.param o 0 1) ≠ 0 →
    s.param o 1 1 < 2 →
    ∃ t w, exec .refillSpares s = .next t.arbitrate ∧ s.starts t (.refill w) ∧ w.order = o ∧
      w.mask = BitVec.ofNat 8 (s.param o 0 1) ∧ t.site = s.site ∧ t.plan = s.plan ∧ t.census = s.census ∧
      s.sameSpectrum t ∧ s.takenIn t o ∧ t.reports = s.reports ∧ t.free = s.free ∧
      (∀ b : Fin 8, t.spares[b] =
        if s.param o 1 1 = 1 ∧ w.mask.getLsbD b = true ∧ (s.site.stages[b]).isSome = true then [] else s.spares[b]) ∧
      let short := fun b : Fin 8 => w.mask.getLsbD b = true ∧ (t.spares[b]).length < s.site.target b
      (w.current = none → (∀ b : Fin 8, ¬ short b) ∧ w.rest = [] ∧
        w.finished = s.passedStages (stagesOf w.mask)) ∧
      ∀ v, w.current = some v →
        short v.stage ∧ (∀ b, b < v.stage → ¬ short b) ∧ s.beginsStage v ∧
          w.rest = (stagesOf w.mask).filter (fun b => v.stage < b) ∧
          w.finished = s.passedStages ((stagesOf w.mask).filter fun b => b < v.stage)) ∧
  (∀ (s : State) (w : RefillWork) (v : UpkeepWork), s.runs (.refill w) → w.current = some v →
    let x := s.upkeepUnit v
    let short := fun b : Fin 8 => (x.1.spares[b]).length < s.site.target b
    let last : RefillResult := { stage := v.stage, evaluations := x.2.evaluations, short := !x.1.atTarget v.stage }
    ∃ t, exec .refillSparesStep s = .next t.arbitrate ∧ t.site = s.site ∧ t.plan = s.plan ∧ t.census = s.census ∧
      t.spares = x.1.spares ∧ s.sameSpectrum t ∧
      (x.1.upkeepOver x.2 = false → s.samePort t ∧ t.reports = s.reports ∧ t.free = s.free ∧
        s.yields t (.refill { w with current := some x.2 }) []) ∧
      (∀ l b l', x.1.upkeepOver x.2 = true → w.rest = l ++ b :: l' → short b → (∀ a ∈ l, ¬ short a) →
        s.reportsOnly t ∧ t.free = s.free ∧
        (x.1.atTarget v.stage = true → s.samePort t ∧ t.reports = s.reports) ∧
        (x.1.atTarget v.stage = false →
          State.marks { s with spares := t.spares } t (.stage v.stage) sparesShortFlag ∧
            (s.heldBack → t.flagged (.stage v.stage) sparesShortFlag)) ∧
        ∃ u, u.stage = b ∧ s.beginsStage u ∧
          s.yields t (.refill { w with
            current := some u, rest := l', finished := w.finished ++ [last] ++ s.passedStages l }) []) ∧
      (x.1.upkeepOver x.2 = true → (∀ b ∈ w.rest, ¬ short b) →
        s.rests t [] ∧ t.free = s.free + 8 ∧
          let bytes := (stagesOf w.mask).flatMap
            (x.1.refillRecord { w with current := none, finished := w.finished ++ [last] })
          let short : Bool := w.finished.any RefillResult.short || !x.1.atTarget v.stage
          let total := (w.finished.map RefillResult.evaluations).sum + x.2.evaluations
          let ended : State := { s with spares := x.1.spares }
          let marked := if x.1.atTarget v.stage then ended else ended.mark (.stage v.stage) sparesShortFlag
          s.ends t w.order (if short then .part else .done) (if short then .noCandidate else .none)
            (BitVec.ofNat 32 total) [bytes] ∧
          marked.aloneWith t w.order (if short then .part else .done) [bytes] ∧
          (x.1.atTarget v.stage = false → s.heldBack → t.flagged (.stage v.stage) sparesShortFlag))) ∧
  ∀ (s : State) (w : RefillWork), s.runs (.refill w) → w.current = none →
    let short := w.finished.any RefillResult.short
    let bytes := (stagesOf w.mask).flatMap (s.refillRecord w)
    ∃ t, exec .refillSparesStep s = .next t.arbitrate ∧ s.sameModel t ∧ s.rests t [] ∧ t.free = s.free + 8 ∧
      s.ends t w.order (if short then .part else .done) (if short then .noCandidate else .none)
        (BitVec.ofNat 32 (w.finished.map RefillResult.evaluations).sum) [bytes] ∧
      s.aloneWith t w.order (if short then .part else .done) [bytes]

/-! ### Reads, zones, links and the Watch -/

/-- READ CHANNELS, READ CENSUS and READ SPARES deliver the records they name as far as the chain holds them: ten channels,
112 counts in the first cell and 120 in each further one, three stages. Where some are left over the order is PARTIAL with
SHORT, and the argument says where to go on (R34, R51, R94). They change nothing else.
Where the manual leaves room it rests on the choices of notes/assumptions/3.md, notes/assumptions/16.md,
notes/assumptions/31.md, notes/assumptions/36.md and, for a READ CHANNELS of more than 256 channels,
notes/assumptions/34.md. -/
def Obligations.TableReadsDeliver : Prop :=
  ∀ (s : State) (u : Bool) (o : Handed),
    (s.takes .readChannels u o → s.param o 0 2 ≤ 255 → 1 ≤ s.param o 2 2 →
      let cs := (List.finRange 256).filter fun c =>
        decide (s.param o 0 2 ≤ c.val ∧ c.val < s.param o 0 2 + s.param o 2 2) &&
          (!(s.param o 4 1).testBit 0 || (s.channel c).isSome)
      let fit := 10 * o.length
      let n := ((cs[fit]?).map Fin.val).getD cs.length
      ∃ (t : State) (entry : Fin 256 → List Byte), exec .readChannels s = .next t.arbitrate ∧
        (∀ c r, s.channel c = some r → entry c = s.recordEntry c r) ∧
        (∀ c, s.channel c = none → ∃ priority flags, entry c = vacantEntry c priority flags) ∧
        s.reads t u o (shortOutcome (fit < cs.length)).1 (shortOutcome (fit < cs.length)).2
          (BitVec.ofNat 32 (n + 65536 * (s.plan.epoch.toNat % 65536)))
          (pieces 240 8 ((cs.take fit).flatMap entry)) 512) ∧
    (∀ (b : Fin 8) (fifth : Bool), s.takes .readCensus u o → s.param o 0 1 = b.val →
      s.param o 1 1 = (if fifth then 5 else 3) → 1 ≤ s.param o 4 2 → s.site.window.has (s.param o 2 2) = true →
      let start := s.param o 2 2
      let span := min (s.param o 4 2) (s.site.window.w0 + s.site.window.width - start)
      let n := min span (112 + 120 * o.rest.length)
      let short : Bool := n < span
      ∃ t, exec .readCensus s = .next t.arbitrate ∧
        s.reads t u o (shortOutcome short).1 (shortOutcome short).2
          (BitVec.ofNat 32 (if short then start + n else n))
          (pieces 240 8
            ([byte b.val, if fifth then 5#8 else 3#8] ++ half start ++ half n
              ++ [byte s.census.state.code, byte s.census.cause.code] ++ word s.plan.epoch ++ word s.site.generation
              ++ (List.range n).flatMap fun i => half (s.census.count (b, fifth, start + i)))) 0) ∧
    (s.takes .readSpares u o → BitVec.ofNat 8 (s.param o 0 1) ≠ 0 →
      let bs := stagesOf (BitVec.ofNat 8 (s.param o 0 1))
      let fit := 3 * o.length
      let n := ((bs[fit]?).map Fin.val).getD bs.length
      ∃ t, exec .readSpares s = .next t.arbitrate ∧
        s.reads t u o (shortOutcome (fit < bs.length)).1 (shortOutcome (fit < bs.length)).2 (BitVec.ofNat 32 n)
          (pieces 216 8 ((bs.take fit).flatMap s.spareBlock)) 64)

/-- READ SPECTRUM delivers the settled code and the class of the bins it names, READ LINKS a block for each zone it names,
READ WATCH the segment records of a zone with the number of those that hit. READ LINKS with its option clears the five
counts of the links after reading them; nothing else changes (R116, R117, R130).
Where the manual leaves room it rests on the choices of notes/assumptions/3.md, notes/assumptions/31.md and
notes/assumptions/36.md, and on notes/assumptions/40.md for the bits of a READ LINKS mask that name no zone. -/
def Obligations.ZoneReadsDeliver : Prop :=
  ∀ (s : State) (u : Bool) (o : Handed),
    (∀ z : Fin 4, s.takes .readSpectrum u o → s.param o 0 1 = z.val → 1 ≤ s.param o 4 2 →
      s.site.window.has (s.param o 2 2) = true →
      let start := s.param o 2 2
      let zone := s.zones[z]
      let span := min (s.param o 4 2) (s.site.window.w0 + s.site.window.width - start)
      let n := min span (112 + 120 * o.rest.length)
      let short : Bool := n < span
      ∃ t, exec .readSpectrum s = .next t.arbitrate ∧
        s.reads t u o (shortOutcome short).1 (shortOutcome short).2
          (BitVec.ofNat 32 (if short then start + n else n))
          (pieces 240 8
            ([byte z.val, byte zone.freshness.code] ++ half start ++ half n
              ++ [byte zone.settings.floor, byte zone.settings.clearOffset, byte zone.settings.occupiedOffset,
                  byte zone.settings.period, byte zone.goodSweeps] ++ List.replicate 5 0#8
              ++ (List.range n).flatMap fun i =>
                let b := sparseGet Bin.cleared zone.map (start + i)
                [byte b.settled, byte (zone.settings.classOf b).code])) 0) ∧
    (s.takes .readLinks u o → zonesOf (s.param o 0 1) ≠ [] →
      let zs := zonesOf (s.param o 0 1)
      let clears := (s.param o 1 1).testBit 0
      ∃ t, exec .readLinks s = .next t.arbitrate ∧ s.samePlan t ∧ t.zones = s.zones ∧ t.engine = s.engine.after u ∧
        t.free = s.free + 4 ∧
        (∀ z : Fin 4, t.links[z] =
          if clears = true ∧ z ∈ zs then
            { s.links[z] with crcErrors := 0, formatErrors := 0, abandoned := 0, damaged := 0, stray := 0 }
          else s.links[z]) ∧
        s.ends t o .done .none (BitVec.ofNat 32 zs.length) [zs.flatMap s.linkBlock] ∧
        s.aloneWith t o .done [zs.flatMap s.linkBlock]) ∧
    (∀ z : Fin 4, s.takes .readWatch u o → s.param o 0 1 = z.val →
      ∃ t, exec .readWatch s = .next t.arbitrate ∧
        s.reads t u o .done .none (BitVec.ofNat 32 (s.zones[z].segments.toList.countP Segment.hit)) [s.watchResult z]
          128)

/-- The reads and the orders on zones are refused with BAD_ARGUMENT when they name no stage, plane, zone, bin, segment,
mode or step that exists, or nothing at all, and PROBE with LINK_BUSY while a probe waits on its link (R34, R51, R94, R113,
R114, R116, R117, R128 to R130).
Where the manual leaves room it rests on the choices of notes/assumptions/31.md. -/
def Obligations.ReadAndZoneOrdersRefused : Prop :=
  ∀ (s : State) (u : Bool) (o : Handed),
    (s.takes .readChannels u o → 255 < s.param o 0 2 ∨ s.param o 2 2 = 0 →
      ∃ t, exec .readChannels s = .next t.arbitrate ∧ s.refuses t u o .badArgument) ∧
    (s.takes .readCensus u o → 7 < s.param o 0 1 ∨ (s.param o 1 1 ≠ 3 ∧ s.param o 1 1 ≠ 5) ∨ s.param o 4 2 = 0 ∨
        s.site.window.has (s.param o 2 2) = false →
      ∃ t, exec .readCensus s = .next t.arbitrate ∧ s.refuses t u o .badArgument) ∧
    (s.takes .readSpares u o → s.param o 0 1 = 0 →
      ∃ t, exec .readSpares s = .next t.arbitrate ∧ s.refuses t u o .badArgument) ∧
    (s.takes .readSpectrum u o → 3 < s.param o 0 1 ∨ s.param o 4 2 = 0 ∨
        s.site.window.has (s.param o 2 2) = false →
      ∃ t, exec .readSpectrum s = .next t.arbitrate ∧ s.refuses t u o .badArgument) ∧
    (s.takes .readLinks u o → s.param o 0 1 % 16 = 0 →
      ∃ t, exec .readLinks s = .next t.arbitrate ∧ s.refuses t u o .badArgument) ∧
    (s.takes .readWatch u o → 3 < s.param o 0 1 →
      ∃ t, exec .readWatch s = .next t.arbitrate ∧ s.refuses t u o .badArgument) ∧
    (s.takes .setZone u o → 3 < s.param o 0 1 ∨ 1 < s.param o 6 1 →
      ∃ t, exec .setZone s = .next t.arbitrate ∧ s.refuses t u o .badArgument) ∧
    (s.takes .probe u o → 3 < s.param o 0 1 ∨ validStep (s.param o 2 2) = false →
      ∃ t, exec .probe s = .next t.arbitrate ∧ s.refuses t u o .badArgument) ∧
    (∀ z : Fin 4, s.takes .probe u o → s.param o 0 1 = z.val → validStep (s.param o 2 2) = true →
      (s.links[z].slot).isSome = true → ∃ t, exec .probe s = .next t.arbitrate ∧ s.refuses t u o .linkBusy) ∧
    (s.takes .armWatch u o → 3 < s.param o 0 1 ∨ s.param o 4 8 = 0 →
      ∃ t, exec .armWatch s = .next t.arbitrate ∧ s.refuses t u o .badArgument) ∧
    (s.takes .forceHit u o → 3 < s.param o 0 1 ∨ 63 < s.param o 1 1 →
      ∃ t, exec .forceHit s = .next t.arbitrate ∧ s.refuses t u o .badArgument) ∧
    (∀ j : Fin 64, s.takes .forceHit u o → s.param o 1 1 = j.val → s.site.window.top < s.site.window.segmentLow j →
      ∃ t, exec .forceHit s = .next t.arbitrate ∧ s.refuses t u o .badArgument)

/-- SET ZONE stores the settings of a zone after their clamps, abandons a sweep in progress, restarts the integration
period, leaves freshness alone, and has the next period end set references; a change to FREE_RUN clears the frozen flags
(R105, R113, R124, R125).
Where the manual leaves room it rests on the choices of notes/assumptions/31.md and notes/assumptions/36.md. -/
def Obligations.SetZoneStoresSettings : Prop :=
  ∀ (s : State) (u : Bool) (o : Handed) (z : Fin 4) (mode : WatchMode), s.takes .setZone u o → s.mapsOk →
    s.param o 0 1 = z.val → watchModeOf (s.param o 6 1) = some mode →
    let sent : Int := if s.param o 7 1 < 128 then s.param o 7 1 else (s.param o 7 1 : Int) - 256
    let clear := min 118 (s.param o 2 1)
    let settings : ZoneSettings :=
      { floor := s.param o 1 1
        clearOffset := clear
        occupiedOffset := min 120 (max (clear + 2) (s.param o 3 1))
        period := min 16 (max 1 (s.param o 4 1))
        threshold := min 120 (max 2 (s.param o 5 1))
        mode := mode
        hostMask := BitVec.ofNat 64 (s.param o 8 8)
        correction := min 63 (max (-64) sent) }
    let marks := bitAt 0 (settings.clearOffset ≠ s.param o 2 1) + bitAt 1 (settings.occupiedOffset ≠ s.param o 3 1)
      + bitAt 2 (settings.period ≠ s.param o 4 1) + bitAt 3 (settings.threshold ≠ s.param o 5 1)
      + bitAt 4 (settings.correction ≠ sent)
    let bytes := [byte z.val, byte settings.floor, byte settings.clearOffset, byte settings.occupiedOffset,
      byte settings.period, byte settings.threshold, byte mode.code, signedByte settings.correction]
        ++ maskBytes settings.hostMask ++ [byte marks]
    ∃ t, exec .setZone s = .next t.arbitrate ∧ t.zones[z].settings = settings ∧ t.zones[z].goodSweeps = 0 ∧
      t.zones[z].referencePending = true ∧ t.zones[z].freshness = s.zones[z].freshness ∧
      (∀ n, sparseGet Bin.cleared t.zones[z].map n =
        { sparseGet Bin.cleared s.zones[z].map n with sum := 0, samples := 0 }) ∧
      (∀ j : Fin 64, t.zones[z].segments[j] =
        if s.zones[z].settings.mode = .latching ∧ mode = .freeRun then
          { s.zones[z].segments[j] with frozen := false }
        else s.zones[z].segments[j]) ∧
      (s.links[z].sweep = none → t.links[z] = s.links[z]) ∧
      (s.links[z].sweep ≠ none →
        t.links[z] = { s.links[z] with sweep := none, abandoned := min (s.links[z].abandoned + 1) 255 }) ∧
      s.otherZonesKept t z ∧ s.samePlan t ∧ t.engine = s.engine.after u ∧ t.free = s.free ∧
      s.ends t o .done .none 0 [bytes] ∧ s.aloneWith t o .done [bytes]

/-- PROBE on a free link sends a request with the next probe id and waits in the link's slot for its answer, 250 ms at
most; its context becomes IDLE and its cells stay ACTIVE (R114). A PROBE ANSWER with the id that waits delivers the probe
DONE with its level; any other counts as stray. Either is a valid frame (R103, R115). At the deadline the probe is
delivered FAILED with NO_ANSWER.
Where the manual leaves room it rests on the choices of notes/assumptions/5.md, notes/assumptions/31.md and
notes/assumptions/36.md. That a frame command leaves the receiver HUNTING is the choice of notes/assumptions/23.md. -/
def Obligations.ProbeWaitsAndEnds : Prop :=
  (∀ (s : State) (u : Bool) (o : Handed) (z : Fin 4), s.takes .probe u o → s.param o 0 1 = z.val →
     validStep (s.param o 2 2) = true → s.links[z].slot = none →
     let probeId := s.links[z].probeCounter + 1
     ∃ t, exec .probe s = .next t.arbitrate ∧
       t.links[z] = { s.links[z] with
         probeCounter := probeId
         slot := some { order := o, probeId := probeId, step := s.param o 2 2, threshold := s.param o 1 1,
                        deadline := s.now + 250 }
         sent := frameBytes 0x02#8
           (probeId :: high (BitVec.ofInt 16 ((s.param o 2 2 : Int) - s.zones[z].settings.correction))) } ∧
       (∀ y : Fin 4, y ≠ z → t.links[y] = s.links[y]) ∧ t.zones = s.zones ∧ s.samePlan t ∧ s.takenIn t o ∧
       t.engine = s.engine.after u ∧ t.reports = s.reports ∧ t.free = s.free ∧ t.now = s.now ∧ t.pending = s.pending) ∧
  (∀ (s : State) (z : Fin 4),
     (∀ (w : ProbeWork) (level : Byte), s.ordersOk → s.memoryOk → s.links[z].slot = some w →
       let bytes := [byte z.val, w.probeId] ++ half w.step ++ [level, flagByte (w.threshold ≤ level.toNat)]
       ∃ t, exec (.probeAnswer z w.probeId level) s = .next t.arbitrate ∧ s.frameTaken t z ∧
         t.links[z] = { s.links[z] with
           slot := none, lastValid := some s.now, good := s.links[z].good + 1, receiver := [] } ∧
         s.otherZonesKept t z ∧ s.samePlan t ∧ t.engine = s.engine ∧ t.free = s.free ∧
         s.ends t w.order .done .none 0 [bytes] ∧ s.aloneWith t w.order .done [bytes]) ∧
     (∀ probeId level, (∀ w, s.links[z].slot = some w → w.probeId ≠ probeId) →
       ∃ t, exec (.probeAnswer z probeId level) s = .next t.arbitrate ∧ s.frameTaken t z ∧
         t.links[z] = { s.links[z] with
           stray := min (s.links[z].stray + 1) 255, lastValid := some s.now, good := s.links[z].good + 1,
           receiver := [] } ∧
         s.otherZonesKept t z ∧ s.samePlan t ∧ s.samePort t ∧ t.engine = s.engine ∧ t.reports = s.reports ∧
         t.free = s.free ∧ t.now = s.now ∧ t.pending = s.pending) ∧
     (∀ w : ProbeWork, s.ordersOk → s.memoryOk → s.links[z].slot = some w →
       let r : State := { s with now := max s.now w.deadline }
       let bytes := [byte z.val, w.probeId] ++ half w.step ++ [0#8, 0#8]
       ∃ t, exec (.probeDeadline z) s = .next t.arbitrate ∧ t.links[z] = { s.links[z] with slot := none } ∧
         s.otherZonesKept t z ∧ t.zones = s.zones ∧ s.samePlan t ∧ t.engine = s.engine ∧ t.free = s.free ∧
         r.ends t w.order .failed .noAnswer 0 [bytes] ∧ r.aloneWith t w.order .failed [bytes]))

/-- ARM WATCH clears the reference, the hit flag and the frozen flag of the segments it names that hold a bin (R128).
FORCE HIT sets the hit flag of one segment, and under LATCHING its frozen flag, and routes the hit with a rise of 0. Routing
marks HIT, with the segment and the rise, for each channel that is PLACED, LIVE, MOVING or UNRESOLVED at a stage bound to
the zone with a bin of a held frequency in the segment, in ascending number. It queues an AUTO-MOVE entry for each of them
that is LIVE, with AUTO, the stage's and the channel's permission and none queued. It drops the spares with a bin in the
segment of the stages bound to the zone, and queues UPKEEP for those of these stages left short (R87, R88, R98, R127, R129,
R159).
Where the manual leaves room it rests on the choices of notes/assumptions/21.md, notes/assumptions/31.md,
notes/assumptions/35.md and notes/assumptions/36.md. -/
def Obligations.ArmWatchAndForceHit : Prop :=
  (∀ (s : State) (z : Fin 4) (j : Fin 64),
    let w := s.site.window
    let reaches := fun (f halfWidth : Nat) =>
      ∃ n, w.w0 ≤ n ∧ n ≤ w.top ∧ w.segmentLow j ≤ n ∧ n ≤ w.segmentHigh j ∧ f ≤ n + halfWidth ∧ n ≤ f + halfWidth
    (∀ c r, (c, r) ∈ s.hitChannels z j ↔
      s.channel c = some r ∧ r.hold ≠ .defined ∧ (∀ f, r.hold ≠ .tentative f) ∧
        s.site.zoneOf r.fields.stage = some z ∧ ∃ f ∈ r.hold.frequencies, reaches f.2 r.halfWidth) ∧
    (s.hitChannels z j).Pairwise (fun x y => x.1 < y.1) ∧
    (∀ e, e ∈ s.hitMoves z j ↔ ∃ c r f, (c, r) ∈ s.hitChannels z j ∧ r.hold = .live f ∧ s.port.auto = true ∧
      (∃ p, s.site.stages[r.fields.stage] = some p ∧ p.autoMove = true) ∧ r.fields.autoMove = true ∧
        (∀ g, Entry.autoMove c g ∉ s.engine.urgent) ∧ e = .autoMove c f) ∧
    (s.hitMoves z j).Pairwise (fun x y => ∀ c f d g, x = .autoMove c f → y = .autoMove d g → c < d) ∧
    (∀ (b : Fin 8) (x : Spare), x ∈ s.hitSpares z j b ↔
      x ∈ s.spares[b] ∧ ∃ p, s.site.stages[b] = some p ∧ p.zone = some z ∧ reaches x.step p.bandwidth.halfWidth) ∧
    ∀ rise : Nat,
      let t := s.routeHit z j rise
      let marked := (s.hitChannels z j).foldl
        (fun q e => q.mark (.channel e.1) hitFlag (some (j.val, rise))) s
      t = { s with port := t.port, reports := t.reports, engine := t.engine, spares := t.spares } ∧
        t.port = marked.port ∧ t.reports = marked.reports ∧
        (∀ b : Fin 8, t.spares[b] = (s.spares[b]).filter fun x => !(s.hitSpares z j b).contains x) ∧
        t.engine = { s.engine with
          urgent := s.engine.urgent ++ s.hitMoves z j
          routine := s.engine.routine ++ (allStages.filter fun b =>
            decide (s.site.zoneOf b = some z) && decide ((t.spares[b]).length < s.site.target b) &&
              !s.engine.routine.contains (.upkeep b) && !s.engine.upkeepActive b).map Entry.upkeep }) ∧
  ∀ (s : State) (u : Bool) (o : Handed) (z : Fin 4), s.param o 0 1 = z.val →
    (s.takes .armWatch u o → s.param o 4 8 ≠ 0 →
      let named := fun j : Fin 64 => (BitVec.ofNat 64 (s.param o 4 8)).getLsbD j && s.site.window.segmentFull j
      let bytes := fun q : State =>
        [byte (allSegments.countP fun j => named j && (s.zones[z].segments[j]).hit), byte q.zones[z].summary]
      ∃ t, exec .armWatch s = .next t.arbitrate ∧
        (∀ j : Fin 64, t.zones[z].segments[j] =
          if named j then { s.zones[z].segments[j] with reference := none, hit := false, frozen := false }
          else s.zones[z].segments[j]) ∧
        t.zones[z] = { s.zones[z] with segments := t.zones[z].segments } ∧ t.links = s.links ∧
        (∀ y : Fin 4, y ≠ z → t.zones[y] = s.zones[y]) ∧ s.samePlan t ∧ t.engine = s.engine.after u ∧
        t.free = s.free ∧ s.ends t o .done .none 0 [bytes t] ∧ s.aloneWith t o .done [bytes t]) ∧
    (∀ j : Fin 64, s.takes .forceHit u o → s.param o 1 1 = j.val → s.site.window.segmentFull j = true →
      let bytes := half (s.hitChannels z j).length ++ half (s.hitMoves z j).length
        ++ half (allStages.flatMap fun b => s.hitSpares z j b).length
      ∃ t, exec .forceHit s = .next t.arbitrate ∧
        (∀ i : Fin 64, i ≠ j → t.zones[z].segments[i] = s.zones[z].segments[i]) ∧
        t.zones[z].segments[j] = { s.zones[z].segments[j] with
          hit := true
          frozen := (s.zones[z].segments[j]).frozen || decide (s.zones[z].settings.mode = .latching) } ∧
        t.zones[z] = { s.zones[z] with segments := t.zones[z].segments } ∧ t.links = s.links ∧
        (∀ y : Fin 4, y ≠ z → t.zones[y] = s.zones[y]) ∧ t.site = s.site ∧ t.plan = s.plan ∧ t.census = s.census ∧
        (∀ b : Fin 8, t.spares[b] = (s.spares[b]).filter fun x => !(s.hitSpares z j b).contains x) ∧
        t.engine = { s.engine.after u with
          urgent := (s.engine.after u).urgent ++ s.hitMoves z j
          routine := (s.engine.after u).routine ++ s.shortEntries t fun b => decide (s.site.zoneOf b = some z) } ∧
        t.free = s.free ∧
        (s.heldBack → o.quiet = false → ∀ e ∈ s.hitChannels z j, ∃ q ∈ t.reports.pending,
          q.subject = .channel e.1 ∧ q.flags &&& hitFlag = hitFlag ∧ q.hit = some (j.val, 0)) ∧
        s.ends t o .done .none 0 [bytes] ∧
        let taken : State := { s with port := s.port.setCells o.cells .active }
        ((s.hitChannels z j).foldl (fun x e => x.mark (.channel e.1) hitFlag (some (j.val, 0))) taken).aloneWith t o
          .done [bytes])

/-- At a period end a segment that holds a bin takes the highest settled code of its seen bins. A segment that is not
selected loses its reference, a frozen one keeps it, and one with references pending takes the new code. Otherwise a code
that rose by the threshold or more to the presence level hits, and the code becomes the reference; a hit freezes the
segment under LATCHING. In FREE_RUN a segment that did not hit loses its hit flag (R122, R123, R125). That one which is frozen and
not selected loses its reference is the choice of notes/assumptions/44.md. -/
def Obligations.PeriodEndComparesSegments : Prop :=
  (∀ (z : Zone) (w : Window) (j : Fin 64), sparseOk Bin.cleared z.map = true →
    let bin := fun n => sparseGet Bin.cleared z.map n
    let seen := fun n => w.segmentLow j ≤ n ∧ n ≤ w.segmentHigh j ∧ (bin n).seen = true
    (z.newCode w j = none ↔ ∀ n, ¬ seen n) ∧
    ∀ k, z.newCode w j = some k ↔ (∃ n, seen n ∧ (bin n).settled = k) ∧ ∀ n, seen n → (bin n).settled ≤ k) ∧
  (∀ (g : Segment) (mode : WatchMode) (rise : Option Nat),
    (mode = .freeRun → rise = none → g.afterMode mode rise = { g with hit := false }) ∧
      (mode = .latching ∨ rise ≠ none → g.afterMode mode rise = g)) ∧
  ∀ (g : Segment) (z : ZoneSettings) (selected pending : Bool) (code : Option Nat),
    let x := g.periodEnd z selected pending code
    x.1.last = (code.or g.last) ∧
    (selected = false → x.1.reference = none ∧ x.1.hit = g.hit ∧ x.1.frozen = g.frozen ∧ x.2 = none) ∧
    (selected = true → g.frozen = true →
      x.1.reference = g.reference ∧ x.1.hit = g.hit ∧ x.1.frozen = true ∧ x.2 = none) ∧
    (selected = true → g.frozen = false → pending = true →
      x.1.reference = code ∧ x.1.hit = g.hit ∧ x.1.frozen = false ∧ x.2 = none) ∧
    (selected = true → g.frozen = false → pending = false →
      (code = none → x.1.reference = g.reference ∧ x.1.hit = g.hit ∧ x.1.frozen = false ∧ x.2 = none) ∧
      (∀ c, code = some c → x.1.reference = some c ∧
        (g.reference = none → x.1.hit = g.hit ∧ x.1.frozen = false ∧ x.2 = none) ∧
        ∀ r, g.reference = some r →
          (z.threshold + r ≤ c ∧ z.floor + z.clearOffset ≤ c →
            x.1.hit = true ∧ x.1.frozen = decide (z.mode = .latching) ∧ x.2 = some (c - r)) ∧
          (c < z.threshold + r ∨ c < z.floor + z.clearOffset →
            x.1.hit = g.hit ∧ x.1.frozen = false ∧ x.2 = none)))

/-- A SWEEP frame is a valid frame, and joins the sweep in progress: it begins one, goes on with its own number behind the
last step covered, damages it when it overlaps, and abandons a sweep of another number (R103 to R105). On LAST a damaged
sweep is discarded, and a good one adds its levels to the bins of the window they cover and counts in the period (R106,
R110). The last good sweep of a period ends it: the bins settle, a WARMING zone becomes FRESH and is marked so, each
segment is compared, and then its hits are routed in ascending segment number, each with its rise (R111, R122, R127). UPKEEP
is queued for the stages of the zone left short, in ascending number however many segments have hit (R87, R88).
Where the manual leaves room it rests on the choices of notes/assumptions/23.md, notes/assumptions/31.md and
notes/assumptions/35.md. -/
def Obligations.SweepAssemblesAndEnds : Prop :=
  ∀ (s : State) (z : Fin 4) (number first : Half) (stride flags : Byte) (levels : List Byte),
    strideOk stride = true → levelCountOk levels = true → s.mapsOk →
    let l := s.links[z]
    let f : Int := first.toNat + s.zones[z].settings.correction
    let last : Int := f + levels.length * stride.toNat - 1
    let kept := keptLevels f stride.toNat levels
    let begun : SweepWork := { number := number, last := last, damaged := false, buffer := kept }
    let next : SweepWork :=
      match l.sweep with
      | none => begun
      | some w =>
        if w.number ≠ number then begun
        else if w.last < f then { w with last := last, buffer := w.buffer ++ kept }
        else { w with damaged := true }
    let lost : Bool := (l.sweep.map fun w => decide (w.number ≠ number)).getD false
    let link : Link := { l with
      lastValid := some s.now
      good := l.good + 1
      receiver := []
      abandoned := if lost then min (l.abandoned + 1) 255 else l.abandoned }
    let warm : Bool := s.zones[z].freshness = .silent ∨ s.zones[z].freshness = .stale
    ∃ t, exec (.sweep z number first stride flags levels) s = .next t.arbitrate ∧ t.site = s.site ∧ t.plan = s.plan ∧
      t.census = s.census ∧ s.otherZonesKept t z ∧ t.free = s.free ∧ t.now = s.now ∧ t.pending = s.pending ∧
      s.reportsOnly t ∧ t.zones[z].settings = s.zones[z].settings ∧
      (flags.getLsbD 0 = false → t.links[z] = { link with sweep := some next } ∧ s.frameTaken t z ∧ s.samePort t ∧
        t.spares = s.spares ∧ t.engine = s.engine ∧ t.reports = s.reports) ∧
      (flags.getLsbD 0 = true → next.damaged = true →
        t.links[z] = { link with sweep := none, damaged := min (l.damaged + 1) 255 } ∧ s.frameTaken t z ∧ s.samePort t ∧
        t.spares = s.spares ∧ t.engine = s.engine ∧ t.reports = s.reports) ∧
      (flags.getLsbD 0 = true → next.damaged = false → t.links[z] = { link with sweep := none } ∧
        let covering := fun n : Nat => next.buffer.filter fun k => decide (k.first ≤ (n : Int) ∧ (n : Int) < k.first + k.stride)
        let sum := fun n : Nat => ((covering n).map SweepLevel.level).sum
        let bin := fun n => sparseGet Bin.cleared s.zones[z].map n
        (s.zones[z].goodSweeps + 1 < s.zones[z].settings.period →
          t.zones[z].goodSweeps = s.zones[z].goodSweeps + 1 ∧ t.zones[z].segments = s.zones[z].segments ∧
          (warm = true → t.zones[z].freshness = .warming ∧ t.zones[z].referencePending = true) ∧
          (warm = false → t.zones[z].freshness = s.zones[z].freshness ∧
            t.zones[z].referencePending = s.zones[z].referencePending) ∧
          (∀ n, sparseGet Bin.cleared t.zones[z].map n =
            if s.site.window.has n then
              { bin n with sum := (bin n).sum + sum n, samples := (bin n).samples + (covering n).length }
            else bin n) ∧
          s.samePort t ∧ t.spares = s.spares ∧ t.engine = s.engine ∧ t.reports = s.reports) ∧
        (s.zones[z].settings.period ≤ s.zones[z].goodSweeps + 1 →
          t.zones[z].goodSweeps = 0 ∧ t.zones[z].referencePending = false ∧ t.zones[z].freshness = .fresh ∧
          (∀ n, s.site.window.has n = true →
            let total := (bin n).samples + (covering n).length
            sparseGet Bin.cleared t.zones[z].map n =
              if total = 0 then { bin n with sum := 0 }
              else { settled := ((bin n).sum + sum n) / total, sum := 0, samples := 0, seen := true }) ∧
          (∀ j : Fin 64, s.site.window.segmentFull j = true →
            let x := (s.zones[z].segments[j]).periodEnd s.zones[z].settings (s.selected z j)
              (warm || s.zones[z].referencePending) (t.zones[z].newCode s.site.window j)
            t.zones[z].segments[j] = x.1.afterMode s.zones[z].settings.mode x.2) ∧
          (let hits : List (Fin 64 × Nat) := allSegments.filterMap fun j =>
              if s.site.window.segmentFull j then
                ((s.zones[z].segments[j]).periodEnd s.zones[z].settings (s.selected z j)
                  (warm || s.zones[z].referencePending) (t.zones[z].newCode s.site.window j)).2.map fun rise => (j, rise)
              else none
            let settled : State := { s with links := t.links, zones := t.zones }
            let freshened := if s.zones[z].freshness = .fresh then settled else settled.mark (.zone z) freshFlag
            let routed := hits.foldl (fun q h => q.routeHit z h.1 h.2) freshened
            t.engine = { s.engine with
              urgent := routed.engine.urgent
              routine := s.engine.routine ++
                if hits = [] then [] else s.shortEntries t fun b => decide (s.site.zoneOf b = some z) } ∧
            t.spares = routed.spares ∧ t.reports = routed.reports ∧
              t.port = { routed.port with header := t.port.header, line := t.port.line }) ∧
          (∃ m n : List Entry, (∀ e ∈ m ++ n, e.isInternal = true) ∧
            t.engine = { s.engine with urgent := s.engine.urgent ++ m, routine := s.engine.routine ++ n }) ∧
          (s.heldBack → s.zones[z].freshness ≠ .fresh → t.flagged (.zone z) freshFlag)))

/-- An IDLE frame is a valid frame and nothing more (R103). A frame that fails its CRC, or its length, type or content
check, counts as an error and damages the sweep in progress (R102, R107). The link timeout of a WARMING or FRESH zone makes
it STALE and marks STALE, abandons the sweep in progress and restarts the integration period; settled codes stay (R105,
R109).
The receiver of a link hunts for 0x9B followed at once by 0x64 and passes over any other byte. Inside a frame it takes each
byte. A length of 0 or above 1,100, a type the scanner does not send and a length that its type does not allow are format
errors, after which the hunt goes on at the byte after the sync pair. A complete frame whose CRC does not match is a CRC
error; one whose CRC matches brings about its event, a SWEEP with a level count that disagrees with the length a format
error; the hunt then goes on behind it. Until the frame is complete nothing happens (R102, R166). With no command waiting and
nothing due, a step takes one byte of the first line that holds one and runs the event it brings about.
Where the manual leaves room it rests on the choices of notes/assumptions/4.md, notes/assumptions/5.md and
notes/assumptions/23.md. -/
def Obligations.IdleErrorsAndTimeout : Prop :=
  ((∀ b : Byte, feed [] b = if b = 0x9B#8 then [b] else []) ∧
    (∀ b : Byte, feed [0x9B#8] b =
      if b = 0x64#8 then [0x9B#8, 0x64#8] else if b = 0x9B#8 then [b] else []) ∧
    ∀ (a c b : Byte) (l : List Byte), feed (a :: c :: l) b = a :: c :: l ++ [b]) ∧
  (∀ (z : Fin 4) (a b c d : Byte) (l : List Byte),
    let n := 256 * a.toNat + b.toNat
    let start := [0x9B#8, 0x64#8, a, b]
    let allowed := (c = 0x01#8 ∧ 10 ≤ n ∧ n ≤ 1033) ∨ (c = 0x03#8 ∧ n = 3) ∨ (c = 0x04#8 ∧ n = 1)
    let more := c :: l
    (n = 0 ∨ 1100 < n → receive z start = (some (.formatError z), [a, b].foldl feed [])) ∧
    (1 ≤ n → n ≤ 1100 → receive z start = (none, start)) ∧
    (1 ≤ n → n ≤ 1100 → ¬ allowed → receive z (start ++ [c]) = (some (.formatError z), [a, b, c].foldl feed [])) ∧
    (allowed → l.length + 1 < n + 2 → receive z (start ++ c :: l) = (none, start ++ c :: l)) ∧
    (allowed → l.length + 1 = n + 2 →
      (high (crc ([a, b] ++ more.take n)) ≠ more.drop n → receive z (start ++ c :: l) = (some (.crcError z), [])) ∧
      (high (crc ([a, b] ++ more.take n)) = more.drop n → ∃ e, e ≠ .crcError z ∧
        receive z (start ++ c :: l) = (some e, [])))) ∧
  (∀ (z : Fin 4) (number first : Half) (stride flags probeId level : Byte) (count : Half) (levels : List Byte),
    let sweep := frameBytes 0x01#8 (high number ++ high first ++ [stride, flags] ++ high count ++ levels)
    let answer := frameBytes 0x03#8 [probeId, level]
    let idle := frameBytes 0x04#8 []
    (1 ≤ levels.length → levels.length ≤ 1024 → sweep.foldl feed [] = sweep ∧
      (count.toNat = levels.length → receive z sweep = (some (.sweep z number first stride flags levels), [])) ∧
      (count.toNat ≠ levels.length → receive z sweep = (some (.formatError z), []))) ∧
    answer.foldl feed [] = answer ∧ receive z answer = (some (.probeAnswer z probeId level), []) ∧
    idle.foldl feed [] = idle ∧ receive z idle = (some (.idle z), [])) ∧
  (∀ (s : State) (z : Fin 4) (b : Byte) (rest : List Byte), s.pending = [] → s.due = none →
    s.links[z].line = b :: rest → (∀ y : Fin 4, y < z → s.links[y].line = []) →
    let x := receive z (feed s.links[z].receiver b)
    let took : State := s.onLink z fun l => { l with receiver := feed l.receiver b, line := rest }
    (x.1 = none → step s = .next took) ∧
    ∀ c t, x.1 = some c → exec c took = .next t →
      step s = .next (t.onLink z fun l => { l with receiver := x.2 })) ∧
  (∀ (s : State) (z : Fin 4),
     (∃ t, exec (.idle z) s = .next t ∧ s.frameTaken t z ∧
       t.links[z] = { s.links[z] with lastValid := some s.now, good := s.links[z].good + 1, receiver := [] } ∧
       s.otherZonesKept t z ∧ s.samePlan t ∧ s.samePort t ∧ t.engine = s.engine ∧ t.reports = s.reports ∧
       t.free = s.free ∧ t.now = s.now ∧ t.pending = s.pending) ∧
     let hurt := s.links[z].sweep.map fun w => { w with damaged := true }
     let kept := fun t : State =>
       (∀ y : Fin 4, y ≠ z → t.links[y] = s.links[y]) ∧ t.zones = s.zones ∧ s.samePlan t ∧ s.samePort t ∧
         t.engine = s.engine ∧ t.reports = s.reports ∧ t.free = s.free ∧ t.now = s.now ∧ t.pending = s.pending
     (∃ t, exec (.crcError z) s = .next t ∧ kept t ∧
       t.links[z] = { s.links[z] with
         sweep := hurt, receiver := [], crcErrors := min (s.links[z].crcErrors + 1) 255 }) ∧
     (∃ t, exec (.formatError z) s = .next t ∧ kept t ∧
       t.links[z] = { s.links[z] with
         sweep := hurt, receiver := [], formatErrors := min (s.links[z].formatErrors + 1) 255 }) ∧
     ∀ number first stride flags levels, strideOk stride = false ∨ levelCountOk levels = false →
       ∃ t, exec (.sweep z number first stride flags levels) s = .next t ∧ kept t ∧
         t.links[z] = { s.links[z] with
           sweep := hurt, receiver := [], formatErrors := min (s.links[z].formatErrors + 1) 255 }) ∧
  (∀ (s : State) (z : Fin 4) (v : Nat), s.zones[z].freshness = .warming ∨ s.zones[z].freshness = .fresh →
     s.links[z].lastValid = some v → s.mapsOk →
     ∃ t, exec (.linkTimeout z) s = .next t ∧ t.now = max s.now (v + s.site.params.linkTimeout) ∧
       State.marks { s with links := t.links, zones := t.zones, now := t.now } t (.zone z) staleFlag ∧
       t.zones[z].freshness = .stale ∧ t.zones[z].goodSweeps = 0 ∧ t.zones[z].settings = s.zones[z].settings ∧
       t.zones[z].segments = s.zones[z].segments ∧ t.zones[z].referencePending = s.zones[z].referencePending ∧
       (∀ n, sparseGet Bin.cleared t.zones[z].map n =
         { sparseGet Bin.cleared s.zones[z].map n with sum := 0, samples := 0 }) ∧
       (s.links[z].sweep = none → t.links[z] = s.links[z]) ∧
       (s.links[z].sweep ≠ none →
         t.links[z] = { s.links[z] with sweep := none, abandoned := min (s.links[z].abandoned + 1) 255 }) ∧
       s.otherZonesKept t z ∧ s.samePlan t ∧ s.reportsOnly t ∧ t.engine = s.engine ∧ t.free = s.free ∧
       t.pending = s.pending ∧ (s.heldBack → t.flagged (.zone z) staleFlag))

/-! ### CANCEL, resumption, the exchange and the resets -/

/-- CANCEL takes a queued order off its list, stops a suspended one or ends a waiting probe, and delivers it CANCELLED:
its entry goes to the out list, or to the backlog, before that of the CANCEL itself, which ends DONE (R142, R151, R152). A
suspended PLACE is rolled back, and a suspended REBUILD CENSUS leaves the census STALE with the cause ABANDONED and raises
CENSUS (R42, R50, R66, R81, R93, R115, R142). A target that is none of these is NOT_FOUND, and a number that is no pool cell or is the order's
own is BAD_ARGUMENT (R141).
Where the manual leaves room it rests on the choices of notes/assumptions/18.md, notes/assumptions/19.md,
notes/assumptions/20.md, notes/assumptions/31.md and notes/assumptions/36.md,
and on notes/assumptions/35.md for the order of the UPKEEP entries. -/
def Obligations.CancelStopsTarget : Prop :=
  ∀ (s : State) (u : Bool) (o : Handed), s.takes .cancel u o →
    let n := s.param o 0 2
    let ended := fun (t : State) (p : Handed) (argument : Word) (payloads : List (List Byte)) =>
      exec .cancel s = .next t.arbitrate ∧ p.written t.port .cancelled .none argument payloads ∧
        (∃ q : State, p.delivered q.port .cancelled .none argument payloads ∧
          s.port.announces q.port p.announcement ∧ q.reports = s.reports ∧
          (∀ c, c ∉ o.cells → c ∉ p.cells → q.port.cell c = s.port.cell c) ∧
          (∀ a, ¬ p.stored payloads a → q.port.memory.read a = s.port.memory.read a) ∧
          q.port.raw ||| outBit = (s.portFor t).raw ||| outBit ∧ q.aloneWith t o .done [[]]) ∧
        (o.quiet = true → o.freed t.port) ∧ (o.quiet = false → o.delivered t.port .done .none 0 [[]]) ∧
        (∀ c, c ∉ o.cells → c ∉ p.cells → s.port.cell c ≠ some .free → t.port.cell c = s.port.cell c) ∧
        (∀ a, a / 256 ∉ o.cells → a / 256 ∉ p.cells → s.port.cell (a / 256) ≠ some .free →
          t.port.memory.read a = s.port.memory.read a) ∧
        s.sameSwitches t ∧ t.site = s.site ∧ t.zones = s.zones
    (n < 9 ∨ 511 < n ∨ n = o.head → ∃ t, exec .cancel s = .next t.arbitrate ∧ s.refuses t u o .badArgument) ∧
    (9 ≤ n → n ≤ 511 → (∀ p ∈ s.waiting ++ s.working, p.head ≠ n) →
      ∃ t, exec .cancel s = .next t.arbitrate ∧ s.refuses t u o .notFound) ∧
    (∀ p ∈ s.waiting, n ≠ o.head → p.head = n →
      ∃ t, ended t p 0 [] ∧ s.samePlan t ∧ t.links = s.links ∧ t.free = s.free ∧
        t.engine = { s.engine.after u with
          urgent := (s.engine.after u).urgent.filter fun e => !e.headed n
          routine := (s.engine.after u).routine.filter fun e => !e.headed n }) ∧
    (∀ z w, n ≠ o.head → s.links[(z : Fin 4)].slot = some w → w.order.head = n →
      ∃ t, ended t w.order 0 [[byte z.val, w.probeId] ++ half w.step ++ [0#8, 0#8]] ∧ s.samePlan t ∧
        t.links[z] = { s.links[z] with slot := none } ∧ (∀ y : Fin 4, y ≠ z → t.links[y] = s.links[y]) ∧
        t.free = s.free ∧ t.engine = s.engine.after u) ∧
    (∀ w p, n ≠ o.head → s.engine.routineContext = .suspended w → w.order = some p → p.head = n →
      let idles := fun (t : State) (l : List Entry) =>
        t.engine = { s.engine.after u with
          routine := (s.engine.after u).routine ++ l
          routineContext := .idle }
      (∀ x, w = .place x → (∀ e ∈ x.stack, (s.channel e.item.channel).isSome = true) →
        ∃ t, ended t p (BitVec.ofNat 32 x.used)
            (pieces 240 8 (PlaceWork.result { x with unplaced := [] } false .none (half x.deepest) t.plan.epoch)) ∧
          s.searchEnded t x (fun _ => .defined) ∧ t.plan.epoch = s.plan.epoch + BitVec.ofNat 32 x.placedCount ∧
          t.census = (x.stack.foldl State.clearTentative s).census ∧
          t.spares = (x.stack.foldl State.clearTentative s).spares ∧ t.links = s.links ∧ t.free = s.free ∧
          idles t (if x.placedCount = 0 then [] else s.allShort t)) ∧
      (∀ x, w = .check x →
        ∃ t, ended t p (BitVec.ofNat 32 x.evaluations)
            (pieces 240 8 ((x.judged.flatMap fun e => half e.1 ++ half e.2) ++
              x.todo.flatMap fun e => half e.2 ++ half 0xA000)) ∧
          s.samePlan t ∧ t.links = s.links ∧ t.free = s.free ∧ idles t []) ∧
      (∀ x, w = .rebuild x →
        ∃ t, ended t p 0
            [half x.added ++ half x.marked.length ++ word x.restarts ++ [1#8, 3#8] ++ half 0 ++ word x.epoch
              ++ word x.generation] ∧
          t.census = { s.census with state := .stale, cause := .abandoned } ∧ t.plan = s.plan ∧ t.spares = s.spares ∧
          (s.census.state ≠ .stale → t.port.raw &&& censusBit = censusBit) ∧
          t.links = s.links ∧ t.free = s.free ∧ idles t []) ∧
      (∀ x, w = .refill x →
        ∃ t, ended t p (BitVec.ofNat 32 x.evaluations) [(stagesOf x.mask).flatMap (s.refillRecord x)] ∧
          s.samePlan t ∧ t.links = s.links ∧ t.free = s.free + 8 ∧ idles t []))

/-- A suspended entry that resumes runs again where it stood. A REBUILD that finds the plan epoch or the model generation
changed starts again from the clear, and counts the restart; the work on a spare list that finds the epoch changed starts
again from its rank phase (R46, R91, R137). The evaluations that a restarted REFILL SPARES keeps rest on
notes/assumptions/18.md, the counts that a restarted REBUILD sets to 0 on
notes/assumptions/19.md, and the width of its count of restarts on notes/assumptions/38.md. -/
def Obligations.ResumptionGoesOn : Prop :=
  ∀ (s : State) (w : Work), s.arbiter = some (.resume w) →
    let back := fun (t : State) (v : Work) =>
      exec .resumption s = .next t ∧ t.engine = { s.engine with routineContext := .running v } ∧ t.site = s.site ∧
        t.plan = s.plan ∧ t.spares = s.spares ∧ s.sameSpectrum t ∧ s.samePort t ∧ t.reports = s.reports ∧
        t.free = s.free ∧ t.now = s.now ∧ t.pending = s.pending
    let anew := fun v : UpkeepWork => match s.site.stages[v.stage] with
      | some r => if s.plan.epoch = v.epoch then v else
          { v with epoch := s.plan.epoch, grid := gridOf r.multiple (s.site.window.clip r.low r.high), position := 0,
                   ranking := [] }
      | none => v
    ((∃ x, w = .place x) ∨ (∃ x, w = .check x) → ∃ t, back t w ∧ t.census = s.census) ∧
    (∀ x, w = .rebuild x → s.plan.epoch = x.epoch → s.site.generation = x.generation →
      ∃ t, back t w ∧ t.census = s.census) ∧
    (∀ x, w = .rebuild x → s.plan.epoch ≠ x.epoch ∨ s.site.generation ≠ x.generation →
      ∃ t, back t (.rebuild { order := x.order, epoch := s.plan.epoch, generation := s.site.generation,
                              restarts := x.restarts + 1, phase := .add, position := 0, added := 0, marked := [] }) ∧
        t.census = { state := .rebuilding, cause := s.census.cause, plane3 := Vector.replicate 8 [],
                     plane5 := Vector.replicate 8 [] }) ∧
    (∀ x, w = .upkeep x → ∃ t, back t (.upkeep (anew x)) ∧ t.census = s.census) ∧
    (∀ x, w = .refill x → ∃ t, back t (.refill { x with current := x.current.map anew }) ∧ t.census = s.census)

/-- A read of CLAIM outside a reset takes the lowest FREE cell, which becomes HELD, and returns its number; with no cell
FREE or in a reset it returns 0xFFFF and changes nothing (R148). GIVE of a HELD or DELIVERED cell makes it FREE, ends the
life of its out-list entry, writes held deliveries out as far as it can, and then makes one attempt to emit (R150, R152,
R160). GIVE of any other number, or in a reset, and a write to ID or CLAIM raise FAULT and nothing else (R150, R154).
Where the manual leaves room it rests on the choices of notes/assumptions/13.md. -/
def Obligations.ClaimGiveAndMisuse : Prop :=
  (∀ s : State,
     (∀ c, s.port.reset = none → s.port.cell c = some .free → (∀ d, d < c → s.port.cell d ≠ some .free) →
       ∃ t, exec .claim s = .next t ∧ t.port.readData = BitVec.ofNat 32 c ∧
         (∀ d, t.port.cell d = if d = c then some .held else s.port.cell d) ∧
         t.port = { s.port with cells := t.port.cells, readData := t.port.readData, header := t.port.header,
                                line := t.port.line } ∧
         s.onlyPort t) ∧
     (s.port.reset ≠ none ∨ (∀ d, s.port.cell d ≠ some .free) →
       ∃ t, exec .claim s = .next t ∧
         t.port = { s.port with readData := 0xFFFF#32, header := t.port.header, line := t.port.line } ∧ s.onlyPort t)) ∧
  (∀ (s : State) (v : Word),
     let n := v.toNat % 65536
     let faults := fun t : State => s.onlyPort t ∧
       t.port = { s.port with raw := s.port.raw ||| faultBit, header := t.port.header, line := t.port.line }
     (s.port.reset = none → s.port.hostSide n = true →
       ∃ t, exec (.give v) s = .next t ∧ s.sameModel t ∧ t.engine = s.engine ∧ t.free = s.free ∧ s.sameSwitches t ∧
         (∃ x : State, x = { s with port := x.port } ∧ x.tries t ∧ x.port.memory = s.port.memory ∧
           (∀ c, x.port.cell c = if c = n then some .free else s.port.cell c) ∧
           (s.memoryOk → s.port.drains x.port [n])) ∧
         (∀ c, c ≠ n → s.port.cell c ≠ some .free → t.port.cell c = s.port.cell c) ∧
         (s.memoryOk → ∀ c, c = n ∨ s.port.cell c = some .free → t.port.cell c = some .free ∨ t.port.reportIn c) ∧
         (s.memoryOk → ∀ a, a / 256 ≠ n → s.port.cell (a / 256) ≠ some .free →
           t.port.memory.read a = s.port.memory.read a) ∧
         (s.reports.pending = [] → t.reports = s.reports ∧ t.port.memory = s.port.memory ∧
           (∀ c, t.port.cell c = if c = n then some .free else s.port.cell c) ∧
           (s.port.backlog = [] → t.port.backlog = [] ∧ t.port.raw = s.port.raw ∧ t.port.outTotal = s.port.outTotal ∧
             ∀ i, let x := sparseGet OutSlot.zero s.port.outList i
               let named : Bool := (x.entry.map fun a => decide (a.cell = n)).getD false
               sparseGet OutSlot.zero t.port.outList i = { x with live := x.live && !named }))) ∧
     (s.port.reset ≠ none ∨ s.port.hostSide n = false → ∃ t, exec (.give v) s = .next t ∧ faults t) ∧
     ∀ register, ∃ t, exec (.fault register v) s = .next t ∧ faults t)

/-- What a chain has to be for a handing to pass its checks: the head and the cells linked behind it, each HELD or
DELIVERED, all different, 8 at most, a code of the catalogue, and urgent only where the code permits it (R139, R149). The
chain and the code are checked before the class: one that breaks either is MALFORMED, whatever its class. -/
def Obligations.HandChecksChain : Prop :=
  ∀ (p : Port) (n : Nat), p.hostSide n = true →
    let sound := fun l : List Nat =>
      l.head? = some n ∧ l.Nodup ∧ l.length ≤ 8 ∧ (∀ c ∈ l, p.hostSide c = true) ∧
        ∀ i c, l[i]? = some c → p.headField c 4 2 = (l[i + 1]?).getD 0xFFFF
    (∀ o, p.handed n = .ok o →
      o.head = n ∧ sound o.cells ∧
        Machine.orderOf (p.headField n 6 1) = some o.code ∧ o.urgent = (p.headField n 7 1).testBit 0 ∧
        o.quiet = (p.headField n 7 1).testBit 1 ∧ (o.urgent = true → o.code.urgentPermitted = true)) ∧
    (∀ r, p.handed n = .error r → r = .malformed ∨ r = .wrongClass) ∧
    (p.handed n = .error .wrongClass ↔
      (∃ l, sound l) ∧ (p.headField n 7 1).testBit 0 = true ∧
        ∃ code, Machine.orderOf (p.headField n 6 1) = some code ∧ code.urgentPermitted = false) ∧
    ((¬ ∃ l, sound l) → p.handed n = .error .malformed) ∧
    (Machine.orderOf (p.headField n 6 1) = none → p.handed n = .error .malformed) ∧
    (∀ l, sound l →
      ∀ code, Machine.orderOf (p.headField n 6 1) = some code →
        ((p.headField n 7 1).testBit 0 = true → code.urgentPermitted = true) →
        ∃ o, p.handed n = .ok o ∧ o.cells = l)

/-- HAND of a chain that passes its checks makes its cells QUEUED and puts the order at the end of the list of its class;
the out-list entries that named its cells are live no longer, and held deliveries are written out as far as they can be. A
chain that fails has its head alone delivered REFUSED. In either case the arbiter acts then (R134). A number that names no
cell the host holds, or any number in a reset, raises FAULT and nothing else (R132, R149, R152, R154).
Where the manual leaves room it rests on the choices of notes/assumptions/13.md, notes/assumptions/14.md,
notes/assumptions/31.md and notes/assumptions/36.md. -/
def Obligations.HandQueuesOrder : Prop :=
  ∀ (s : State) (v : Word),
    let n := v.toNat % 65536
    (∀ o, s.port.reset = none → s.port.hostSide n = true → s.port.handed n = .ok o →
      ∃ t, exec (.hand v) s = .next t.arbitrate ∧ (s.memoryOk → s.port.drains t.port o.cells) ∧
        (∀ c, t.port.cell c = if c ∈ o.cells then some .queued else s.port.cell c) ∧
        t.port.memory = s.port.memory ∧ s.sameSwitches t ∧
        t.engine = (if o.urgent then { s.engine with urgent := s.engine.urgent ++ [.order o] }
          else { s.engine with routine := s.engine.routine ++ [.order o] }) ∧
        s.sameModel t ∧ t.reports = s.reports ∧ t.free = s.free ∧
        (s.port.backlog = [] → t.port.backlog = [] ∧ t.port.raw = s.port.raw ∧ t.port.outTotal = s.port.outTotal ∧
          ∀ i, let x := sparseGet OutSlot.zero s.port.outList i
            let named : Bool := (x.entry.map fun a => o.cells.contains a.cell).getD false
            sparseGet OutSlot.zero t.port.outList i = { x with live := x.live && !named })) ∧
    (∀ r code, s.port.reset = none → s.port.hostSide n = true → s.port.handed n = .error r → s.memoryOk →
      let o : Handed := { head := n, rest := [], code := code, urgent := (s.port.headField n 7 1).testBit 0,
                          quiet := false }
      ∃ t q, exec (.hand v) s = .next t.arbitrate ∧ s.ends t o .refused r 0 [] ∧ s.port.drains q [n] ∧
        State.aloneWith { s with port := { s.port with
          outList := q.outList, outTotal := q.outTotal, backlog := q.backlog, raw := q.raw } } t o .refused [] ∧
        s.sameModel t ∧ t.engine = s.engine ∧ t.free = s.free) ∧
    (s.port.reset ≠ none ∨ s.port.hostSide n = false →
      ∃ t, exec (.hand v) s = .next t ∧ s.onlyPort t ∧
        t.port = { s.port with raw := s.port.raw ||| faultBit, header := t.port.header, line := t.port.line })

/-- NOTE clears the raw flags written 1, NOTE_ON sets the enables written 1 and NOTE_OFF clears them; the other bits stay,
and the notice line follows (R154, R167). A CTL write that asks for no reset stores RUN and AUTO outside a reset, on which the
arbiter acts in the same event (R138). It raises FAULT alone in a soft or exchange reset, and changes nothing in a power-on
reset (R155).
Where the manual leaves room it rests on the choices of notes/assumptions/10.md, notes/assumptions/11.md,
notes/assumptions/12.md and notes/assumptions/31.md. -/
def Obligations.NoticeAndControlRegisters : Prop :=
  (∀ (s : State) (v : Word),
     let line := fun t : State => decide (∃ i : Fin 5, t.port.raw.getLsbD i = true ∧ t.port.enables.getLsbD i = true)
     (∃ t, exec (.note v) s = .next t ∧ s.onlyPort t ∧ t.port.line = line t ∧
       t.port = { s.port with raw := t.port.raw, header := t.port.header, line := t.port.line } ∧
       ∀ i : Fin 5, t.port.raw.getLsbD i = (s.port.raw.getLsbD i && !v.getLsbD i)) ∧
     (∃ t, exec (.noteOn v) s = .next t ∧ s.onlyPort t ∧ t.port.line = line t ∧
       t.port = { s.port with enables := t.port.enables, header := t.port.header, line := t.port.line } ∧
       ∀ i : Fin 5, t.port.enables.getLsbD i = (s.port.enables.getLsbD i || v.getLsbD i)) ∧
     (∃ t, exec (.noteOff v) s = .next t ∧ s.onlyPort t ∧ t.port.line = line t ∧
       t.port = { s.port with enables := t.port.enables, header := t.port.header, line := t.port.line } ∧
       ∀ i : Fin 5, t.port.enables.getLsbD i = (s.port.enables.getLsbD i && !v.getLsbD i))) ∧
  (∀ (s : State) (run auto : Bool) (c : Instr), c = .ctlRun run auto ∨ c = .ctlAuto run auto →
     (s.port.reset = none → ∃ t, exec c s = .next t.arbitrate ∧ s.onlyPort t ∧
       t.port = { s.port with run := run, auto := auto, header := t.port.header, line := t.port.line }) ∧
     (∀ r, s.port.reset = some r → r.kind ≠ .powerOn → ∃ t, exec c s = .next t ∧ s.onlyPort t ∧
       t.port = { s.port with raw := s.port.raw ||| faultBit, header := t.port.header, line := t.port.line }) ∧
     (∀ r, s.port.reset = some r → r.kind = .powerOn → ∃ t, exec c s = .next t ∧ s.onlyPort t ∧ s.samePort t))

/-- A soft reset clears the plan, the census, the spares, the links, the zones but for their settings, the engine and the
pending set, frees the QUEUED and ACTIVE cells and drops the backlog; the site model, exchange memory and the notices stay
until it ends (R35, R52, R100, R118, R131, R144, R156, R164). Asked for in a soft reset it raises FAULT. The last frame
sent on a link and the bytes on its line, which the model holds, stay by the choice of notes/assumptions/8.md.
Where the manual leaves room it rests on the choices of notes/assumptions/10.md and notes/assumptions/11.md. -/
def Obligations.SoftResetBegins : Prop :=
  ∀ (s : State) (run auto xreset : Bool),
    (s.port.reset = none ∨ (∃ r, s.port.reset = some r ∧ r.kind = .exchange) →
      ∃ t, exec (.softReset run auto xreset) s = .next t ∧ t.site = s.site ∧ t.plan = Plan.cleared ∧
        t.census = Census.cleared ∧ (∀ b : Fin 8, t.spares[b] = []) ∧
        (∀ z : Fin 4, t.links[z] = { Link.cleared with sent := s.links[z].sent, line := s.links[z].line } ∧
          t.zones[z] = { Zone.powerOn with settings := s.zones[z].settings }) ∧
        t.engine = Engine.cleared ∧ t.reports = Reports.cleared ∧ t.free = s.free ∧ t.now = s.now ∧
        t.pending = s.pending ∧
        (∀ c, t.port.cell c = if s.port.cell c = some .queued ∨ s.port.cell c = some .active then some .free
          else s.port.cell c) ∧
        t.port = { s.port with
          cells := t.port.cells, backlog := [], run := run, auto := auto
          reset := some { kind := .soft, ends := s.now + 1 }, header := t.port.header, line := t.port.line }) ∧
    (∀ r, s.port.reset = some r → r.kind = .soft →
      ∃ t, exec (.softReset run auto xreset) s = .next t ∧ s.onlyPort t ∧
        t.port = { s.port with raw := s.port.raw ||| faultBit, header := t.port.header, line := t.port.line }) ∧
    (∀ r, s.port.reset = some r → r.kind = .powerOn → exec (.softReset run auto xreset) s = .next s)

/-- An exchange reset discards the handed orders and keeps the internal entries and work, frees the probe slots and the
QUEUED and ACTIVE cells, and drops the backlog. A PLACE in progress is rolled back, and a REBUILD CENSUS in progress
leaves the census STALE with the cause ABANDONED; the rest of the model stays (R50, R82, R118, R143, R156). With RUN 1 the
arbiter goes on with the internal entries (R143).
Where the manual leaves room it rests on the choices of notes/assumptions/10.md, notes/assumptions/11.md and
notes/assumptions/31.md. -/
def Obligations.ExchangeResetBegins : Prop :=
  ∀ (s : State) (run auto : Bool),
    let work := s.engine.routineContext.work
    (s.port.reset = none →
      ∃ t, exec (.exchangeReset run auto) s = .next t.arbitrate ∧ t.site = s.site ∧ t.zones = s.zones ∧
        (∀ z : Fin 4, t.links[z] = { s.links[z] with slot := none }) ∧ t.reports = s.reports ∧ t.free = s.free ∧
        t.now = s.now ∧ t.pending = s.pending ∧
        t.engine.urgent = s.engine.urgent.filter Entry.isInternal ∧
        (∃ l : List Entry, (∀ e ∈ l, e.isInternal = true) ∧
          t.engine.routine = s.engine.routine.filter Entry.isInternal ++ l) ∧
        t.engine.urgentContext = s.engine.urgentContext ∧
        (work.bind Work.order ≠ none → t.engine.routineContext = .idle) ∧
        (work.bind Work.order = none → t.engine.routineContext = s.engine.routineContext) ∧
        (∀ c, t.port.cell c = if s.port.cell c = some .queued ∨ s.port.cell c = some .active then some .free
          else s.port.cell c) ∧
        t.port = { s.port with
          cells := t.port.cells, backlog := [], run := run, auto := auto, raw := t.port.raw
          reset := some { kind := .exchange, ends := s.now + 1 }, header := t.port.header, line := t.port.line } ∧
        (∀ w, work = some (.place w) → (∀ e ∈ w.stack, (s.channel e.item.channel).isSome = true) →
          s.searchEnded t w (fun _ => .defined) ∧ t.plan.epoch = s.plan.epoch + BitVec.ofNat 32 w.placedCount ∧
            t.census = (w.stack.foldl State.clearTentative s).census ∧
            t.spares = (w.stack.foldl State.clearTentative s).spares ∧
            t.engine.routine = s.engine.routine.filter Entry.isInternal ++
              if w.placedCount = 0 then [] else s.allShort t) ∧
        (∀ w o, work = some (.rebuild w) → w.order = some o →
          t.census = { s.census with state := .stale, cause := .abandoned } ∧ t.plan = s.plan ∧ t.spares = s.spares ∧
            t.engine.routine = s.engine.routine.filter Entry.isInternal ∧
            t.port.raw = (if s.census.state = .stale then s.port.raw else s.port.raw ||| censusBit)) ∧
        ((∀ w, work ≠ some (.place w)) → (∀ w o, work = some (.rebuild w) → w.order ≠ some o) →
          s.samePlan t ∧ t.port.raw = s.port.raw ∧ t.engine.routine = s.engine.routine.filter Entry.isInternal)) ∧
    (∀ r, s.port.reset = some r → r.kind ≠ .powerOn →
      ∃ t, exec (.exchangeReset run auto) s = .next t ∧ s.onlyPort t ∧
        t.port = { s.port with raw := s.port.raw ||| faultBit, header := t.port.header, line := t.port.line }) ∧
    (∀ r, s.port.reset = some r → r.kind = .powerOn → exec (.exchangeReset run auto) s = .next s)

/-- A power-on reset gives every block its power-on values at once and leaves exchange memory 0 throughout; the clock, the
queue, the count of free values and the bytes on the lines are the model's own and go on (R145, R156). Any reset ends with
every pool cell FREE, the out list cleared and its total 0, and RESET_DONE raised. A soft reset clears RUN and the other
raw flags, a power-on reset AUTO, the enables and exchange memory as well; an exchange reset leaves all of these as they
are (R156, R157). The Report Builder makes one attempt to emit, and the header is written afresh (R147, R160). That the
clock then stands at the end of the reset or later is the choice of notes/assumptions/5.md.
Where the manual leaves room it rests on the choices of notes/assumptions/8.md, notes/assumptions/10.md and
notes/assumptions/11.md. -/
def Obligations.PowerOnResetAndResetEnd : Prop :=
  (∀ s : State, ∃ t, exec .powerOnReset s = .next t ∧ t.site = State.reset.site ∧ t.plan = State.reset.plan ∧
     t.census = State.reset.census ∧ t.spares = State.reset.spares ∧ t.zones = State.reset.zones ∧
     (∀ z : Fin 4, t.links[z] = { Link.cleared with line := s.links[z].line }) ∧ t.engine = State.reset.engine ∧
     t.reports = State.reset.reports ∧ t.now = s.now ∧ t.free = s.free ∧ t.pending = s.pending ∧
     (∀ a, t.port.memory.read a = 0#8) ∧ (∀ b ∈ t.port.header.bytes, b = 0#8) ∧
     t.port.reset = some { kind := .powerOn, ends := s.now + 1 } ∧ t.port.run = false ∧ t.port.auto = false ∧
     t.port.raw = 0 ∧ t.port.enables = 0 ∧ t.port.line = false) ∧
  (∀ (s : State) (r : ResetRun), s.port.reset = some r →
     ∃ t, exec .resetEnd s = .next t ∧ s.samePlan t ∧ s.sameSpectrum t ∧ t.engine = s.engine ∧ t.free = s.free ∧
       t.pending = s.pending ∧ t.now = max s.now r.ends ∧ t.port.reset = none ∧ t.port.header = t.mirror ∧
       t.port.readData = s.port.readData ∧ t.port.raw &&& resetDoneBit = resetDoneBit ∧
       t.port.run = (if r.kind = .exchange then s.port.run else false) ∧
       t.port.auto = (if r.kind = .powerOn then false else s.port.auto) ∧
       t.port.enables = (if r.kind = .powerOn then 0 else s.port.enables) ∧
       (s.memoryOk → ∀ c, 9 ≤ c → c ≤ 511 → t.port.cell c = some .free ∨ t.port.reportIn c) ∧
       ∃ x : State, x = { s with port := x.port, now := max s.now r.ends } ∧ x.tries t ∧ x.port.reset = none ∧
         (∀ c, 9 ≤ c → c ≤ 511 → x.port.cell c = some .free) ∧
         x.port.memory = (if r.kind = .powerOn then [] else s.port.memory) ∧
         (∀ i, sparseGet OutSlot.zero x.port.outList i = OutSlot.zero) ∧ x.port.outTotal = 0 ∧ x.port.backlog = [] ∧
         x.port.raw = (if r.kind = .exchange then s.port.raw ||| resetDoneBit else resetDoneBit))

/-- A host write of bytes to the window stores those that fall in pool cells, and no others; neither the header nor the out
list can be written (R145).
Where the manual leaves room it rests on the choices of notes/assumptions/7.md and notes/assumptions/24.md. -/
def Obligations.HostWriteStoresInCells : Prop :=
  ∀ (s : State) (offset : BitVec 18) (data : List Byte), hostRangeOk offset.toNat data.length = true →
    s.port.memory.wf = true →
    ∃ t, exec (.hostCellWrite offset data) s = .next t ∧ s.onlyPort t ∧
      t.port = { s.port with memory := t.port.memory, header := t.port.header, line := t.port.line } ∧
      ∀ a, t.port.memory.read a =
        if offset.toNat ≤ a ∧ a < offset.toNat + data.length ∧ 0x900 ≤ a ∧ a < 0x20000 then
          data.getD (a - offset.toNat) 0#8
        else s.port.memory.read a


/-! ### Reports -/

/-- A mark adds its flag to the entry of its subject in the pending set, or puts the subject at the tail; a HIT mark
replaces the segment and the rise (R158, R159). Every mark is an attempt to emit. An attempt does nothing with no subject
pending or in a reset. At or below the reserve it is held back: STARVED is raised and counted, up to 65,535 (R161). Above
the reserve it takes the lowest FREE cell, which becomes DELIVERED with the items of the 15 oldest subjects and a report
head, and announces it; the subjects leave the pending set. While subjects are pending and the free count is above the
reserve it goes on with the next report (R160, R162, R163). -/
def Obligations.EmissionBuildsReports : Prop :=
  ∀ s : State,
    (∀ (x : Subject) (f : Byte) (h : Option (Nat × Nat)), ∃ l : List PendingSubject,
      s.mark x f h = State.attempt { s with reports := { s.reports with pending := l } } ∧
      (∀ a q b, s.reports.pending = a ++ q :: b → q.subject = x → (∀ y ∈ a, y.subject ≠ x) →
        l = a ++ { subject := x, flags := q.flags ||| f, hit := if h = none then q.hit else h } :: b) ∧
      ((∀ q ∈ s.reports.pending, q.subject ≠ x) →
        l = s.reports.pending ++ [{ subject := x, flags := f, hit := h }])) ∧
    (s.reports.pending = [] ∨ s.port.reset ≠ none → s.attempt = s) ∧
    (s.reports.pending ≠ [] → s.port.reset = none → s.port.freeCount ≤ s.site.params.reserve →
      s.attempt = { s with
        port := { s.port with raw := s.port.raw ||| starvedBit }
        reports := { s.reports with starved := min (s.reports.starved + 1) 65535 } }) ∧
    ∀ c, s.memoryOk → s.reports.pending ≠ [] → s.port.reset = none → s.site.params.reserve < s.port.freeCount →
      s.port.cell c = some .free → (∀ d, d < c → s.port.cell d ≠ some .free) →
      ∃ t : State,
        let items := s.reports.pending.take 15
        let p := t.port
        s.attempt = (if t.reports.pending ≠ [] ∧ s.site.params.reserve < p.freeCount then t.attempt else t) ∧
        t = { s with port := p, reports := t.reports } ∧ t.reports.pending = s.reports.pending.drop 15 ∧
        t.reports.sequence = s.reports.sequence + 1 ∧ t.reports.starved = s.reports.starved ∧
        (∀ d, p.cell d = if d = c then some .delivered else s.port.cell d) ∧
        p.headField c 0 1 = OrderOutcome.done.code ∧ p.headField c 1 1 = Reason.none.code ∧
        p.headField c 2 2 = 16 * items.length ∧ p.headField c 4 2 = 0xFFFF ∧
        p.headField c 6 1 = Config.reportCode.toNat ∧ p.headField c 7 1 = 0 ∧
        p.headField c 8 4 = s.reports.sequence.toNat ∧ p.headField c 12 4 = items.length ∧
        p.memory.readAll (payloadOffset c 0) (16 * items.length) = items.flatMap s.item ∧
        (∀ a, a / 256 ≠ c → p.memory.read a = s.port.memory.read a) ∧
        s.port.announces p { cell := c, report := true, urgent := false } ∧
        p = { s.port with
          cells := p.cells, memory := p.memory, outList := p.outList, outTotal := p.outTotal, backlog := p.backlog
          raw := p.raw } ∧
        p.raw ||| outBit = s.port.raw ||| outBit
end

