-- ==== Sys2Proof/Laws/Memory.lean ====
section
/-! SUPPORT. Sparse tables and exchange memory: every operation keeps the canonical form, a read after a write gives
what was written there and what stood elsewhere, and equal contents are equal tables. -/

namespace Sys2Proof.Machine

variable {α : Type} [DecidableEq α] {d : α}

theorem sparseOk_nil : sparseOk d ([] : Sparse α) = true := rfl

theorem sparseOk_cons {k : Nat} {v : α} {t : Sparse α} :
    sparseOk d ((k, v) :: t) = true ↔ v ≠ d ∧ (∀ e ∈ t, k < e.1) ∧ sparseOk d t = true := by
  simp [sparseOk]

omit [DecidableEq α] in
/-- Below every listed place a table reads as an unlisted place. -/
theorem sparseGet_of_below {l : Sparse α} {a : Nat} (h : ∀ e ∈ l, a < e.1) : sparseGet d l a = d := by
  induction l with
  | nil => rfl
  | cons e t ih =>
    obtain ⟨k, v⟩ := e
    have hk : a < k := h (k, v) (by simp)
    simp only [sparseGet]
    rw [if_neg (by omega)]
    exact ih fun e he => h e (by simp [he])

/-- The places of a table after a store. -/
theorem mem_sparseSet {l : Sparse α} {a : Nat} {v : α} {e : Nat × α} (h : e ∈ sparseSet d l a v) :
    e.1 = a ∨ e ∈ l := by
  induction l with
  | nil =>
    simp only [sparseSet] at h
    split at h <;> simp_all
  | cons x t ih =>
    obtain ⟨k, w⟩ := x
    simp only [sparseSet] at h
    split at h
    · split at h
      · exact Or.inr h
      · rcases List.mem_cons.1 h with rfl | h
        · exact Or.inl rfl
        · exact Or.inr h
    · split at h
      · split at h
        · exact Or.inr (by simp [h])
        · rcases List.mem_cons.1 h with rfl | h
          · exact Or.inl rfl
          · exact Or.inr (by simp [h])
      · rcases List.mem_cons.1 h with rfl | h
        · exact Or.inr (by simp)
        · rcases ih h with h | h
          · exact Or.inl h
          · exact Or.inr (by simp [h])

/-- A store keeps the canonical form. -/
theorem sparseSet_ok {l : Sparse α} (a : Nat) (v : α) (h : sparseOk d l = true) :
    sparseOk d (sparseSet d l a v) = true := by
  induction l with
  | nil =>
    simp only [sparseSet]
    split
    · rfl
    · simp [sparseOk, *]
  | cons x t ih =>
    obtain ⟨k, w⟩ := x
    have hx := sparseOk_cons.1 h
    simp only [sparseSet]
    split
    · rename_i hak
      split
      · exact h
      · rename_i hv
        refine sparseOk_cons.2 ⟨hv, ?_, h⟩
        intro e he
        rcases List.mem_cons.1 he with rfl | he
        · exact hak
        · have := hx.2.1 e he
          omega
    · split
      · rename_i hak
        split
        · exact hx.2.2
        · rename_i hv
          exact sparseOk_cons.2 ⟨hv, fun e he => by have := hx.2.1 e he; omega, hx.2.2⟩
      · refine sparseOk_cons.2 ⟨hx.1, ?_, ih hx.2.2⟩
        intro e he
        rcases mem_sparseSet he with he | he
        · omega
        · exact hx.2.1 e he

/-- A read after a store, in a table in canonical form. -/
theorem sparseGet_set {l : Sparse α} (a b : Nat) (v : α) (h : sparseOk d l = true) :
    sparseGet d (sparseSet d l a v) b = if b = a then v else sparseGet d l b := by
  induction l with
  | nil =>
    simp only [sparseSet]
    split <;> rename_i hv
    · by_cases hb : b = a <;> simp [sparseGet, hb, hv]
    · by_cases hb : b = a
      · simp [sparseGet, hb]
      · simp [sparseGet, hb, Ne.symm hb]
  | cons x t ih =>
    obtain ⟨k, w⟩ := x
    have hx := sparseOk_cons.1 h
    simp only [sparseSet]
    split
    · rename_i hak
      have hbelow : sparseGet d ((k, w) :: t) a = d := by
        refine sparseGet_of_below ?_
        intro e he
        rcases List.mem_cons.1 he with rfl | he
        · exact hak
        · have := hx.2.1 e he
          omega
      split <;> rename_i hv
      · by_cases hb : b = a
        · rw [if_pos hb, hb, hbelow, hv]
        · rw [if_neg hb]
      · by_cases hb : b = a
        · rw [if_pos hb, sparseGet, if_pos hb.symm]
        · rw [if_neg hb, sparseGet, if_neg (Ne.symm hb)]
    · split
      · rename_i hak
        split <;> rename_i hv
        · by_cases hb : b = a
          · rw [if_pos hb, sparseGet_of_below (fun e he => by have := hx.2.1 e he; omega), hv]
          · rw [if_neg hb, sparseGet, if_neg (by omega)]
        · by_cases hb : b = a
          · rw [if_pos hb, sparseGet, if_pos hb.symm]
          · rw [if_neg hb, sparseGet, if_neg (Ne.symm hb), sparseGet, if_neg (by omega)]
      · rename_i h1 h2
        by_cases hb : b = a
        · rw [sparseGet, if_neg (by omega), ih hx.2.2, if_pos hb, if_pos hb]
        · by_cases hk : k = b
          · rw [sparseGet, if_pos hk, if_neg hb, sparseGet, if_pos hk]
          · rw [sparseGet, if_neg hk, ih hx.2.2, if_neg hb, if_neg hb, sparseGet, if_neg hk]

/-! ### Exchange memory -/

theorem Memory.write_wf {m : Memory} (a : Nat) (b : Byte) (h : Memory.wf m = true) :
    Memory.wf (m.write a b) = true := sparseSet_ok a b h

theorem Memory.read_write {m : Memory} (a i : Nat) (b : Byte) (h : Memory.wf m = true) :
    (m.write a b).read i = if i = a then b else m.read i := sparseGet_set a i b h

theorem Memory.writeAll_wf {m : Memory} (a : Nat) (l : List Byte) (h : Memory.wf m = true) :
    Memory.wf (m.writeAll a l) = true := by
  induction l generalizing m a with
  | nil => exact h
  | cons b t ih => exact ih (a + 1) (write_wf a b h)

/-- A read after bytes are written: the byte written there, or what stood there. -/
theorem Memory.read_writeAll {m : Memory} (a i : Nat) (l : List Byte) (h : Memory.wf m = true) :
    (m.writeAll a l).read i = if a ≤ i ∧ i < a + l.length then l.getD (i - a) 0#8 else m.read i := by
  induction l generalizing m a with
  | nil => simp [Memory.writeAll]
  | cons b t ih =>
    rw [Memory.writeAll, ih (a + 1) (write_wf a b h)]
    by_cases h1 : a + 1 ≤ i ∧ i < a + 1 + t.length
    · rw [if_pos h1, if_pos (by simp; omega)]
      obtain ⟨n, hn⟩ : ∃ n, i - a = n + 1 := ⟨i - a - 1, by omega⟩
      rw [hn, List.getD_cons_succ]
      congr 1
      omega
    · rw [if_neg h1, read_write a i b h]
      by_cases h2 : i = a
      · subst h2
        simp
      · rw [if_neg h2, if_neg (by simp; omega)]

/-- Bytes read where other bytes were written are those that stood there. -/
theorem Memory.readAll_eq {m n : Memory} (a k : Nat) (h : ∀ i, a ≤ i → i < a + k → n.read i = m.read i) :
    n.readAll a k = m.readAll a k := by
  induction k generalizing a with
  | zero => rfl
  | succ k ih =>
    rw [Memory.readAll, Memory.readAll, h a (by omega) (by omega),
      ih (a + 1) fun i h1 h2 => h i (by omega) (by omega)]

/-- Bytes read are the bytes of a list that stands there. -/
theorem Memory.readAll_of {m : Memory} (a : Nat) (l : List Byte)
    (h : ∀ i, i < l.length → m.read (a + i) = l.getD i 0#8) : m.readAll a l.length = l := by
  induction l generalizing a with
  | nil => rfl
  | cons b t ih =>
    rw [List.length_cons, Memory.readAll]
    congr 1
    · simpa using h 0 (by simp)
    · refine ih (a + 1) fun i hi => ?_
      have := h (i + 1) (by simpa using hi)
      rw [List.getD_cons_succ] at this
      rw [← this]
      congr 1
      omega

/-- Bytes just written read back. -/
theorem Memory.readAll_writeAll {m : Memory} (a : Nat) (l : List Byte) (h : Memory.wf m = true) :
    (m.writeAll a l).readAll a l.length = l :=
  readAll_of a l fun i hi => by
    rw [read_writeAll a (a + i) l h, if_pos (by omega), Nat.add_sub_cancel_left]

/-- The writes of a delivery keep the canonical form. -/
theorem writeChain_wf {m : Memory} (outcome : OrderOutcome) (reason : Reason) (cs : List Nat)
    (ps : List (List Byte)) (h : Memory.wf m = true) : Memory.wf (writeChain m outcome reason cs ps) = true := by
  induction cs generalizing m ps with
  | nil => exact h
  | cons c t ih => exact ih ps.tail (Memory.writeAll_wf _ _ (Memory.writeAll_wf _ _ h))

/-- A delivery writes inside the cells of its chain only, when no payload exceeds a cell. -/
theorem read_writeChain_outside {m : Memory} (outcome : OrderOutcome) (reason : Reason) (cs : List Nat)
    (ps : List (List Byte)) (h : Memory.wf m = true) (hp : ∀ p ∈ ps, p.length ≤ 240) (a : Nat)
    (ha : a / 256 ∉ cs) : (writeChain m outcome reason cs ps).read a = m.read a := by
  induction cs generalizing m ps with
  | nil => rfl
  | cons c t ih =>
    have hc : a / 256 ≠ c := fun e => ha (by simp [e])
    have hl : (ps.headD []).length ≤ 240 := by
      cases ps with
      | nil => simp
      | cons p q => exact hp p (by simp)
    rw [writeChain, ih ps.tail (Memory.writeAll_wf _ _ (Memory.writeAll_wf _ _ h))
      (fun p hq => hp p (List.mem_of_mem_tail hq)) (fun e => ha (by simp [e])),
      Memory.read_writeAll _ _ _ (Memory.writeAll_wf _ _ h), if_neg, Memory.read_writeAll _ _ _ h, if_neg]
    · simp only [payloadOffset]
      omega
    · simp only [cellOffset, half, List.length_append, List.length_cons, List.length_nil]
      omega

end Sys2Proof.Machine
end

