-- ==== Sys2Proof/Laws/Port.lean ====
section
/-! SUPPORT. What the operations of the Exchange Port and the Report Builder leave alone, said once for each: the
switches, the enables, the reset in progress, the header and the line stay, and memory keeps its canonical form. -/

namespace Sys2Proof.Machine

/-- A delivery is held back only while the next slot is live (R152). -/
abbrev Port.heldRightly (p : Port) : Prop := p.backlog = [] ∨ p.blocked = true

/-- The port's own registers, its reset, its header and its line stay, memory and the out list stay in their canonical
form, and deliveries are held back rightly. -/
def Port.Keeps (p q : Port) : Prop :=
  q.reset = p.reset ∧ q.run = p.run ∧ q.auto = p.auto ∧ q.enables = p.enables ∧ q.readData = p.readData ∧
    q.header = p.header ∧ q.line = p.line ∧ (p.memory.wf = true → q.memory.wf = true) ∧
    (sparseOk OutSlot.zero p.outList = true → sparseOk OutSlot.zero q.outList = true) ∧
    (p.heldRightly → q.heldRightly)

theorem Port.Keeps.refl (p : Port) : p.Keeps p := ⟨rfl, rfl, rfl, rfl, rfl, rfl, rfl, id, id, id⟩

theorem Port.Keeps.trans {p q r : Port} (h : p.Keeps q) (k : q.Keeps r) : p.Keeps r := by
  obtain ⟨a1, a2, a3, a4, a5, a6, a7, a8, a9, a10⟩ := h
  obtain ⟨b1, b2, b3, b4, b5, b6, b7, b8, b9, b10⟩ := k
  exact ⟨b1.trans a1, b2.trans a2, b3.trans a3, b4.trans a4, b5.trans a5, b6.trans a6, b7.trans a7,
    fun h => b8 (a8 h), fun h => b9 (a9 h), fun h => b10 (a10 h)⟩

theorem Port.Keeps.wf {p q : Port} (h : p.Keeps q) : p.memory.wf = true → q.memory.wf = true := h.2.2.2.2.2.2.2.1

theorem Port.Keeps.out {p q : Port} (h : p.Keeps q) :
    sparseOk OutSlot.zero p.outList = true → sparseOk OutSlot.zero q.outList = true := h.2.2.2.2.2.2.2.2.1

theorem Port.Keeps.held {p q : Port} (h : p.Keeps q) : p.heldRightly → q.heldRightly := h.2.2.2.2.2.2.2.2.2

/-- A port with other memory in canonical form. -/
theorem Port.keeps_memory (p : Port) (m : Memory) (h : p.memory.wf = true → Memory.wf m = true) :
    p.Keeps { p with memory := m } := ⟨rfl, rfl, rfl, rfl, rfl, rfl, rfl, h, id, id⟩

/-! ### Operations of the port -/

theorem Port.keeps_raise (p : Port) (b : BitVec 5) : p.Keeps (p.raise b) := Port.Keeps.refl _

theorem Port.keeps_setCell (p : Port) (c : Nat) (st : CellState) : p.Keeps (p.setCell c st) := by
  unfold Port.setCell
  split <;> exact Port.Keeps.refl _

theorem Port.keeps_setCells (p : Port) (cs : List Nat) (st : CellState) : p.Keeps (p.setCells cs st) := by
  unfold Port.setCells
  induction cs generalizing p with
  | nil => exact Port.Keeps.refl _
  | cons c t ih => exact (p.keeps_setCell c st).trans (ih _)

theorem Port.keeps_writeEntry (p : Port) (a : Announcement) (h : p.backlog = []) : p.Keeps (p.writeEntry a) :=
  ⟨rfl, rfl, rfl, rfl, rfl, rfl, rfl, id, sparseSet_ok _ _, fun _ => .inl h⟩

theorem Port.keeps_announce (p : Port) (a : Announcement) : p.Keeps (p.announce a) := by
  unfold Port.announce
  split
  · rename_i h
    refine ⟨rfl, rfl, rfl, rfl, rfl, rfl, rfl, id, id, fun k => .inr ?_⟩
    rcases h with h | h
    · exact k.resolve_left h
    · exact h
  · rename_i h
    exact p.keeps_writeEntry a (not_not.1 (not_or.1 h).1)

/-- A drain ends with an empty backlog or at a live slot (R152). -/
theorem Port.drain_held (l : List Announcement) (p : Port) : (Port.drain l p).heldRightly := by
  induction l generalizing p with
  | nil => exact .inl rfl
  | cons a t ih =>
    unfold Port.drain
    split
    · rename_i h
      exact .inr h
    · exact ih _

/-- A slot whose entry loses its life stays a listed slot. -/
theorem sparseOk_forget (c : Nat) (l : Sparse OutSlot) (h : sparseOk OutSlot.zero l = true) :
    sparseOk OutSlot.zero (l.map fun e =>
      (e.1, if (e.2.entry.map Announcement.cell) = some c then { e.2 with live := false } else e.2)) = true := by
  induction l with
  | nil => rfl
  | cons x t ih =>
    obtain ⟨k, v⟩ := x
    rw [sparseOk_cons] at h
    rw [List.map_cons, sparseOk_cons]
    refine ⟨?_, ?_, ih h.2.2⟩
    · split
      · rename_i e
        intro z
        rw [show v.entry = none from congrArg OutSlot.entry z] at e
        cases e
      · exact h.1
    · intro e he
      obtain ⟨y, hy, rfl⟩ := List.mem_map.1 he
      exact h.2.1 y hy

/-- What a drain and the end of an entry's life leave alone, whatever the backlog. -/
def Port.Stays (p q : Port) : Prop :=
  q.reset = p.reset ∧ q.run = p.run ∧ q.auto = p.auto ∧ q.enables = p.enables ∧ q.readData = p.readData ∧
    q.header = p.header ∧ q.line = p.line ∧ (p.memory.wf = true → q.memory.wf = true) ∧
    (sparseOk OutSlot.zero p.outList = true → sparseOk OutSlot.zero q.outList = true)

theorem Port.Stays.trans {p q r : Port} (h : p.Stays q) (k : q.Stays r) : p.Stays r := by
  obtain ⟨a1, a2, a3, a4, a5, a6, a7, a8, a9⟩ := h
  obtain ⟨b1, b2, b3, b4, b5, b6, b7, b8, b9⟩ := k
  exact ⟨b1.trans a1, b2.trans a2, b3.trans a3, b4.trans a4, b5.trans a5, b6.trans a6, b7.trans a7,
    fun h => b8 (a8 h), fun h => b9 (a9 h)⟩

theorem Port.stays_forget (p : Port) (c : Nat) : p.Stays (p.forget c) :=
  ⟨rfl, rfl, rfl, rfl, rfl, rfl, rfl, id, sparseOk_forget c _⟩

theorem Port.stays_forgets (p : Port) (cs : List Nat) : p.Stays (cs.foldl Port.forget p) := by
  induction cs generalizing p with
  | nil => exact ⟨rfl, rfl, rfl, rfl, rfl, rfl, rfl, id, id⟩
  | cons c t ih => exact (p.stays_forget c).trans (ih _)

theorem Port.stays_drain (l : List Announcement) (p : Port) : p.Stays (Port.drain l p) := by
  induction l generalizing p with
  | nil => exact ⟨rfl, rfl, rfl, rfl, rfl, rfl, rfl, id, id⟩
  | cons a t ih =>
    unfold Port.drain
    split
    · exact ⟨rfl, rfl, rfl, rfl, rfl, rfl, rfl, id, id⟩
    · exact Port.Stays.trans (q := p.writeEntry a) ⟨rfl, rfl, rfl, rfl, rfl, rfl, rfl, id, sparseSet_ok _ _⟩ (ih _)

theorem Port.keeps_leave (p : Port) (cs : List Nat) : p.Keeps (p.leave cs) := by
  obtain ⟨h1, h2, h3, h4, h5, h6, h7, h8, h9⟩ := (p.stays_forgets cs).trans (Port.stays_drain _ _)
  exact ⟨h1, h2, h3, h4, h5, h6, h7, h8, h9, fun _ => Port.drain_held _ _⟩

theorem Port.keeps_deliver (p : Port) (head : Nat) (rest : List Nat) (urgent : Bool) (outcome : OrderOutcome)
    (reason : Reason) (argument : Word) (payloads : List (List Byte)) :
    p.Keeps (p.deliver head rest urgent outcome reason argument payloads) :=
  ((p.keeps_memory _ fun h => Memory.writeAll_wf _ _ (writeChain_wf _ _ _ _ h)).trans
    (Port.keeps_setCells _ _ _)).trans (Port.keeps_announce _ _)

/-! ### The pending report set -/

/-- The subjects of a set after a mark. -/
theorem addMark_subjects (x : Subject) (f : Byte) (h : Option (Nat × Nat)) (l : List PendingSubject) :
    (addMark x f h l).map PendingSubject.subject =
      if x ∈ l.map PendingSubject.subject then l.map PendingSubject.subject
      else l.map PendingSubject.subject ++ [x] := by
  induction l with
  | nil => simp [addMark]
  | cons q t ih =>
    unfold addMark
    by_cases hq : q.subject = x
    · simp [hq]
    · rw [if_neg hq, List.map_cons, ih]
      by_cases hx : x ∈ t.map PendingSubject.subject
      · rw [if_pos hx, if_pos (by simp [hx])]
        simp
      · rw [if_neg hx, if_neg (by simpa [Ne.symm hq] using hx)]
        simp

/-- A mark keeps every subject at most once in the set (R158). -/
theorem addMark_nodup (x : Subject) (f : Byte) (h : Option (Nat × Nat)) (l : List PendingSubject)
    (hl : (l.map PendingSubject.subject).Nodup) : ((addMark x f h l).map PendingSubject.subject).Nodup := by
  rw [addMark_subjects]
  split
  · exact hl
  · rename_i hx
    exact List.nodup_append.2 ⟨hl, by simp, by
      intro a ha b hb
      rw [List.mem_singleton] at hb
      subst hb
      exact fun e => hx (e ▸ ha)⟩

/-! ### Emission (R160) -/

/-- What an emission leaves alone: the port keeps its registers, and subjects only leave the set, the oldest
first. -/
def EmissionKeeps (x y : Port × Reports) : Prop := x.1.Keeps y.1 ∧ ∃ n, y.2.pending = x.2.pending.drop n

theorem EmissionKeeps.refl (x : Port × Reports) : EmissionKeeps x x := ⟨Port.Keeps.refl _, 0, rfl⟩

theorem EmissionKeeps.trans {x y z : Port × Reports} (h : EmissionKeeps x y) (k : EmissionKeeps y z) :
    EmissionKeeps x z := by
  obtain ⟨h1, n, h2⟩ := h
  obtain ⟨k1, m, k2⟩ := k
  exact ⟨h1.trans k1, n + m, by rw [k2, h2, List.drop_drop]⟩

theorem emitOne_keeps (item : PendingSubject → List Byte) (x : Port × Reports) :
    EmissionKeeps x (emitOne item x) := by
  unfold emitOne
  split
  · exact EmissionKeeps.refl x
  · exact ⟨((((x.1.keeps_memory _ fun h => Memory.writeAll_wf _ _ (Memory.writeAll_wf _ _ h)).trans
      (Port.keeps_setCell _ _ _)).trans (Port.keeps_setCell _ _ _)).trans (Port.keeps_announce _ _)), 15, rfl⟩

theorem emitLoop_keeps (item : PendingSubject → List Byte) (reserve n : Nat) (x : Port × Reports) :
    EmissionKeeps x (emitLoop item reserve n x) := by
  induction n generalizing x with
  | zero => exact EmissionKeeps.refl x
  | succ n ih =>
    unfold emitLoop
    split
    · exact EmissionKeeps.refl x
    · exact (emitOne_keeps item x).trans (ih _)

theorem emitAttempt_keeps (item : PendingSubject → List Byte) (reserve : Nat) (x : Port × Reports) :
    EmissionKeeps x (emitAttempt item reserve x) := by
  unfold emitAttempt
  split
  · exact EmissionKeeps.refl x
  · split
    · exact ⟨Port.keeps_raise _ _, 0, rfl⟩
    · exact emitLoop_keeps item reserve _ x

/-- A reset in progress holds emission off: an attempt changes nothing (R160). -/
theorem emitAttempt_in_reset (item : PendingSubject → List Byte) (reserve : Nat) (x : Port × Reports)
    (h : x.1.reset ≠ none) : emitAttempt item reserve x = x := by
  unfold emitAttempt
  rw [if_pos (Or.inr h)]

/-- An attempt with an empty set changes nothing (R160). -/
theorem emitAttempt_empty (item : PendingSubject → List Byte) (reserve : Nat) (x : Port × Reports)
    (h : x.2.pending = []) : emitAttempt item reserve x = x := by
  unfold emitAttempt
  rw [if_pos (Or.inl h)]

end Sys2Proof.Machine
end

