-- ==== Sys2Proof/Laws/Cells.lean ====
section
/-! SUPPORT. The pool cells: the state of a cell after each operation of the port, the lowest FREE cell, and what an
emission of reports does to cells and to memory. -/

namespace Sys2Proof.Machine

/-! ### The place of a cell -/

theorem poolIndex_eq (c : Nat) :
    poolIndex c = if h : 9 ≤ c ∧ c ≤ 511 then some ⟨c - 9, by omega⟩ else none := by
  unfold poolIndex index
  simp only [Config.firstCell]
  by_cases h1 : 9 ≤ c
  · by_cases h2 : c - 9 < 503
    · rw [if_pos h1, dif_pos h2, dif_pos (by omega)]
    · rw [if_pos h1, dif_neg h2, dif_neg (by omega)]
  · rw [if_neg h1, dif_neg (by omega)]

theorem poolIndex_some {c : Nat} {i : Fin 503} (h : poolIndex c = some i) : c = i.val + Config.firstCell := by
  rw [poolIndex_eq] at h
  split at h
  · simp only [Option.some.injEq] at h
    subst h
    simp only [Config.firstCell]
    omega
  · cases h

theorem poolIndex_of (i : Fin 503) : poolIndex (i.val + Config.firstCell) = some i := by
  have := i.isLt
  rw [poolIndex_eq, dif_pos (by simp only [Config.firstCell]; omega)]
  simp [Config.firstCell]

/-- A pool cell is numbered 9 to 511 (R145). -/
theorem poolIndex_isSome (c : Nat) : (poolIndex c).isSome = true ↔ 9 ≤ c ∧ c ≤ 511 := by
  rw [poolIndex_eq]
  split <;> simp_all

/-! ### Cells after an operation -/

/-- The state of a cell after one is set. -/
theorem Port.cell_setCell (p : Port) (c d : Nat) (st : CellState) :
    (p.setCell c st).cell d = if d = c then (p.cell d).map (fun _ => st) else p.cell d := by
  cases hc : poolIndex c with
  | none =>
    have e : p.setCell c st = p := by
      unfold Port.setCell
      rw [hc]
    rw [e]
    by_cases h : d = c
    · subst h
      unfold Port.cell
      simp [hc]
    · rw [if_neg h]
  | some i =>
    have e : p.setCell c st = { p with cells := p.cells.set i st } := by
      unfold Port.setCell
      rw [hc]
    rw [e]
    unfold Port.cell
    cases hd : poolIndex d with
    | none => simp
    | some j =>
      have h1 := poolIndex_some hc
      have h2 := poolIndex_some hd
      by_cases e : d = c
      · have : i = j := Fin.ext (by omega)
        subst this
        simp [e]
      · have : i.val ≠ j.val := by omega
        simp [e, Vector.getElem_set, this]

/-- The state of a cell after several are set. -/
theorem Port.cell_setCells (p : Port) (cs : List Nat) (d : Nat) (st : CellState) :
    (p.setCells cs st).cell d = if d ∈ cs then (p.cell d).map (fun _ => st) else p.cell d := by
  unfold Port.setCells
  induction cs generalizing p with
  | nil => simp
  | cons c t ih =>
    rw [List.foldl_cons, ih, Port.cell_setCell]
    by_cases h1 : d ∈ t
    · rw [if_pos h1, if_pos (List.mem_cons_of_mem c h1)]
      by_cases h2 : d = c
      · rw [if_pos h2]
        cases p.cell d <;> rfl
      · rw [if_neg h2]
    · rw [if_neg h1]
      by_cases h2 : d = c
      · rw [if_pos h2, if_pos (by simp [h2])]
      · rw [if_neg h2, if_neg (by simp [h1, h2])]

@[simp] theorem Port.setCell_memory (p : Port) (c : Nat) (st : CellState) : (p.setCell c st).memory = p.memory := by
  unfold Port.setCell
  split <;> rfl

@[simp] theorem Port.setCells_memory (p : Port) (cs : List Nat) (st : CellState) :
    (p.setCells cs st).memory = p.memory := by
  unfold Port.setCells
  induction cs generalizing p with
  | nil => rfl
  | cons c t ih => rw [List.foldl_cons, ih, Port.setCell_memory]

/-- Setting cells changes the table of cells alone. -/
theorem Port.setCells_only (p : Port) (cs : List Nat) (st : CellState) :
    p.setCells cs st = { p with cells := (p.setCells cs st).cells } := by
  unfold Port.setCells
  induction cs generalizing p with
  | nil => rfl
  | cons c t ih =>
    rw [List.foldl_cons, ih]
    unfold Port.setCell
    split <;> rfl

@[simp] theorem Port.setCells_outList (p : Port) (cs : List Nat) (st : CellState) :
    (p.setCells cs st).outList = p.outList := by rw [Port.setCells_only]

@[simp] theorem Port.setCells_outTotal (p : Port) (cs : List Nat) (st : CellState) :
    (p.setCells cs st).outTotal = p.outTotal := by rw [Port.setCells_only]

@[simp] theorem Port.setCells_backlog (p : Port) (cs : List Nat) (st : CellState) :
    (p.setCells cs st).backlog = p.backlog := by rw [Port.setCells_only]

@[simp] theorem Port.setCells_raw (p : Port) (cs : List Nat) (st : CellState) :
    (p.setCells cs st).raw = p.raw := by rw [Port.setCells_only]

@[simp] theorem Port.setCells_reset (p : Port) (cs : List Nat) (st : CellState) :
    (p.setCells cs st).reset = p.reset := by rw [Port.setCells_only]

/-- The table of cells that setting cells leaves depends on the table before alone. -/
theorem Port.setCells_congr {p q : Port} (h : q.cells = p.cells) (cs : List Nat) (st : CellState) :
    (q.setCells cs st).cells = (p.setCells cs st).cells := by
  unfold Port.setCells
  induction cs generalizing p q with
  | nil => exact h
  | cons c t ih =>
    refine ih ?_
    show (q.setCell c st).cells = (p.setCell c st).cells
    unfold Port.setCell
    split
    · simp [h]
    · exact h

/-- Cells put into one state and then into another. -/
theorem Port.setCells_setCells (p : Port) (cs : List Nat) (x y : CellState) :
    ((p.setCells cs x).setCells cs y).cells = (p.setCells cs y).cells := by
  refine Vector.ext fun i hi => ?_
  have key : ∀ q : Port, q.cell (i + 9) = some q.cells[i] := by
    intro q
    have : poolIndex (i + 9) = some ⟨i, hi⟩ := by
      simp [poolIndex, Config.firstCell, index, hi]
    unfold Port.cell
    rw [this]
    rfl
  have h := Port.cell_setCells (p.setCells cs x) cs (i + 9) y
  have g := Port.cell_setCells p cs (i + 9) y
  have k := Port.cell_setCells p cs (i + 9) x
  simp only [key] at h g k
  by_cases m : (i + 9) ∈ cs
  · simp_all
  · simp_all

/-- Putting cells into one state and then into another is putting them into the second. -/
theorem Port.setCells_twice (p : Port) (cs : List Nat) (x y : CellState) :
    (p.setCells cs x).setCells cs y = p.setCells cs y := by
  rw [Port.setCells_only (p.setCells cs x), Port.setCells_setCells, Port.setCells_only p cs x,
    Port.setCells_only p cs y]

/-- Putting cells into the state they have changes nothing. -/
theorem Port.setCells_same (p : Port) (cs : List Nat) (x : CellState) (h : ∀ c ∈ cs, p.cell c = some x) :
    p.setCells cs x = p := by
  unfold Port.setCells
  induction cs with
  | nil => rfl
  | cons c t ih =>
    have e : p.setCell c x = p := by
      have hc := h c List.mem_cons_self
      unfold Port.cell at hc
      obtain ⟨i, hi, hx⟩ := Option.map_eq_some_iff.1 hc
      unfold Port.setCell
      rw [hi]
      subst hx
      simp
    rw [List.foldl_cons, e]
    exact ih fun d hd => h d (List.mem_cons_of_mem c hd)

@[simp] theorem Port.announce_memory (p : Port) (a : Announcement) : (p.announce a).memory = p.memory := by
  unfold Port.announce
  split <;> rfl

@[simp] theorem Port.announce_cells (p : Port) (a : Announcement) : (p.announce a).cells = p.cells := by
  unfold Port.announce
  split <;> rfl

/-- The state of a cell depends on the table of cells alone. -/
theorem Port.cell_congr {p q : Port} (h : q.cells = p.cells) (c : Nat) : q.cell c = p.cell c := by
  unfold Port.cell
  rw [h]

@[simp] theorem Port.announce_cell (p : Port) (a : Announcement) (c : Nat) : (p.announce a).cell c = p.cell c :=
  Port.cell_congr (p.announce_cells a) c

@[simp] theorem Port.drain_memory (l : List Announcement) (p : Port) : (Port.drain l p).memory = p.memory := by
  induction l generalizing p with
  | nil => rfl
  | cons a t ih =>
    unfold Port.drain
    split
    · rfl
    · rw [ih]
      rfl

@[simp] theorem Port.drain_cells (l : List Announcement) (p : Port) : (Port.drain l p).cells = p.cells := by
  induction l generalizing p with
  | nil => rfl
  | cons a t ih =>
    unfold Port.drain
    split
    · rfl
    · rw [ih]
      rfl

@[simp] theorem Port.leave_memory (p : Port) (cs : List Nat) : (p.leave cs).memory = p.memory := by
  unfold Port.leave
  rw [Port.drain_memory]
  induction cs generalizing p with
  | nil => rfl
  | cons c t ih => exact ih (p.forget c)

@[simp] theorem Port.leave_cells (p : Port) (cs : List Nat) : (p.leave cs).cells = p.cells := by
  unfold Port.leave
  rw [Port.drain_cells]
  induction cs generalizing p with
  | nil => rfl
  | cons c t ih => exact ih (p.forget c)

/-! ### The lowest FREE cell (R148) -/

/-- The lowest FREE cell is FREE, and no lower cell is. -/
theorem Port.lowestFree_some {p : Port} {c : Nat} (h : p.lowestFree = some c) :
    p.cell c = some .free ∧ ∀ d, d < c → p.cell d ≠ some .free := by
  unfold Port.lowestFree at h
  obtain ⟨i, hi, rfl⟩ := Option.map_eq_some_iff.1 h
  rw [List.findIdx?_eq_some_iff_getElem] at hi
  obtain ⟨hl, hp, hn⟩ := hi
  have hl' : i < 503 := by simpa using hl
  constructor
  · have := poolIndex_of ⟨i, hl'⟩
    unfold Port.cell
    simp only at this
    rw [this]
    simpa using hp
  · intro d hd hf
    unfold Port.cell at hf
    obtain ⟨j, hj, hj'⟩ := Option.map_eq_some_iff.1 hf
    have := poolIndex_some hj
    have hji : j.val < i := by omega
    have := hn j.val hji
    simp only [Vector.getElem_toList, decide_eq_true_eq] at this
    exact this hj'

/-- There is a FREE cell when the free count is not 0. -/
theorem Port.lowestFree_isSome {p : Port} (h : p.freeCount ≠ 0) : p.lowestFree.isSome = true := by
  unfold Port.lowestFree
  unfold Port.freeCount at h
  rw [Option.isSome_map]
  cases e : p.cells.toList.findIdx? (· = .free) with
  | some i => rfl
  | none =>
    rw [List.findIdx?_eq_none_iff] at e
    exact absurd (List.countP_eq_zero.2 fun x hx => by simpa using e x hx) h

/-! ### What an emission does to cells and memory (R160) -/

/-- Reports take FREE cells only: every other cell keeps its state and its bytes, and a FREE cell stays FREE or
becomes a DELIVERED report. -/
def Port.Reports (p q : Port) : Prop :=
  (∀ c, p.cell c ≠ some .free → q.cell c = p.cell c) ∧
  (p.memory.wf = true → ∀ a, p.cell (a / 256) ≠ some .free → q.memory.read a = p.memory.read a) ∧
  (∀ c, p.cell c = some .free → q.cell c = some .free ∨
    (q.cell c = some .delivered ∧ (p.memory.wf = true → q.headField c 6 1 = Config.reportCode.toNat)))

theorem Port.Reports.refl (p : Port) : p.Reports p := ⟨fun _ _ => rfl, fun _ _ _ => rfl, fun _ h => .inl h⟩

/-- A field of a head lies in its cell. -/
theorem Port.headField_congr {p q : Port} {c i n : Nat} (hi : i + n ≤ 256)
    (h : ∀ a, a / 256 = c → q.memory.read a = p.memory.read a) : q.headField c i n = p.headField c i n := by
  unfold Port.headField cellOffset
  rw [Memory.readAll_eq _ _ fun j h1 h2 => h j (by omega)]

theorem Port.Reports.trans {p q r : Port} (k1 : p.Keeps q) (h : p.Reports q) (k : q.Reports r) : p.Reports r := by
  obtain ⟨h1, h2, h3⟩ := h
  obtain ⟨g1, g2, g3⟩ := k
  have wf : p.memory.wf = true → q.memory.wf = true := k1.wf
  refine ⟨fun c hc => ?_, fun w a ha => ?_, fun c hc => ?_⟩
  · have := h1 c hc
    rw [g1 c (this ▸ hc), this]
  · have := h1 _ ha
    rw [g2 (wf w) a (this ▸ ha), h2 w a ha]
  · rcases h3 c hc with h | ⟨hd, hr⟩
    · rcases g3 c h with g | ⟨gd, gr⟩
      · exact .inl g
      · exact .inr ⟨gd, fun w => gr (wf w)⟩
    · have nf : q.cell c ≠ some .free := by rw [hd]; simp
      refine .inr ⟨by rw [g1 c nf, hd], fun w => ?_⟩
      rw [← hr w]
      exact Port.headField_congr (by omega) fun a ha => g2 (wf w) a (by rw [ha]; exact nf)

/-- Ports that differ in neither cells nor memory. -/
theorem Port.Reports.of_eq {p q : Port} (hc : q.cells = p.cells) (hm : q.memory = p.memory) : p.Reports q :=
  ⟨fun c _ => Port.cell_congr hc c, fun _ _ _ => by rw [hm],
    fun c h => .inl (by rw [Port.cell_congr hc c, h])⟩

theorem flatMap_length_le {α β : Type} (f : α → List β) (n : Nat) (l : List α) (h : ∀ x, (f x).length = n) :
    (l.flatMap f).length = n * l.length := by
  induction l with
  | nil => simp
  | cons a t ih => rw [List.flatMap_cons, List.length_append, h, ih, List.length_cons, Nat.mul_succ, Nat.add_comm]

theorem emitOne_reports (item : PendingSubject → List Byte) (hi : ∀ q, (item q).length = 16) (x : Port × Reports) :
    x.1.Reports (emitOne item x).1 := by
  unfold emitOne
  split
  · exact Port.Reports.refl _
  · rename_i c hc
    have hf := (Port.lowestFree_some hc).1
    have hl : ((x.2.pending.take 15).flatMap item).length ≤ 240 := by
      rw [flatMap_length_le item 16 _ hi]
      have := List.length_take_le 15 x.2.pending
      omega
    have hh : (reportHead (x.2.pending.take 15).length x.2.sequence).length = 16 := rfl
    dsimp only
    have cell_eq : ∀ m d, (Port.setCell (Port.setCell { x.1 with memory := m } c .building) c .delivered).cell d =
        if d = c then (x.1.cell d).map (fun _ => .delivered) else x.1.cell d := by
      intro m d
      rw [Port.cell_setCell, Port.cell_setCell]
      by_cases e : d = c
      · rw [if_pos e, if_pos e, if_pos e]
        show Option.map _ (Option.map _ (x.1.cell d)) = _
        cases x.1.cell d <;> rfl
      · rw [if_neg e, if_neg e, if_neg e]
        rfl
    refine ⟨fun d hd => ?_, fun w a ha => ?_, fun d hd => ?_⟩
    · rw [Port.announce_cell, cell_eq, if_neg fun e : d = c => hd (e ▸ hf)]
    · have hac : a / 256 ≠ c := fun e => ha (e ▸ hf)
      rw [Port.announce_memory, Port.setCell_memory, Port.setCell_memory]
      rw [Memory.read_writeAll _ _ _ (Memory.writeAll_wf _ _ w), if_neg, Memory.read_writeAll _ _ _ w, if_neg]
      · simp only [payloadOffset]
        omega
      · rw [hh]
        simp only [cellOffset]
        omega
    · rw [Port.announce_cell, cell_eq]
      by_cases e : d = c
      · subst e
        refine .inr ⟨by rw [if_pos rfl, hf]; rfl, fun w => ?_⟩
        unfold Port.headField
        rw [Port.announce_memory, Port.setCell_memory, Port.setCell_memory]
        simp only [Memory.readAll]
        rw [Memory.read_writeAll _ _ _ (Memory.writeAll_wf _ _ w), if_pos (by rw [hh]; simp only [cellOffset]; omega)]
        have : cellOffset d 6 - cellOffset d 0 = 6 := by simp only [cellOffset]; omega
        rw [this]
        rfl
      · exact .inl (by rw [if_neg e, hd])

theorem emitLoop_reports (item : PendingSubject → List Byte) (hi : ∀ q, (item q).length = 16) (reserve n : Nat)
    (x : Port × Reports) : x.1.Reports (emitLoop item reserve n x).1 := by
  induction n generalizing x with
  | zero => exact Port.Reports.refl _
  | succ n ih =>
    unfold emitLoop
    split
    · exact Port.Reports.refl _
    · exact Port.Reports.trans (emitOne_keeps item x).1 (emitOne_reports item hi x) (ih _)

theorem emitAttempt_reports (item : PendingSubject → List Byte) (hi : ∀ q, (item q).length = 16) (reserve : Nat)
    (x : Port × Reports) : x.1.Reports (emitAttempt item reserve x).1 := by
  unfold emitAttempt
  split
  · exact Port.Reports.refl _
  · split
    · exact Port.Reports.of_eq rfl rfl
    · exact emitLoop_reports item hi reserve _ x

/-- Every report item holds 16 bytes (R162). -/
theorem State.item_length (s : State) (q : PendingSubject) : (s.item q).length = 16 := by
  unfold State.item
  split
  · simp [State.channelItem, stepField, half]
  · simp [State.zoneItem, half]
  · simp [State.stageItem]

theorem State.attempt_keeps (s : State) : s.port.Keeps s.attempt.port := (emitAttempt_keeps _ _ _).1

theorem State.attempt_reports (s : State) : s.port.Reports s.attempt.port := emitAttempt_reports s.item s.item_length s.site.params.reserve (s.port, s.reports)

theorem State.mark_keeps (s : State) (x : Subject) (f : Byte) (h : Option (Nat × Nat)) :
    s.port.Keeps (s.mark x f h).port := (emitAttempt_keeps _ _ _).1

theorem State.mark_reports (s : State) (x : Subject) (f : Byte) (h : Option (Nat × Nat)) :
    s.port.Reports (s.mark x f h).port :=
  State.attempt_reports
    { s with reports := { s.reports with pending := addMark x f h s.reports.pending } }

end Sys2Proof.Machine
end

