-- ==== Sys2Proof/Laws/Emission.lean ====
section
/-! SUPPORT. What an attempt to emit looks at (R160). -/

namespace Sys2Proof.Machine

/-- An attempt to emit looks at the port, the pending set, the items and the reserve alone. -/
theorem State.attempt_congr {x y : State} (port : x.port = y.port) (reports : x.reports = y.reports)
    (item : x.item = y.item) (reserve : x.site.params.reserve = y.site.params.reserve) :
    x.attempt.port = y.attempt.port ∧ x.attempt.reports = y.attempt.reports := by
  unfold State.attempt
  simp only [port, reports, item, reserve, and_self]

end Sys2Proof.Machine
end

