-- ==== Sys2Proof/Laws/State.lean ====
section
/-! SUPPORT. What each update of the state does to each field: one lemma for a field and an update. -/

namespace Sys2Proof.Machine

/-! ### `withPort` -/

@[simp] theorem State.withPort_site (s : State) (p : Port) : (s.withPort p).site = s.site := rfl
@[simp] theorem State.withPort_plan (s : State) (p : Port) : (s.withPort p).plan = s.plan := rfl
@[simp] theorem State.withPort_census (s : State) (p : Port) : (s.withPort p).census = s.census := rfl
@[simp] theorem State.withPort_spares (s : State) (p : Port) : (s.withPort p).spares = s.spares := rfl
@[simp] theorem State.withPort_links (s : State) (p : Port) : (s.withPort p).links = s.links := rfl
@[simp] theorem State.withPort_zones (s : State) (p : Port) : (s.withPort p).zones = s.zones := rfl
@[simp] theorem State.withPort_engine (s : State) (p : Port) : (s.withPort p).engine = s.engine := rfl
@[simp] theorem State.withPort_port (s : State) (p : Port) : (s.withPort p).port = p := rfl
@[simp] theorem State.withPort_reports (s : State) (p : Port) : (s.withPort p).reports = s.reports := rfl
@[simp] theorem State.withPort_now (s : State) (p : Port) : (s.withPort p).now = s.now := rfl
@[simp] theorem State.withPort_free (s : State) (p : Port) : (s.withPort p).free = s.free := rfl
@[simp] theorem State.withPort_pending (s : State) (p : Port) : (s.withPort p).pending = s.pending := rfl

/-! ### `misuse` -/

@[simp] theorem State.misuse_site (s : State) : (s.misuse).site = s.site := rfl
@[simp] theorem State.misuse_plan (s : State) : (s.misuse).plan = s.plan := rfl
@[simp] theorem State.misuse_census (s : State) : (s.misuse).census = s.census := rfl
@[simp] theorem State.misuse_spares (s : State) : (s.misuse).spares = s.spares := rfl
@[simp] theorem State.misuse_links (s : State) : (s.misuse).links = s.links := rfl
@[simp] theorem State.misuse_zones (s : State) : (s.misuse).zones = s.zones := rfl
@[simp] theorem State.misuse_engine (s : State) : (s.misuse).engine = s.engine := rfl
@[simp] theorem State.misuse_port (s : State) : (s.misuse).port = s.port.raise faultBit := rfl
@[simp] theorem State.misuse_reports (s : State) : (s.misuse).reports = s.reports := rfl
@[simp] theorem State.misuse_now (s : State) : (s.misuse).now = s.now := rfl
@[simp] theorem State.misuse_free (s : State) : (s.misuse).free = s.free := rfl
@[simp] theorem State.misuse_pending (s : State) : (s.misuse).pending = s.pending := rfl

/-! ### `begin` -/

@[simp] theorem State.begin_site (s : State) (u : Bool) (o : Handed) : (s.begin u o).site = s.site := rfl
@[simp] theorem State.begin_plan (s : State) (u : Bool) (o : Handed) : (s.begin u o).plan = s.plan := rfl
@[simp] theorem State.begin_census (s : State) (u : Bool) (o : Handed) : (s.begin u o).census = s.census := rfl
@[simp] theorem State.begin_spares (s : State) (u : Bool) (o : Handed) : (s.begin u o).spares = s.spares := rfl
@[simp] theorem State.begin_links (s : State) (u : Bool) (o : Handed) : (s.begin u o).links = s.links := rfl
@[simp] theorem State.begin_zones (s : State) (u : Bool) (o : Handed) : (s.begin u o).zones = s.zones := rfl
@[simp] theorem State.begin_engine (s : State) (u : Bool) (o : Handed) :
    (s.begin u o).engine = s.engine.begin u := rfl
@[simp] theorem State.begin_port (s : State) (u : Bool) (o : Handed) :
    (s.begin u o).port = s.port.setCells o.cells .active := rfl
@[simp] theorem State.begin_reports (s : State) (u : Bool) (o : Handed) : (s.begin u o).reports = s.reports := rfl
@[simp] theorem State.begin_now (s : State) (u : Bool) (o : Handed) : (s.begin u o).now = s.now := rfl
@[simp] theorem State.begin_free (s : State) (u : Bool) (o : Handed) : (s.begin u o).free = s.free := rfl
@[simp] theorem State.begin_pending (s : State) (u : Bool) (o : Handed) : (s.begin u o).pending = s.pending := rfl

/-! ### `beginEntry` -/

@[simp] theorem State.beginEntry_site (s : State) (u : Bool) : (s.beginEntry u).site = s.site := rfl
@[simp] theorem State.beginEntry_plan (s : State) (u : Bool) : (s.beginEntry u).plan = s.plan := rfl
@[simp] theorem State.beginEntry_census (s : State) (u : Bool) : (s.beginEntry u).census = s.census := rfl
@[simp] theorem State.beginEntry_spares (s : State) (u : Bool) : (s.beginEntry u).spares = s.spares := rfl
@[simp] theorem State.beginEntry_links (s : State) (u : Bool) : (s.beginEntry u).links = s.links := rfl
@[simp] theorem State.beginEntry_zones (s : State) (u : Bool) : (s.beginEntry u).zones = s.zones := rfl
@[simp] theorem State.beginEntry_engine (s : State) (u : Bool) : (s.beginEntry u).engine = s.engine.begin u := rfl
@[simp] theorem State.beginEntry_port (s : State) (u : Bool) : (s.beginEntry u).port = s.port := rfl
@[simp] theorem State.beginEntry_reports (s : State) (u : Bool) : (s.beginEntry u).reports = s.reports := rfl
@[simp] theorem State.beginEntry_now (s : State) (u : Bool) : (s.beginEntry u).now = s.now := rfl
@[simp] theorem State.beginEntry_free (s : State) (u : Bool) : (s.beginEntry u).free = s.free := rfl
@[simp] theorem State.beginEntry_pending (s : State) (u : Bool) : (s.beginEntry u).pending = s.pending := rfl

/-! ### `release` -/

@[simp] theorem State.release_site (s : State) : (s.release).site = s.site := rfl
@[simp] theorem State.release_plan (s : State) : (s.release).plan = s.plan := rfl
@[simp] theorem State.release_census (s : State) : (s.release).census = s.census := rfl
@[simp] theorem State.release_spares (s : State) : (s.release).spares = s.spares := rfl
@[simp] theorem State.release_links (s : State) : (s.release).links = s.links := rfl
@[simp] theorem State.release_zones (s : State) : (s.release).zones = s.zones := rfl
@[simp] theorem State.release_engine (s : State) : (s.release).engine = s.engine.release := rfl
@[simp] theorem State.release_port (s : State) : (s.release).port = s.port := rfl
@[simp] theorem State.release_reports (s : State) : (s.release).reports = s.reports := rfl
@[simp] theorem State.release_now (s : State) : (s.release).now = s.now := rfl
@[simp] theorem State.release_free (s : State) : (s.release).free = s.free := rfl
@[simp] theorem State.release_pending (s : State) : (s.release).pending = s.pending := rfl

/-! ### `yieldWith` -/

@[simp] theorem State.yieldWith_site (s : State) (w : Work) : (s.yieldWith w).site = s.site := rfl
@[simp] theorem State.yieldWith_plan (s : State) (w : Work) : (s.yieldWith w).plan = s.plan := rfl
@[simp] theorem State.yieldWith_census (s : State) (w : Work) : (s.yieldWith w).census = s.census := rfl
@[simp] theorem State.yieldWith_spares (s : State) (w : Work) : (s.yieldWith w).spares = s.spares := rfl
@[simp] theorem State.yieldWith_links (s : State) (w : Work) : (s.yieldWith w).links = s.links := rfl
@[simp] theorem State.yieldWith_zones (s : State) (w : Work) : (s.yieldWith w).zones = s.zones := rfl
@[simp] theorem State.yieldWith_port (s : State) (w : Work) : (s.yieldWith w).port = s.port := rfl
@[simp] theorem State.yieldWith_reports (s : State) (w : Work) : (s.yieldWith w).reports = s.reports := rfl
@[simp] theorem State.yieldWith_now (s : State) (w : Work) : (s.yieldWith w).now = s.now := rfl
@[simp] theorem State.yieldWith_free (s : State) (w : Work) : (s.yieldWith w).free = s.free := rfl
@[simp] theorem State.yieldWith_pending (s : State) (w : Work) : (s.yieldWith w).pending = s.pending := rfl

/-! ### `runWith` -/

@[simp] theorem State.runWith_site (s : State) (w : Work) : (s.runWith w).site = s.site := rfl
@[simp] theorem State.runWith_plan (s : State) (w : Work) : (s.runWith w).plan = s.plan := rfl
@[simp] theorem State.runWith_census (s : State) (w : Work) : (s.runWith w).census = s.census := rfl
@[simp] theorem State.runWith_spares (s : State) (w : Work) : (s.runWith w).spares = s.spares := rfl
@[simp] theorem State.runWith_links (s : State) (w : Work) : (s.runWith w).links = s.links := rfl
@[simp] theorem State.runWith_zones (s : State) (w : Work) : (s.runWith w).zones = s.zones := rfl
@[simp] theorem State.runWith_engine (s : State) (w : Work) :
    (s.runWith w).engine = { s.engine with routineContext := .running w } := rfl
@[simp] theorem State.runWith_port (s : State) (w : Work) : (s.runWith w).port = s.port := rfl
@[simp] theorem State.runWith_reports (s : State) (w : Work) : (s.runWith w).reports = s.reports := rfl
@[simp] theorem State.runWith_now (s : State) (w : Work) : (s.runWith w).now = s.now := rfl
@[simp] theorem State.runWith_free (s : State) (w : Work) : (s.runWith w).free = s.free := rfl
@[simp] theorem State.runWith_pending (s : State) (w : Work) : (s.runWith w).pending = s.pending := rfl

/-! ### `idleRoutine` -/

@[simp] theorem State.idleRoutine_site (s : State) : (s.idleRoutine).site = s.site := rfl
@[simp] theorem State.idleRoutine_plan (s : State) : (s.idleRoutine).plan = s.plan := rfl
@[simp] theorem State.idleRoutine_census (s : State) : (s.idleRoutine).census = s.census := rfl
@[simp] theorem State.idleRoutine_spares (s : State) : (s.idleRoutine).spares = s.spares := rfl
@[simp] theorem State.idleRoutine_links (s : State) : (s.idleRoutine).links = s.links := rfl
@[simp] theorem State.idleRoutine_zones (s : State) : (s.idleRoutine).zones = s.zones := rfl
@[simp] theorem State.idleRoutine_engine (s : State) :
    (s.idleRoutine).engine = { s.engine with routineContext := .idle } := rfl
@[simp] theorem State.idleRoutine_port (s : State) : (s.idleRoutine).port = s.port := rfl
@[simp] theorem State.idleRoutine_reports (s : State) : (s.idleRoutine).reports = s.reports := rfl
@[simp] theorem State.idleRoutine_now (s : State) : (s.idleRoutine).now = s.now := rfl
@[simp] theorem State.idleRoutine_free (s : State) : (s.idleRoutine).free = s.free := rfl
@[simp] theorem State.idleRoutine_pending (s : State) : (s.idleRoutine).pending = s.pending := rfl

/-! ### `draw` -/

@[simp] theorem State.draw_site (s : State) (n : Nat) : (s.draw n).site = s.site := rfl
@[simp] theorem State.draw_plan (s : State) (n : Nat) : (s.draw n).plan = s.plan := rfl
@[simp] theorem State.draw_census (s : State) (n : Nat) : (s.draw n).census = s.census := rfl
@[simp] theorem State.draw_spares (s : State) (n : Nat) : (s.draw n).spares = s.spares := rfl
@[simp] theorem State.draw_links (s : State) (n : Nat) : (s.draw n).links = s.links := rfl
@[simp] theorem State.draw_zones (s : State) (n : Nat) : (s.draw n).zones = s.zones := rfl
@[simp] theorem State.draw_engine (s : State) (n : Nat) : (s.draw n).engine = s.engine := rfl
@[simp] theorem State.draw_port (s : State) (n : Nat) : (s.draw n).port = s.port := rfl
@[simp] theorem State.draw_reports (s : State) (n : Nat) : (s.draw n).reports = s.reports := rfl
@[simp] theorem State.draw_now (s : State) (n : Nat) : (s.draw n).now = s.now := rfl
@[simp] theorem State.draw_free (s : State) (n : Nat) : (s.draw n).free = s.free + n := rfl
@[simp] theorem State.draw_pending (s : State) (n : Nat) : (s.draw n).pending = s.pending := rfl

/-! ### `finish` -/

@[simp] theorem State.finish_site (s t : State) : (s.finish t).site = t.site := rfl
@[simp] theorem State.finish_plan (s t : State) : (s.finish t).plan = t.plan := rfl
@[simp] theorem State.finish_census (s t : State) : (s.finish t).census = t.census := rfl
@[simp] theorem State.finish_spares (s t : State) : (s.finish t).spares = t.spares := rfl
@[simp] theorem State.finish_links (s t : State) : (s.finish t).links = t.links := rfl
@[simp] theorem State.finish_zones (s t : State) : (s.finish t).zones = t.zones := rfl
@[simp] theorem State.finish_engine (s t : State) : (s.finish t).engine = t.engine := rfl
@[simp] theorem State.finish_reports (s t : State) : (s.finish t).reports = t.reports := rfl
@[simp] theorem State.finish_now (s t : State) : (s.finish t).now = t.now := rfl
@[simp] theorem State.finish_free (s t : State) : (s.finish t).free = t.free := rfl
@[simp] theorem State.finish_pending (s t : State) : (s.finish t).pending = t.pending := rfl

/-! ### `finishReset` -/

@[simp] theorem State.finishReset_site (s : State) : (s.finishReset).site = s.site := rfl
@[simp] theorem State.finishReset_plan (s : State) : (s.finishReset).plan = s.plan := rfl
@[simp] theorem State.finishReset_census (s : State) : (s.finishReset).census = s.census := rfl
@[simp] theorem State.finishReset_spares (s : State) : (s.finishReset).spares = s.spares := rfl
@[simp] theorem State.finishReset_links (s : State) : (s.finishReset).links = s.links := rfl
@[simp] theorem State.finishReset_zones (s : State) : (s.finishReset).zones = s.zones := rfl
@[simp] theorem State.finishReset_engine (s : State) : (s.finishReset).engine = s.engine := rfl
@[simp] theorem State.finishReset_reports (s : State) : (s.finishReset).reports = s.reports := rfl
@[simp] theorem State.finishReset_now (s : State) : (s.finishReset).now = s.now := rfl
@[simp] theorem State.finishReset_free (s : State) : (s.finishReset).free = s.free := rfl
@[simp] theorem State.finishReset_pending (s : State) : (s.finishReset).pending = s.pending := rfl

/-! ### `onZone` -/

@[simp] theorem State.onZone_site (s : State) (z : Fin 4) (f : Zone → Zone) : (s.onZone z f).site = s.site := rfl
@[simp] theorem State.onZone_plan (s : State) (z : Fin 4) (f : Zone → Zone) : (s.onZone z f).plan = s.plan := rfl
@[simp] theorem State.onZone_census (s : State) (z : Fin 4) (f : Zone → Zone) :
    (s.onZone z f).census = s.census := rfl
@[simp] theorem State.onZone_spares (s : State) (z : Fin 4) (f : Zone → Zone) :
    (s.onZone z f).spares = s.spares := rfl
@[simp] theorem State.onZone_links (s : State) (z : Fin 4) (f : Zone → Zone) : (s.onZone z f).links = s.links := rfl
@[simp] theorem State.onZone_zones (s : State) (z : Fin 4) (f : Zone → Zone) :
    (s.onZone z f).zones = s.zones.set z (f s.zones[z]) := rfl
@[simp] theorem State.onZone_engine (s : State) (z : Fin 4) (f : Zone → Zone) :
    (s.onZone z f).engine = s.engine := rfl
@[simp] theorem State.onZone_port (s : State) (z : Fin 4) (f : Zone → Zone) : (s.onZone z f).port = s.port := rfl
@[simp] theorem State.onZone_reports (s : State) (z : Fin 4) (f : Zone → Zone) :
    (s.onZone z f).reports = s.reports := rfl
@[simp] theorem State.onZone_now (s : State) (z : Fin 4) (f : Zone → Zone) : (s.onZone z f).now = s.now := rfl
@[simp] theorem State.onZone_free (s : State) (z : Fin 4) (f : Zone → Zone) : (s.onZone z f).free = s.free := rfl
@[simp] theorem State.onZone_pending (s : State) (z : Fin 4) (f : Zone → Zone) :
    (s.onZone z f).pending = s.pending := rfl

/-! ### `onLink` -/

@[simp] theorem State.onLink_site (s : State) (z : Fin 4) (f : Link → Link) : (s.onLink z f).site = s.site := rfl
@[simp] theorem State.onLink_plan (s : State) (z : Fin 4) (f : Link → Link) : (s.onLink z f).plan = s.plan := rfl
@[simp] theorem State.onLink_census (s : State) (z : Fin 4) (f : Link → Link) :
    (s.onLink z f).census = s.census := rfl
@[simp] theorem State.onLink_spares (s : State) (z : Fin 4) (f : Link → Link) :
    (s.onLink z f).spares = s.spares := rfl
@[simp] theorem State.onLink_links (s : State) (z : Fin 4) (f : Link → Link) :
    (s.onLink z f).links = s.links.set z (f s.links[z]) := rfl
@[simp] theorem State.onLink_zones (s : State) (z : Fin 4) (f : Link → Link) : (s.onLink z f).zones = s.zones := rfl
@[simp] theorem State.onLink_engine (s : State) (z : Fin 4) (f : Link → Link) :
    (s.onLink z f).engine = s.engine := rfl
@[simp] theorem State.onLink_port (s : State) (z : Fin 4) (f : Link → Link) : (s.onLink z f).port = s.port := rfl
@[simp] theorem State.onLink_reports (s : State) (z : Fin 4) (f : Link → Link) :
    (s.onLink z f).reports = s.reports := rfl
@[simp] theorem State.onLink_now (s : State) (z : Fin 4) (f : Link → Link) : (s.onLink z f).now = s.now := rfl
@[simp] theorem State.onLink_free (s : State) (z : Fin 4) (f : Link → Link) : (s.onLink z f).free = s.free := rfl
@[simp] theorem State.onLink_pending (s : State) (z : Fin 4) (f : Link → Link) :
    (s.onLink z f).pending = s.pending := rfl

/-! ### `queueUpkeep` -/

@[simp] theorem State.queueUpkeep_site (s : State) (l : List (Fin 8)) : (s.queueUpkeep l).site = s.site := rfl
@[simp] theorem State.queueUpkeep_plan (s : State) (l : List (Fin 8)) : (s.queueUpkeep l).plan = s.plan := rfl
@[simp] theorem State.queueUpkeep_census (s : State) (l : List (Fin 8)) : (s.queueUpkeep l).census = s.census := rfl
@[simp] theorem State.queueUpkeep_spares (s : State) (l : List (Fin 8)) : (s.queueUpkeep l).spares = s.spares := rfl
@[simp] theorem State.queueUpkeep_links (s : State) (l : List (Fin 8)) : (s.queueUpkeep l).links = s.links := rfl
@[simp] theorem State.queueUpkeep_zones (s : State) (l : List (Fin 8)) : (s.queueUpkeep l).zones = s.zones := rfl
@[simp] theorem State.queueUpkeep_engine (s : State) (l : List (Fin 8)) :
    (s.queueUpkeep l).engine = { s.engine with routine := s.engine.routine ++ s.upkeepEntries l } := rfl
@[simp] theorem State.queueUpkeep_port (s : State) (l : List (Fin 8)) : (s.queueUpkeep l).port = s.port := rfl
@[simp] theorem State.queueUpkeep_reports (s : State) (l : List (Fin 8)) :
    (s.queueUpkeep l).reports = s.reports := rfl
@[simp] theorem State.queueUpkeep_now (s : State) (l : List (Fin 8)) : (s.queueUpkeep l).now = s.now := rfl
@[simp] theorem State.queueUpkeep_free (s : State) (l : List (Fin 8)) : (s.queueUpkeep l).free = s.free := rfl
@[simp] theorem State.queueUpkeep_pending (s : State) (l : List (Fin 8)) :
    (s.queueUpkeep l).pending = s.pending := rfl

/-! ### `queueUrgent` -/

@[simp] theorem State.queueUrgent_site (s : State) (l : List Entry) : (s.queueUrgent l).site = s.site := rfl
@[simp] theorem State.queueUrgent_plan (s : State) (l : List Entry) : (s.queueUrgent l).plan = s.plan := rfl
@[simp] theorem State.queueUrgent_census (s : State) (l : List Entry) : (s.queueUrgent l).census = s.census := rfl
@[simp] theorem State.queueUrgent_spares (s : State) (l : List Entry) : (s.queueUrgent l).spares = s.spares := rfl
@[simp] theorem State.queueUrgent_links (s : State) (l : List Entry) : (s.queueUrgent l).links = s.links := rfl
@[simp] theorem State.queueUrgent_zones (s : State) (l : List Entry) : (s.queueUrgent l).zones = s.zones := rfl
@[simp] theorem State.queueUrgent_engine (s : State) (l : List Entry) :
    (s.queueUrgent l).engine = { s.engine with urgent := s.engine.urgent ++ l } := rfl
@[simp] theorem State.queueUrgent_port (s : State) (l : List Entry) : (s.queueUrgent l).port = s.port := rfl
@[simp] theorem State.queueUrgent_reports (s : State) (l : List Entry) : (s.queueUrgent l).reports = s.reports := rfl
@[simp] theorem State.queueUrgent_now (s : State) (l : List Entry) : (s.queueUrgent l).now = s.now := rfl
@[simp] theorem State.queueUrgent_free (s : State) (l : List Entry) : (s.queueUrgent l).free = s.free := rfl
@[simp] theorem State.queueUrgent_pending (s : State) (l : List Entry) : (s.queueUrgent l).pending = s.pending := rfl

/-! ### `stale` -/

@[simp] theorem State.stale_site (s : State) (k : CensusCause) : (s.stale k).site = s.site := rfl
@[simp] theorem State.stale_plan (s : State) (k : CensusCause) : (s.stale k).plan = s.plan := rfl
@[simp] theorem State.stale_census (s : State) (k : CensusCause) :
    (s.stale k).census = { s.census with state := .stale, cause := k } := rfl
@[simp] theorem State.stale_spares (s : State) (k : CensusCause) : (s.stale k).spares = s.spares := rfl
@[simp] theorem State.stale_links (s : State) (k : CensusCause) : (s.stale k).links = s.links := rfl
@[simp] theorem State.stale_zones (s : State) (k : CensusCause) : (s.stale k).zones = s.zones := rfl
@[simp] theorem State.stale_engine (s : State) (k : CensusCause) : (s.stale k).engine = s.engine := rfl
@[simp] theorem State.stale_reports (s : State) (k : CensusCause) : (s.stale k).reports = s.reports := rfl
@[simp] theorem State.stale_now (s : State) (k : CensusCause) : (s.stale k).now = s.now := rfl
@[simp] theorem State.stale_free (s : State) (k : CensusCause) : (s.stale k).free = s.free := rfl
@[simp] theorem State.stale_pending (s : State) (k : CensusCause) : (s.stale k).pending = s.pending := rfl

/-! ### `setHold` -/

@[simp] theorem State.setHold_site (s : State) (c : Fin 256) (h : Hold) : (s.setHold c h).site = s.site := rfl
@[simp] theorem State.setHold_plan (s : State) (c : Fin 256) (h : Hold) :
    (s.setHold c h).plan = s.plan.setHold c h := rfl
@[simp] theorem State.setHold_census (s : State) (c : Fin 256) (h : Hold) : (s.setHold c h).census = s.census := rfl
@[simp] theorem State.setHold_spares (s : State) (c : Fin 256) (h : Hold) : (s.setHold c h).spares = s.spares := rfl
@[simp] theorem State.setHold_links (s : State) (c : Fin 256) (h : Hold) : (s.setHold c h).links = s.links := rfl
@[simp] theorem State.setHold_zones (s : State) (c : Fin 256) (h : Hold) : (s.setHold c h).zones = s.zones := rfl
@[simp] theorem State.setHold_engine (s : State) (c : Fin 256) (h : Hold) : (s.setHold c h).engine = s.engine := rfl
@[simp] theorem State.setHold_port (s : State) (c : Fin 256) (h : Hold) : (s.setHold c h).port = s.port := rfl
@[simp] theorem State.setHold_reports (s : State) (c : Fin 256) (h : Hold) :
    (s.setHold c h).reports = s.reports := rfl
@[simp] theorem State.setHold_now (s : State) (c : Fin 256) (h : Hold) : (s.setHold c h).now = s.now := rfl
@[simp] theorem State.setHold_free (s : State) (c : Fin 256) (h : Hold) : (s.setHold c h).free = s.free := rfl
@[simp] theorem State.setHold_pending (s : State) (c : Fin 256) (h : Hold) :
    (s.setHold c h).pending = s.pending := rfl

/-! ### `storeChannel` -/

@[simp] theorem State.storeChannel_site (s : State) (c : Fin 256) (f : ChannelFields) (h : Hold) :
    (s.storeChannel c f h).site = s.site := rfl
@[simp] theorem State.storeChannel_census (s : State) (c : Fin 256) (f : ChannelFields) (h : Hold) :
    (s.storeChannel c f h).census = s.census := rfl
@[simp] theorem State.storeChannel_spares (s : State) (c : Fin 256) (f : ChannelFields) (h : Hold) :
    (s.storeChannel c f h).spares = s.spares := rfl
@[simp] theorem State.storeChannel_links (s : State) (c : Fin 256) (f : ChannelFields) (h : Hold) :
    (s.storeChannel c f h).links = s.links := rfl
@[simp] theorem State.storeChannel_zones (s : State) (c : Fin 256) (f : ChannelFields) (h : Hold) :
    (s.storeChannel c f h).zones = s.zones := rfl
@[simp] theorem State.storeChannel_engine (s : State) (c : Fin 256) (f : ChannelFields) (h : Hold) :
    (s.storeChannel c f h).engine = s.engine := rfl
@[simp] theorem State.storeChannel_port (s : State) (c : Fin 256) (f : ChannelFields) (h : Hold) :
    (s.storeChannel c f h).port = s.port := rfl
@[simp] theorem State.storeChannel_reports (s : State) (c : Fin 256) (f : ChannelFields) (h : Hold) :
    (s.storeChannel c f h).reports = s.reports := rfl
@[simp] theorem State.storeChannel_now (s : State) (c : Fin 256) (f : ChannelFields) (h : Hold) :
    (s.storeChannel c f h).now = s.now := rfl
@[simp] theorem State.storeChannel_free (s : State) (c : Fin 256) (f : ChannelFields) (h : Hold) :
    (s.storeChannel c f h).free = s.free := rfl
@[simp] theorem State.storeChannel_pending (s : State) (c : Fin 256) (f : ChannelFields) (h : Hold) :
    (s.storeChannel c f h).pending = s.pending := rfl

/-! ### `clearMarks` -/

@[simp] theorem State.clearMarks_site (s : State) : (s.clearMarks).site = s.site := rfl
@[simp] theorem State.clearMarks_plan (s : State) : (s.clearMarks).plan = s.plan.clearMarks := rfl
@[simp] theorem State.clearMarks_census (s : State) : (s.clearMarks).census = s.census := rfl
@[simp] theorem State.clearMarks_spares (s : State) : (s.clearMarks).spares = s.spares := rfl
@[simp] theorem State.clearMarks_links (s : State) : (s.clearMarks).links = s.links := rfl
@[simp] theorem State.clearMarks_zones (s : State) : (s.clearMarks).zones = s.zones := rfl
@[simp] theorem State.clearMarks_engine (s : State) : (s.clearMarks).engine = s.engine := rfl
@[simp] theorem State.clearMarks_port (s : State) : (s.clearMarks).port = s.port := rfl
@[simp] theorem State.clearMarks_reports (s : State) : (s.clearMarks).reports = s.reports := rfl
@[simp] theorem State.clearMarks_now (s : State) : (s.clearMarks).now = s.now := rfl
@[simp] theorem State.clearMarks_free (s : State) : (s.clearMarks).free = s.free := rfl
@[simp] theorem State.clearMarks_pending (s : State) : (s.clearMarks).pending = s.pending := rfl

/-! ### `inStageOrder` -/

@[simp] theorem State.inStageOrder_site (s t : State) : (s.inStageOrder t).site = t.site := rfl
@[simp] theorem State.inStageOrder_plan (s t : State) : (s.inStageOrder t).plan = t.plan := rfl
@[simp] theorem State.inStageOrder_census (s t : State) : (s.inStageOrder t).census = t.census := rfl
@[simp] theorem State.inStageOrder_spares (s t : State) : (s.inStageOrder t).spares = t.spares := rfl
@[simp] theorem State.inStageOrder_links (s t : State) : (s.inStageOrder t).links = t.links := rfl
@[simp] theorem State.inStageOrder_zones (s t : State) : (s.inStageOrder t).zones = t.zones := rfl
@[simp] theorem State.inStageOrder_port (s t : State) : (s.inStageOrder t).port = t.port := rfl
@[simp] theorem State.inStageOrder_reports (s t : State) : (s.inStageOrder t).reports = t.reports := rfl
@[simp] theorem State.inStageOrder_now (s t : State) : (s.inStageOrder t).now = t.now := rfl
@[simp] theorem State.inStageOrder_free (s t : State) : (s.inStageOrder t).free = t.free := rfl
@[simp] theorem State.inStageOrder_pending (s t : State) : (s.inStageOrder t).pending = t.pending := rfl
@[simp] theorem State.inStageOrder_engine (s t : State) :
    (s.inStageOrder t).engine = { t.engine with routine := s.engine.routine ++ s.engine.joined t.engine } := rfl

/-! ### `recheck` -/

@[simp] theorem State.recheck_site (s : State) (l : List (Fin 8)) : (s.recheck l).site = s.site := rfl
@[simp] theorem State.recheck_plan (s : State) (l : List (Fin 8)) : (s.recheck l).plan = s.plan := rfl
@[simp] theorem State.recheck_census (s : State) (l : List (Fin 8)) : (s.recheck l).census = s.census := rfl
@[simp] theorem State.recheck_spares (s : State) (l : List (Fin 8)) :
    (s.recheck l).spares = l.foldl (fun v (b : Fin 8) => v.set b (s.rechecked b)) s.spares := rfl
@[simp] theorem State.recheck_links (s : State) (l : List (Fin 8)) : (s.recheck l).links = s.links := rfl
@[simp] theorem State.recheck_zones (s : State) (l : List (Fin 8)) : (s.recheck l).zones = s.zones := rfl
@[simp] theorem State.recheck_port (s : State) (l : List (Fin 8)) : (s.recheck l).port = s.port := rfl
@[simp] theorem State.recheck_reports (s : State) (l : List (Fin 8)) : (s.recheck l).reports = s.reports := rfl
@[simp] theorem State.recheck_now (s : State) (l : List (Fin 8)) : (s.recheck l).now = s.now := rfl
@[simp] theorem State.recheck_free (s : State) (l : List (Fin 8)) : (s.recheck l).free = s.free := rfl
@[simp] theorem State.recheck_pending (s : State) (l : List (Fin 8)) : (s.recheck l).pending = s.pending := rfl

/-! ### `settle` -/

@[simp] theorem State.settle_site (s : State) : (s.settle).site = s.site := rfl
@[simp] theorem State.settle_plan (s : State) : (s.settle).plan = s.plan.bump := rfl
@[simp] theorem State.settle_census (s : State) : (s.settle).census = s.census := rfl
@[simp] theorem State.settle_links (s : State) : (s.settle).links = s.links := rfl
@[simp] theorem State.settle_zones (s : State) : (s.settle).zones = s.zones := rfl
@[simp] theorem State.settle_port (s : State) : (s.settle).port = s.port := rfl
@[simp] theorem State.settle_reports (s : State) : (s.settle).reports = s.reports := rfl
@[simp] theorem State.settle_now (s : State) : (s.settle).now = s.now := rfl
@[simp] theorem State.settle_free (s : State) : (s.settle).free = s.free := rfl
@[simp] theorem State.settle_pending (s : State) : (s.settle).pending = s.pending := rfl

/-! ### `attempt` -/

@[simp] theorem State.attempt_site (s : State) : (s.attempt).site = s.site := rfl
@[simp] theorem State.attempt_plan (s : State) : (s.attempt).plan = s.plan := rfl
@[simp] theorem State.attempt_census (s : State) : (s.attempt).census = s.census := rfl
@[simp] theorem State.attempt_spares (s : State) : (s.attempt).spares = s.spares := rfl
@[simp] theorem State.attempt_links (s : State) : (s.attempt).links = s.links := rfl
@[simp] theorem State.attempt_zones (s : State) : (s.attempt).zones = s.zones := rfl
@[simp] theorem State.attempt_engine (s : State) : (s.attempt).engine = s.engine := rfl
@[simp] theorem State.attempt_now (s : State) : (s.attempt).now = s.now := rfl
@[simp] theorem State.attempt_free (s : State) : (s.attempt).free = s.free := rfl
@[simp] theorem State.attempt_pending (s : State) : (s.attempt).pending = s.pending := rfl

/-! ### `mark` -/

@[simp] theorem State.mark_site (s : State) (x : Subject) (f : Byte) (h : Option (Nat × Nat)) :
    (s.mark x f h).site = s.site := rfl
@[simp] theorem State.mark_plan (s : State) (x : Subject) (f : Byte) (h : Option (Nat × Nat)) :
    (s.mark x f h).plan = s.plan := rfl
@[simp] theorem State.mark_census (s : State) (x : Subject) (f : Byte) (h : Option (Nat × Nat)) :
    (s.mark x f h).census = s.census := rfl
@[simp] theorem State.mark_spares (s : State) (x : Subject) (f : Byte) (h : Option (Nat × Nat)) :
    (s.mark x f h).spares = s.spares := rfl
@[simp] theorem State.mark_links (s : State) (x : Subject) (f : Byte) (h : Option (Nat × Nat)) :
    (s.mark x f h).links = s.links := rfl
@[simp] theorem State.mark_zones (s : State) (x : Subject) (f : Byte) (h : Option (Nat × Nat)) :
    (s.mark x f h).zones = s.zones := rfl
@[simp] theorem State.mark_engine (s : State) (x : Subject) (f : Byte) (h : Option (Nat × Nat)) :
    (s.mark x f h).engine = s.engine := rfl
@[simp] theorem State.mark_now (s : State) (x : Subject) (f : Byte) (h : Option (Nat × Nat)) :
    (s.mark x f h).now = s.now := rfl
@[simp] theorem State.mark_free (s : State) (x : Subject) (f : Byte) (h : Option (Nat × Nat)) :
    (s.mark x f h).free = s.free := rfl
@[simp] theorem State.mark_pending (s : State) (x : Subject) (f : Byte) (h : Option (Nat × Nat)) :
    (s.mark x f h).pending = s.pending := rfl

/-! ### `addSpare` -/

@[simp] theorem State.addSpare_site (s : State) (b : Fin 8) (x : Spare) : (s.addSpare b x).site = s.site := rfl
@[simp] theorem State.addSpare_plan (s : State) (b : Fin 8) (x : Spare) : (s.addSpare b x).plan = s.plan := rfl
@[simp] theorem State.addSpare_census (s : State) (b : Fin 8) (x : Spare) : (s.addSpare b x).census = s.census := rfl
@[simp] theorem State.addSpare_spares (s : State) (b : Fin 8) (x : Spare) :
    (s.addSpare b x).spares = s.spares.set b (insertSpare x s.spares[b]) := rfl
@[simp] theorem State.addSpare_links (s : State) (b : Fin 8) (x : Spare) : (s.addSpare b x).links = s.links := rfl
@[simp] theorem State.addSpare_zones (s : State) (b : Fin 8) (x : Spare) : (s.addSpare b x).zones = s.zones := rfl
@[simp] theorem State.addSpare_engine (s : State) (b : Fin 8) (x : Spare) : (s.addSpare b x).engine = s.engine := rfl
@[simp] theorem State.addSpare_port (s : State) (b : Fin 8) (x : Spare) : (s.addSpare b x).port = s.port := rfl
@[simp] theorem State.addSpare_reports (s : State) (b : Fin 8) (x : Spare) :
    (s.addSpare b x).reports = s.reports := rfl
@[simp] theorem State.addSpare_now (s : State) (b : Fin 8) (x : Spare) : (s.addSpare b x).now = s.now := rfl
@[simp] theorem State.addSpare_free (s : State) (b : Fin 8) (x : Spare) : (s.addSpare b x).free = s.free := rfl
@[simp] theorem State.addSpare_pending (s : State) (b : Fin 8) (x : Spare) :
    (s.addSpare b x).pending = s.pending := rfl

/-! ### `takeSpare` -/

@[simp] theorem State.takeSpare_site (s : State) (b : Fin 8) (f : Nat) : (s.takeSpare b f).site = s.site := rfl
@[simp] theorem State.takeSpare_plan (s : State) (b : Fin 8) (f : Nat) : (s.takeSpare b f).plan = s.plan := rfl
@[simp] theorem State.takeSpare_census (s : State) (b : Fin 8) (f : Nat) : (s.takeSpare b f).census = s.census := rfl
@[simp] theorem State.takeSpare_spares (s : State) (b : Fin 8) (f : Nat) :
    (s.takeSpare b f).spares = s.spares.set b (s.spares[b].eraseP fun x => x.step = f) := rfl
@[simp] theorem State.takeSpare_links (s : State) (b : Fin 8) (f : Nat) : (s.takeSpare b f).links = s.links := rfl
@[simp] theorem State.takeSpare_zones (s : State) (b : Fin 8) (f : Nat) : (s.takeSpare b f).zones = s.zones := rfl
@[simp] theorem State.takeSpare_port (s : State) (b : Fin 8) (f : Nat) : (s.takeSpare b f).port = s.port := rfl
@[simp] theorem State.takeSpare_reports (s : State) (b : Fin 8) (f : Nat) :
    (s.takeSpare b f).reports = s.reports := rfl
@[simp] theorem State.takeSpare_now (s : State) (b : Fin 8) (f : Nat) : (s.takeSpare b f).now = s.now := rfl
@[simp] theorem State.takeSpare_free (s : State) (b : Fin 8) (f : Nat) : (s.takeSpare b f).free = s.free := rfl
@[simp] theorem State.takeSpare_pending (s : State) (b : Fin 8) (f : Nat) :
    (s.takeSpare b f).pending = s.pending := rfl

/-! ### `dropSpares` -/

@[simp] theorem State.dropSpares_site (s : State) (z : Fin 4) (j : Fin 64) : (s.dropSpares z j).site = s.site := rfl
@[simp] theorem State.dropSpares_plan (s : State) (z : Fin 4) (j : Fin 64) : (s.dropSpares z j).plan = s.plan := rfl
@[simp] theorem State.dropSpares_census (s : State) (z : Fin 4) (j : Fin 64) :
    (s.dropSpares z j).census = s.census := rfl
@[simp] theorem State.dropSpares_links (s : State) (z : Fin 4) (j : Fin 64) :
    (s.dropSpares z j).links = s.links := rfl
@[simp] theorem State.dropSpares_zones (s : State) (z : Fin 4) (j : Fin 64) :
    (s.dropSpares z j).zones = s.zones := rfl
@[simp] theorem State.dropSpares_port (s : State) (z : Fin 4) (j : Fin 64) : (s.dropSpares z j).port = s.port := rfl
@[simp] theorem State.dropSpares_reports (s : State) (z : Fin 4) (j : Fin 64) :
    (s.dropSpares z j).reports = s.reports := rfl
@[simp] theorem State.dropSpares_now (s : State) (z : Fin 4) (j : Fin 64) : (s.dropSpares z j).now = s.now := rfl
@[simp] theorem State.dropSpares_free (s : State) (z : Fin 4) (j : Fin 64) : (s.dropSpares z j).free = s.free := rfl
@[simp] theorem State.dropSpares_pending (s : State) (z : Fin 4) (j : Fin 64) :
    (s.dropSpares z j).pending = s.pending := rfl

/-! ### `flush` -/

@[simp] theorem State.flush_site (s : State) (m : BitVec 8) : (s.flush m).site = s.site := rfl
@[simp] theorem State.flush_plan (s : State) (m : BitVec 8) : (s.flush m).plan = s.plan := rfl
@[simp] theorem State.flush_census (s : State) (m : BitVec 8) : (s.flush m).census = s.census := rfl
@[simp] theorem State.flush_links (s : State) (m : BitVec 8) : (s.flush m).links = s.links := rfl
@[simp] theorem State.flush_zones (s : State) (m : BitVec 8) : (s.flush m).zones = s.zones := rfl
@[simp] theorem State.flush_engine (s : State) (m : BitVec 8) : (s.flush m).engine = s.engine := rfl
@[simp] theorem State.flush_port (s : State) (m : BitVec 8) : (s.flush m).port = s.port := rfl
@[simp] theorem State.flush_reports (s : State) (m : BitVec 8) : (s.flush m).reports = s.reports := rfl
@[simp] theorem State.flush_now (s : State) (m : BitVec 8) : (s.flush m).now = s.now := rfl
@[simp] theorem State.flush_free (s : State) (m : BitVec 8) : (s.flush m).free = s.free := rfl
@[simp] theorem State.flush_pending (s : State) (m : BitVec 8) : (s.flush m).pending = s.pending := rfl

/-! ### `withReceiver` -/

@[simp] theorem State.withReceiver_site (s : State) (z : Fin 4) (l : List Byte) :
    (s.withReceiver z l).site = s.site := rfl
@[simp] theorem State.withReceiver_plan (s : State) (z : Fin 4) (l : List Byte) :
    (s.withReceiver z l).plan = s.plan := rfl
@[simp] theorem State.withReceiver_census (s : State) (z : Fin 4) (l : List Byte) :
    (s.withReceiver z l).census = s.census := rfl
@[simp] theorem State.withReceiver_spares (s : State) (z : Fin 4) (l : List Byte) :
    (s.withReceiver z l).spares = s.spares := rfl
@[simp] theorem State.withReceiver_zones (s : State) (z : Fin 4) (l : List Byte) :
    (s.withReceiver z l).zones = s.zones := rfl
@[simp] theorem State.withReceiver_engine (s : State) (z : Fin 4) (l : List Byte) :
    (s.withReceiver z l).engine = s.engine := rfl
@[simp] theorem State.withReceiver_port (s : State) (z : Fin 4) (l : List Byte) :
    (s.withReceiver z l).port = s.port := rfl
@[simp] theorem State.withReceiver_reports (s : State) (z : Fin 4) (l : List Byte) :
    (s.withReceiver z l).reports = s.reports := rfl
@[simp] theorem State.withReceiver_now (s : State) (z : Fin 4) (l : List Byte) :
    (s.withReceiver z l).now = s.now := rfl
@[simp] theorem State.withReceiver_free (s : State) (z : Fin 4) (l : List Byte) :
    (s.withReceiver z l).free = s.free := rfl
@[simp] theorem State.withReceiver_pending (s : State) (z : Fin 4) (l : List Byte) :
    (s.withReceiver z l).pending = s.pending := rfl

/-! ### `takeByte` -/

@[simp] theorem State.takeByte_site (s : State) (z : Fin 4) (b : Byte) (l : List Byte) :
    (s.takeByte z b l).site = s.site := rfl
@[simp] theorem State.takeByte_plan (s : State) (z : Fin 4) (b : Byte) (l : List Byte) :
    (s.takeByte z b l).plan = s.plan := rfl
@[simp] theorem State.takeByte_census (s : State) (z : Fin 4) (b : Byte) (l : List Byte) :
    (s.takeByte z b l).census = s.census := rfl
@[simp] theorem State.takeByte_spares (s : State) (z : Fin 4) (b : Byte) (l : List Byte) :
    (s.takeByte z b l).spares = s.spares := rfl
@[simp] theorem State.takeByte_zones (s : State) (z : Fin 4) (b : Byte) (l : List Byte) :
    (s.takeByte z b l).zones = s.zones := rfl
@[simp] theorem State.takeByte_engine (s : State) (z : Fin 4) (b : Byte) (l : List Byte) :
    (s.takeByte z b l).engine = s.engine := rfl
@[simp] theorem State.takeByte_port (s : State) (z : Fin 4) (b : Byte) (l : List Byte) :
    (s.takeByte z b l).port = s.port := rfl
@[simp] theorem State.takeByte_reports (s : State) (z : Fin 4) (b : Byte) (l : List Byte) :
    (s.takeByte z b l).reports = s.reports := rfl
@[simp] theorem State.takeByte_now (s : State) (z : Fin 4) (b : Byte) (l : List Byte) :
    (s.takeByte z b l).now = s.now := rfl
@[simp] theorem State.takeByte_free (s : State) (z : Fin 4) (b : Byte) (l : List Byte) :
    (s.takeByte z b l).free = s.free := rfl
@[simp] theorem State.takeByte_pending (s : State) (z : Fin 4) (b : Byte) (l : List Byte) :
    (s.takeByte z b l).pending = s.pending := rfl

/-! ### `idle` -/

@[simp] theorem State.idle_site (s : State) : (s.idle).site = s.site := rfl
@[simp] theorem State.idle_plan (s : State) : (s.idle).plan = s.plan := rfl
@[simp] theorem State.idle_census (s : State) : (s.idle).census = s.census := rfl
@[simp] theorem State.idle_spares (s : State) : (s.idle).spares = s.spares := rfl
@[simp] theorem State.idle_links (s : State) : (s.idle).links = s.links := rfl
@[simp] theorem State.idle_zones (s : State) : (s.idle).zones = s.zones := rfl
@[simp] theorem State.idle_engine (s : State) : (s.idle).engine = s.engine := rfl
@[simp] theorem State.idle_port (s : State) : (s.idle).port = s.port := rfl
@[simp] theorem State.idle_reports (s : State) : (s.idle).reports = s.reports := rfl
@[simp] theorem State.idle_now (s : State) : (s.idle).now = s.now + 1 := rfl
@[simp] theorem State.idle_free (s : State) : (s.idle).free = s.free := rfl
@[simp] theorem State.idle_pending (s : State) : (s.idle).pending = s.pending := rfl

/-! ### `accept` -/

@[simp] theorem State.accept_site (s : State) (o : Handed) : (s.accept o).site = s.site := rfl
@[simp] theorem State.accept_plan (s : State) (o : Handed) : (s.accept o).plan = s.plan := rfl
@[simp] theorem State.accept_census (s : State) (o : Handed) : (s.accept o).census = s.census := rfl
@[simp] theorem State.accept_spares (s : State) (o : Handed) : (s.accept o).spares = s.spares := rfl
@[simp] theorem State.accept_links (s : State) (o : Handed) : (s.accept o).links = s.links := rfl
@[simp] theorem State.accept_zones (s : State) (o : Handed) : (s.accept o).zones = s.zones := rfl
@[simp] theorem State.accept_engine (s : State) (o : Handed) : (s.accept o).engine = s.engine.join o := rfl
@[simp] theorem State.accept_port (s : State) (o : Handed) :
    (s.accept o).port = (s.port.setCells o.cells .queued).leave o.cells := rfl
@[simp] theorem State.accept_reports (s : State) (o : Handed) : (s.accept o).reports = s.reports := rfl
@[simp] theorem State.accept_now (s : State) (o : Handed) : (s.accept o).now = s.now := rfl
@[simp] theorem State.accept_free (s : State) (o : Handed) : (s.accept o).free = s.free := rfl
@[simp] theorem State.accept_pending (s : State) (o : Handed) : (s.accept o).pending = s.pending := rfl

/-! ### `turnAway` -/

@[simp] theorem State.turnAway_site (s : State) (c : Nat) (r : Reason) : (s.turnAway c r).site = s.site := rfl
@[simp] theorem State.turnAway_plan (s : State) (c : Nat) (r : Reason) : (s.turnAway c r).plan = s.plan := rfl
@[simp] theorem State.turnAway_census (s : State) (c : Nat) (r : Reason) : (s.turnAway c r).census = s.census := rfl
@[simp] theorem State.turnAway_spares (s : State) (c : Nat) (r : Reason) : (s.turnAway c r).spares = s.spares := rfl
@[simp] theorem State.turnAway_links (s : State) (c : Nat) (r : Reason) : (s.turnAway c r).links = s.links := rfl
@[simp] theorem State.turnAway_zones (s : State) (c : Nat) (r : Reason) : (s.turnAway c r).zones = s.zones := rfl
@[simp] theorem State.turnAway_engine (s : State) (c : Nat) (r : Reason) : (s.turnAway c r).engine = s.engine := rfl
@[simp] theorem State.turnAway_reports (s : State) (c : Nat) (r : Reason) :
    (s.turnAway c r).reports = s.reports := rfl
@[simp] theorem State.turnAway_now (s : State) (c : Nat) (r : Reason) : (s.turnAway c r).now = s.now := rfl
@[simp] theorem State.turnAway_free (s : State) (c : Nat) (r : Reason) : (s.turnAway c r).free = s.free := rfl
@[simp] theorem State.turnAway_pending (s : State) (c : Nat) (r : Reason) :
    (s.turnAway c r).pending = s.pending := rfl

/-! ### `quietEnd` -/

@[simp] theorem State.quietEnd_site (s : State) (o : Handed) : (s.quietEnd o).site = s.site := rfl
@[simp] theorem State.quietEnd_plan (s : State) (o : Handed) : (s.quietEnd o).plan = s.plan := rfl
@[simp] theorem State.quietEnd_census (s : State) (o : Handed) : (s.quietEnd o).census = s.census := rfl
@[simp] theorem State.quietEnd_spares (s : State) (o : Handed) : (s.quietEnd o).spares = s.spares := rfl
@[simp] theorem State.quietEnd_links (s : State) (o : Handed) : (s.quietEnd o).links = s.links := rfl
@[simp] theorem State.quietEnd_zones (s : State) (o : Handed) : (s.quietEnd o).zones = s.zones := rfl
@[simp] theorem State.quietEnd_engine (s : State) (o : Handed) : (s.quietEnd o).engine = s.engine := rfl
@[simp] theorem State.quietEnd_now (s : State) (o : Handed) : (s.quietEnd o).now = s.now := rfl
@[simp] theorem State.quietEnd_free (s : State) (o : Handed) : (s.quietEnd o).free = s.free := rfl
@[simp] theorem State.quietEnd_pending (s : State) (o : Handed) : (s.quietEnd o).pending = s.pending := rfl

/-! ### `close` -/

@[simp] theorem State.close_site (s : State) (o : Handed) (x : OrderOutcome) (r : Reason) (a : Word) (l : List (List Byte)) :
    (s.close o x r a l).site = s.site := by
  unfold State.close
  split <;> rfl

@[simp] theorem State.close_plan (s : State) (o : Handed) (x : OrderOutcome) (r : Reason) (a : Word) (l : List (List Byte)) :
    (s.close o x r a l).plan = s.plan := by
  unfold State.close
  split <;> rfl

@[simp] theorem State.close_census (s : State) (o : Handed) (x : OrderOutcome) (r : Reason) (a : Word) (l : List (List Byte)) :
    (s.close o x r a l).census = s.census := by
  unfold State.close
  split <;> rfl

@[simp] theorem State.close_spares (s : State) (o : Handed) (x : OrderOutcome) (r : Reason) (a : Word) (l : List (List Byte)) :
    (s.close o x r a l).spares = s.spares := by
  unfold State.close
  split <;> rfl

@[simp] theorem State.close_links (s : State) (o : Handed) (x : OrderOutcome) (r : Reason) (a : Word) (l : List (List Byte)) :
    (s.close o x r a l).links = s.links := by
  unfold State.close
  split <;> rfl

@[simp] theorem State.close_zones (s : State) (o : Handed) (x : OrderOutcome) (r : Reason) (a : Word) (l : List (List Byte)) :
    (s.close o x r a l).zones = s.zones := by
  unfold State.close
  split <;> rfl

@[simp] theorem State.close_engine (s : State) (o : Handed) (x : OrderOutcome) (r : Reason) (a : Word) (l : List (List Byte)) :
    (s.close o x r a l).engine = s.engine := by
  unfold State.close
  split <;> rfl

@[simp] theorem State.close_now (s : State) (o : Handed) (x : OrderOutcome) (r : Reason) (a : Word) (l : List (List Byte)) :
    (s.close o x r a l).now = s.now := by
  unfold State.close
  split <;> rfl

@[simp] theorem State.close_free (s : State) (o : Handed) (x : OrderOutcome) (r : Reason) (a : Word) (l : List (List Byte)) :
    (s.close o x r a l).free = s.free := by
  unfold State.close
  split <;> rfl

@[simp] theorem State.close_pending (s : State) (o : Handed) (x : OrderOutcome) (r : Reason) (a : Word) (l : List (List Byte)) :
    (s.close o x r a l).pending = s.pending := by
  unfold State.close
  split <;> rfl

/-! ### `queueRebuild` -/

@[simp] theorem State.queueRebuild_site (s : State) :
    (s.queueRebuild).site = s.site := by
  unfold State.queueRebuild
  split <;> rfl

@[simp] theorem State.queueRebuild_plan (s : State) :
    (s.queueRebuild).plan = s.plan := by
  unfold State.queueRebuild
  split <;> rfl

@[simp] theorem State.queueRebuild_census (s : State) :
    (s.queueRebuild).census = s.census := by
  unfold State.queueRebuild
  split <;> rfl

@[simp] theorem State.queueRebuild_spares (s : State) :
    (s.queueRebuild).spares = s.spares := by
  unfold State.queueRebuild
  split <;> rfl

@[simp] theorem State.queueRebuild_links (s : State) :
    (s.queueRebuild).links = s.links := by
  unfold State.queueRebuild
  split <;> rfl

@[simp] theorem State.queueRebuild_zones (s : State) :
    (s.queueRebuild).zones = s.zones := by
  unfold State.queueRebuild
  split <;> rfl

@[simp] theorem State.queueRebuild_port (s : State) :
    (s.queueRebuild).port = s.port := by
  unfold State.queueRebuild
  split <;> rfl

@[simp] theorem State.queueRebuild_reports (s : State) :
    (s.queueRebuild).reports = s.reports := by
  unfold State.queueRebuild
  split <;> rfl

@[simp] theorem State.queueRebuild_now (s : State) :
    (s.queueRebuild).now = s.now := by
  unfold State.queueRebuild
  split <;> rfl

@[simp] theorem State.queueRebuild_free (s : State) :
    (s.queueRebuild).free = s.free := by
  unfold State.queueRebuild
  split <;> rfl

@[simp] theorem State.queueRebuild_pending (s : State) :
    (s.queueRebuild).pending = s.pending := by
  unfold State.queueRebuild
  split <;> rfl

/-! ### `added` -/

@[simp] theorem State.added_site (s : State) (x : Transmitter) :
    (s.added x).site = s.site := by
  unfold State.added
  repeat' first | rfl | split | dsimp only

@[simp] theorem State.added_links (s : State) (x : Transmitter) :
    (s.added x).links = s.links := by
  unfold State.added
  repeat' first | rfl | split | dsimp only

@[simp] theorem State.added_zones (s : State) (x : Transmitter) :
    (s.added x).zones = s.zones := by
  unfold State.added
  repeat' first | rfl | split | dsimp only

@[simp] theorem State.added_reports (s : State) (x : Transmitter) :
    (s.added x).reports = s.reports := by
  unfold State.added
  repeat' first | rfl | split | dsimp only

@[simp] theorem State.added_now (s : State) (x : Transmitter) :
    (s.added x).now = s.now := by
  unfold State.added
  repeat' first | rfl | split | dsimp only

@[simp] theorem State.added_free (s : State) (x : Transmitter) :
    (s.added x).free = s.free := by
  unfold State.added
  repeat' first | rfl | split | dsimp only

@[simp] theorem State.added_pending (s : State) (x : Transmitter) :
    (s.added x).pending = s.pending := by
  unfold State.added
  repeat' first | rfl | split | dsimp only

/-! ### `removed` -/

@[simp] theorem State.removed_site (s : State) (x : Transmitter) :
    (s.removed x).site = s.site := by
  unfold State.removed
  split <;> rfl

@[simp] theorem State.removed_links (s : State) (x : Transmitter) :
    (s.removed x).links = s.links := by
  unfold State.removed
  split <;> rfl

@[simp] theorem State.removed_zones (s : State) (x : Transmitter) :
    (s.removed x).zones = s.zones := by
  unfold State.removed
  split <;> rfl

@[simp] theorem State.removed_port (s : State) (x : Transmitter) :
    (s.removed x).port = s.port := by
  unfold State.removed
  split <;> rfl

@[simp] theorem State.removed_reports (s : State) (x : Transmitter) :
    (s.removed x).reports = s.reports := by
  unfold State.removed
  split <;> rfl

@[simp] theorem State.removed_now (s : State) (x : Transmitter) :
    (s.removed x).now = s.now := by
  unfold State.removed
  split <;> rfl

@[simp] theorem State.removed_free (s : State) (x : Transmitter) :
    (s.removed x).free = s.free := by
  unfold State.removed
  split <;> rfl

@[simp] theorem State.removed_pending (s : State) (x : Transmitter) :
    (s.removed x).pending = s.pending := by
  unfold State.removed
  split <;> rfl

/-! ### `conclude` -/

@[simp] theorem State.conclude_site (s : State) (o : Handed) (x : OrderOutcome) (r : Reason) (a : Word) (l : List (List Byte)) :
    (s.conclude o x r a l).site = s.site := s.close_site o x r a l

@[simp] theorem State.conclude_plan (s : State) (o : Handed) (x : OrderOutcome) (r : Reason) (a : Word) (l : List (List Byte)) :
    (s.conclude o x r a l).plan = s.plan := s.close_plan o x r a l

@[simp] theorem State.conclude_census (s : State) (o : Handed) (x : OrderOutcome) (r : Reason) (a : Word) (l : List (List Byte)) :
    (s.conclude o x r a l).census = s.census := s.close_census o x r a l

@[simp] theorem State.conclude_spares (s : State) (o : Handed) (x : OrderOutcome) (r : Reason) (a : Word) (l : List (List Byte)) :
    (s.conclude o x r a l).spares = s.spares := s.close_spares o x r a l

@[simp] theorem State.conclude_links (s : State) (o : Handed) (x : OrderOutcome) (r : Reason) (a : Word) (l : List (List Byte)) :
    (s.conclude o x r a l).links = s.links := s.close_links o x r a l

@[simp] theorem State.conclude_zones (s : State) (o : Handed) (x : OrderOutcome) (r : Reason) (a : Word) (l : List (List Byte)) :
    (s.conclude o x r a l).zones = s.zones := s.close_zones o x r a l

@[simp] theorem State.conclude_now (s : State) (o : Handed) (x : OrderOutcome) (r : Reason) (a : Word) (l : List (List Byte)) :
    (s.conclude o x r a l).now = s.now := s.close_now o x r a l

@[simp] theorem State.conclude_free (s : State) (o : Handed) (x : OrderOutcome) (r : Reason) (a : Word) (l : List (List Byte)) :
    (s.conclude o x r a l).free = s.free := s.close_free o x r a l

@[simp] theorem State.conclude_pending (s : State) (o : Handed) (x : OrderOutcome) (r : Reason) (a : Word) (l : List (List Byte)) :
    (s.conclude o x r a l).pending = s.pending := s.close_pending o x r a l

/-! ### `done` -/

@[simp] theorem State.done_site (s : State) (o : Handed) (a : Word) (l : List Byte) : (s.done o a l).site = s.site :=
  s.conclude_site o .done .none a [l]

@[simp] theorem State.done_plan (s : State) (o : Handed) (a : Word) (l : List Byte) : (s.done o a l).plan = s.plan :=
  s.conclude_plan o .done .none a [l]

@[simp] theorem State.done_census (s : State) (o : Handed) (a : Word) (l : List Byte) : (s.done o a l).census = s.census :=
  s.conclude_census o .done .none a [l]

@[simp] theorem State.done_spares (s : State) (o : Handed) (a : Word) (l : List Byte) : (s.done o a l).spares = s.spares :=
  s.conclude_spares o .done .none a [l]

@[simp] theorem State.done_links (s : State) (o : Handed) (a : Word) (l : List Byte) : (s.done o a l).links = s.links :=
  s.conclude_links o .done .none a [l]

@[simp] theorem State.done_zones (s : State) (o : Handed) (a : Word) (l : List Byte) : (s.done o a l).zones = s.zones :=
  s.conclude_zones o .done .none a [l]

@[simp] theorem State.done_now (s : State) (o : Handed) (a : Word) (l : List Byte) : (s.done o a l).now = s.now :=
  s.conclude_now o .done .none a [l]

@[simp] theorem State.done_free (s : State) (o : Handed) (a : Word) (l : List Byte) : (s.done o a l).free = s.free :=
  s.conclude_free o .done .none a [l]

@[simp] theorem State.done_pending (s : State) (o : Handed) (a : Word) (l : List Byte) : (s.done o a l).pending = s.pending :=
  s.conclude_pending o .done .none a [l]

/-! ### `refuse` -/

@[simp] theorem State.refuse_site (s : State) (o : Handed) (r : Reason) : (s.refuse o r).site = s.site :=
  s.conclude_site o .refused r 0 []

@[simp] theorem State.refuse_plan (s : State) (o : Handed) (r : Reason) : (s.refuse o r).plan = s.plan :=
  s.conclude_plan o .refused r 0 []

@[simp] theorem State.refuse_census (s : State) (o : Handed) (r : Reason) : (s.refuse o r).census = s.census :=
  s.conclude_census o .refused r 0 []

@[simp] theorem State.refuse_spares (s : State) (o : Handed) (r : Reason) : (s.refuse o r).spares = s.spares :=
  s.conclude_spares o .refused r 0 []

@[simp] theorem State.refuse_links (s : State) (o : Handed) (r : Reason) : (s.refuse o r).links = s.links :=
  s.conclude_links o .refused r 0 []

@[simp] theorem State.refuse_zones (s : State) (o : Handed) (r : Reason) : (s.refuse o r).zones = s.zones :=
  s.conclude_zones o .refused r 0 []

@[simp] theorem State.refuse_now (s : State) (o : Handed) (r : Reason) : (s.refuse o r).now = s.now :=
  s.conclude_now o .refused r 0 []

@[simp] theorem State.refuse_free (s : State) (o : Handed) (r : Reason) : (s.refuse o r).free = s.free :=
  s.conclude_free o .refused r 0 []

@[simp] theorem State.refuse_pending (s : State) (o : Handed) (r : Reason) : (s.refuse o r).pending = s.pending :=
  s.conclude_pending o .refused r 0 []

/-! ### `addPrimary` -/

@[simp] theorem State.addPrimary_site (s : State) (c : Fin 256) (r : ChannelRecord) (h : Hold) (f : Nat) :
    (s.addPrimary c r h f).site = s.site := State.added_site _ _

@[simp] theorem State.addPrimary_links (s : State) (c : Fin 256) (r : ChannelRecord) (h : Hold) (f : Nat) :
    (s.addPrimary c r h f).links = s.links := State.added_links _ _

@[simp] theorem State.addPrimary_zones (s : State) (c : Fin 256) (r : ChannelRecord) (h : Hold) (f : Nat) :
    (s.addPrimary c r h f).zones = s.zones := State.added_zones _ _

@[simp] theorem State.addPrimary_reports (s : State) (c : Fin 256) (r : ChannelRecord) (h : Hold) (f : Nat) :
    (s.addPrimary c r h f).reports = s.reports := State.added_reports _ _

@[simp] theorem State.addPrimary_now (s : State) (c : Fin 256) (r : ChannelRecord) (h : Hold) (f : Nat) :
    (s.addPrimary c r h f).now = s.now := State.added_now _ _

@[simp] theorem State.addPrimary_free (s : State) (c : Fin 256) (r : ChannelRecord) (h : Hold) (f : Nat) :
    (s.addPrimary c r h f).free = s.free := State.added_free _ _

@[simp] theorem State.addPrimary_pending (s : State) (c : Fin 256) (r : ChannelRecord) (h : Hold) (f : Nat) :
    (s.addPrimary c r h f).pending = s.pending := State.added_pending _ _

/-! ### `removeStep` -/

@[simp] theorem State.removeStep_site (s : State) (c : Fin 256) (r : ChannelRecord) (h : Hold) (k : Bool) (f : Nat) :
    (s.removeStep c r h k f).site = s.site := State.removed_site _ _

@[simp] theorem State.removeStep_links (s : State) (c : Fin 256) (r : ChannelRecord) (h : Hold) (k : Bool) (f : Nat) :
    (s.removeStep c r h k f).links = s.links := State.removed_links _ _

@[simp] theorem State.removeStep_zones (s : State) (c : Fin 256) (r : ChannelRecord) (h : Hold) (k : Bool) (f : Nat) :
    (s.removeStep c r h k f).zones = s.zones := State.removed_zones _ _

@[simp] theorem State.removeStep_port (s : State) (c : Fin 256) (r : ChannelRecord) (h : Hold) (k : Bool) (f : Nat) :
    (s.removeStep c r h k f).port = s.port := State.removed_port _ _

@[simp] theorem State.removeStep_reports (s : State) (c : Fin 256) (r : ChannelRecord) (h : Hold) (k : Bool) (f : Nat) :
    (s.removeStep c r h k f).reports = s.reports := State.removed_reports _ _

@[simp] theorem State.removeStep_now (s : State) (c : Fin 256) (r : ChannelRecord) (h : Hold) (k : Bool) (f : Nat) :
    (s.removeStep c r h k f).now = s.now := State.removed_now _ _

@[simp] theorem State.removeStep_free (s : State) (c : Fin 256) (r : ChannelRecord) (h : Hold) (k : Bool) (f : Nat) :
    (s.removeStep c r h k f).free = s.free := State.removed_free _ _

@[simp] theorem State.removeStep_pending (s : State) (c : Fin 256) (r : ChannelRecord) (h : Hold) (k : Bool) (f : Nat) :
    (s.removeStep c r h k f).pending = s.pending := State.removed_pending _ _

/-! ### Values of the branching updates -/

@[simp] theorem State.added_plan (s : State) (x : Transmitter) : (s.added x).plan = s.plan.bump := by
  unfold State.added
  repeat' first | rfl | split | dsimp only

@[simp] theorem State.removed_plan (s : State) (x : Transmitter) : (s.removed x).plan = s.plan.bump := by
  unfold State.removed
  split <;> rfl

@[simp] theorem State.addPrimary_plan (s : State) (c : Fin 256) (r : ChannelRecord) (h : Hold) (f : Nat) :
    (s.addPrimary c r h f).plan = (s.plan.setHold c h).bump := State.added_plan _ _

@[simp] theorem State.removeStep_plan (s : State) (c : Fin 256) (r : ChannelRecord) (h : Hold) (k : Bool) (f : Nat) :
    (s.removeStep c r h k f).plan = (s.plan.setHold c h).bump := State.removed_plan _ _

end Sys2Proof.Machine
end

