-- ==== Sys2Proof/Laws/Delivery.lean ====
section
/-! SUPPORT. The end of an order, said once: what a delivery writes, what it announces, and what it leaves alone. -/

namespace Sys2Proof.Machine

/-! ### The bytes of a delivered chain (R151) -/

/-- The bytes a delivery writes at the front of a cell's head. -/
def headBytes (outcome : OrderOutcome) (reason : Reason) (n : Nat) : List Byte :=
  [byte outcome.code, byte reason.code] ++ half n

theorem cellOffset_zero (c : Nat) : cellOffset c 0 = c * 256 := Nat.add_zero _

theorem payloadOffset_zero (c : Nat) : payloadOffset c 0 = c * 256 + 16 := Nat.add_zero _

/-- A byte of a cell of a chain after the chain is written. -/
theorem read_writeChain {m : Memory} (outcome : OrderOutcome) (reason : Reason) (cs : List Nat)
    (ps : List (List Byte)) (h : Memory.wf m = true) (hp : ∀ p ∈ ps, p.length ≤ 240) (nd : cs.Nodup) (i c k : Nat)
    (hc : cs[i]? = some c) (hk : k < 256) :
    (writeChain m outcome reason cs ps).read (c * 256 + k) =
      if k < 4 then (headBytes outcome reason (ps.getD i []).length).getD k 0#8
      else if 16 ≤ k ∧ k < 16 + (ps.getD i []).length then (ps.getD i []).getD (k - 16) 0#8
      else m.read (c * 256 + k) := by
  induction cs generalizing m ps i with
  | nil => simp at hc
  | cons d t ih =>
    have hl : (ps.headD []).length ≤ 240 := by
      cases ps with
      | nil => simp
      | cons p q => exact hp p (by simp)
    have hq : ∀ p ∈ ps.tail, p.length ≤ 240 := fun p hq => hp p (List.mem_of_mem_tail hq)
    have w1 := Memory.writeAll_wf (payloadOffset d 0) (ps.headD []) h
    have w2 := Memory.writeAll_wf (cellOffset d 0) (headBytes outcome reason (ps.headD []).length) w1
    have hh : (headBytes outcome reason (ps.headD []).length).length = 4 := rfl
    have nd' := List.nodup_cons.1 nd
    rw [writeChain]
    cases i with
    | zero =>
      have e : d = c := by simpa using hc
      subst e
      have g : ps.getD 0 [] = ps.headD [] := by cases ps <;> rfl
      rw [g]
      have := read_writeChain_outside outcome reason t ps.tail w2 hq (d * 256 + k) (by
        have : (d * 256 + k) / 256 = d := by omega
        rw [this]
        exact nd'.1)
      refine this.trans ?_
      rw [Memory.read_writeAll _ _ _ w1, hh, Memory.read_writeAll _ _ _ h]
      rw [cellOffset_zero, payloadOffset_zero]
      by_cases h1 : k < 4
      · have g1 : d * 256 ≤ d * 256 + k ∧ d * 256 + k < d * 256 + 4 := by omega
        rw [if_pos g1, if_pos h1, show d * 256 + k - d * 256 = k by omega]
      · have g1 : ¬ (d * 256 ≤ d * 256 + k ∧ d * 256 + k < d * 256 + 4) := by omega
        rw [if_neg g1, if_neg h1]
        by_cases h2 : 16 ≤ k ∧ k < 16 + (ps.headD []).length
        · have g2 : d * 256 + 16 ≤ d * 256 + k ∧ d * 256 + k < d * 256 + 16 + (ps.headD []).length := by omega
          rw [if_pos g2, if_pos h2, show d * 256 + k - (d * 256 + 16) = k - 16 by omega]
        · have g2 : ¬ (d * 256 + 16 ≤ d * 256 + k ∧ d * 256 + k < d * 256 + 16 + (ps.headD []).length) :=
            fun x => h2 ⟨by omega, by omega⟩
          rw [if_neg g2, if_neg h2]
    | succ i =>
      have hc' : t[i]? = some c := by simpa using hc
      have hcd : c ≠ d := fun e => nd'.1 (e ▸ List.mem_of_getElem? hc')
      have g : ps.getD (i + 1) [] = ps.tail.getD i [] := by cases ps <;> simp
      rw [g]
      refine (ih ps.tail w2 hq nd'.2 i hc').trans ?_
      have e : ((m.writeAll (payloadOffset d 0) (ps.headD [])).writeAll (cellOffset d 0)
          (headBytes outcome reason (ps.headD []).length)).read (c * 256 + k) = m.read (c * 256 + k) := by
        rw [Memory.read_writeAll _ _ _ w1, hh, if_neg, Memory.read_writeAll _ _ _ h, if_neg]
        · simp only [payloadOffset]
          omega
        · simp only [cellOffset]
          omega
      rw [e]

theorem OrderOutcome.code_lt (x : OrderOutcome) : x.code < 256 := by cases x <;> decide

theorem Reason.code_lt (x : Reason) : x.code < 256 := by cases x <;> decide

@[simp] theorem byte_toNat (n : Nat) : (byte n).toNat = n % 256 := by
  simp [byte, BitVec.toNat_ofNat]

@[simp] theorem word_length (w : Word) : (word w).length = 4 := rfl

@[simp] theorem half_length (n : Nat) : (half n).length = 2 := rfl

/-- A word reads back from its bytes. -/
theorem littleEndian_word (w : Word) : littleEndian (word w) = w.toNat := by
  have := w.isLt
  simp only [word, littleEndian, byte_toNat]
  omega

/-- Memory and cells after a delivery. -/
theorem Port.deliver_memory (p : Port) (head : Nat) (rest : List Nat) (urgent : Bool) (outcome : OrderOutcome)
    (reason : Reason) (argument : Word) (payloads : List (List Byte)) :
    (p.deliver head rest urgent outcome reason argument payloads).memory =
      (writeChain p.memory outcome reason (head :: rest) payloads).writeAll (cellOffset head 12) (word argument) := by
  unfold Port.deliver
  rw [Port.announce_memory, Port.setCells_memory]

theorem Port.deliver_cell (p : Port) (head : Nat) (rest : List Nat) (urgent : Bool) (outcome : OrderOutcome)
    (reason : Reason) (argument : Word) (payloads : List (List Byte)) (c : Nat) :
    (p.deliver head rest urgent outcome reason argument payloads).cell c =
      if c ∈ head :: rest then (p.cell c).map (fun _ => .delivered) else p.cell c := by
  unfold Port.deliver
  rw [Port.announce_cell, Port.cell_setCells]
  rfl

/-- Memory after a chain is delivered. -/
theorem Handed.deliver_memory (o : Handed) (p : Port) (outcome : OrderOutcome) (reason : Reason) (argument : Word)
    (payloads : List (List Byte)) :
    (p.deliver o.head o.rest o.urgent outcome reason argument payloads).memory =
      (writeChain p.memory outcome reason o.cells payloads).writeAll (cellOffset o.head 12) (word argument) :=
  p.deliver_memory _ _ _ _ _ _ _

/-- A byte of a cell of the chain after a delivery. -/
theorem Handed.read_deliver (o : Handed) (p : Port) (outcome : OrderOutcome) (reason : Reason) (argument : Word)
    (payloads : List (List Byte)) (nd : o.cells.Nodup) (wf : p.memory.wf = true)
    (hp : ∀ l ∈ payloads, l.length ≤ 240) (i c k : Nat) (hc : o.cells[i]? = some c) (hk : k < 256) :
    (p.deliver o.head o.rest o.urgent outcome reason argument payloads).memory.read (c * 256 + k) =
      if k < 4 then (headBytes outcome reason (payloads.getD i []).length).getD k 0#8
      else if i = 0 ∧ 12 ≤ k ∧ k < 16 then (word argument).getD (k - 12) 0#8
      else if 16 ≤ k ∧ k < 16 + (payloads.getD i []).length then (payloads.getD i []).getD (k - 16) 0#8
      else p.memory.read (c * 256 + k) := by
  have w := writeChain_wf outcome reason o.cells payloads wf
  have chain := read_writeChain outcome reason o.cells payloads wf hp nd i c k hc hk
  rw [Handed.deliver_memory, Memory.read_writeAll _ _ _ w, word_length]
  simp only [cellOffset]
  cases i with
  | zero =>
    have e : o.head = c := by simpa [Handed.cells] using hc
    by_cases h : 12 ≤ k ∧ k < 16
    · rw [if_pos (by omega), if_neg (by omega), if_pos ⟨rfl, h⟩,
        show c * 256 + k - (o.head * 256 + 12) = k - 12 by omega]
    · rw [if_neg (by omega)]
      refine chain.trans ?_
      by_cases h1 : k < 4
      · rw [if_pos h1, if_pos h1]
      · rw [if_neg h1, if_neg h1, if_neg (fun x : 0 = 0 ∧ 12 ≤ k ∧ k < 16 => h x.2)]
  | succ i =>
    have hne : c ≠ o.head := by
      intro e
      have h0 : o.rest[i]? = some c := by simpa [Handed.cells] using hc
      exact (List.nodup_cons.1 nd).1 (e ▸ List.mem_of_getElem? h0)
    rw [if_neg (by omega)]
    refine chain.trans ?_
    by_cases h1 : k < 4
    · rw [if_pos h1, if_pos h1]
    · rw [if_neg h1, if_neg h1, if_neg (fun x : i + 1 = 0 ∧ 12 ≤ k ∧ k < 16 => Nat.succ_ne_zero i x.1)]

/-- A byte that a delivery does not store reads as before. -/
theorem Handed.read_deliver_outside (o : Handed) (p : Port) (outcome : OrderOutcome) (reason : Reason)
    (argument : Word) (payloads : List (List Byte)) (nd : o.cells.Nodup) (wf : p.memory.wf = true)
    (hp : ∀ l ∈ payloads, l.length ≤ 240) (a : Nat) (ha : ¬ o.stored payloads a) :
    (p.deliver o.head o.rest o.urgent outcome reason argument payloads).memory.read a = p.memory.read a := by
  by_cases hm : a / 256 ∈ o.cells
  · obtain ⟨i, hi⟩ := List.getElem?_of_mem hm
    have hs : a = a / 256 * 256 + a % 256 := by omega
    have hn := o.read_deliver p outcome reason argument payloads nd wf hp i (a / 256) (a % 256) hi (by omega)
    have h1 : ¬ a % 256 < 4 := fun h => ha ⟨i, _, hi, rfl, .inl h⟩
    have h2 : ¬ (i = 0 ∧ 12 ≤ a % 256 ∧ a % 256 < 16) := fun h => ha ⟨i, _, hi, rfl, .inr (.inl h)⟩
    have h3 : ¬ (16 ≤ a % 256 ∧ a % 256 < 16 + (payloads.getD i []).length) :=
      fun h => ha ⟨i, _, hi, rfl, .inr (.inr h)⟩
    rw [if_neg h1, if_neg h2, if_neg h3, ← hs] at hn
    exact hn
  · rw [Handed.deliver_memory, Memory.read_writeAll _ _ _ (writeChain_wf outcome reason o.cells payloads wf),
      if_neg]
    · exact read_writeChain_outside outcome reason o.cells payloads wf hp a hm
    · have : a / 256 ≠ o.head := fun e => hm (by simp [Handed.cells, e])
      simp only [cellOffset, word_length]
      omega

/-! ### The announcement (R151, R152) -/

/-- An announcement goes to the next slot, or is held while that slot is live or another delivery is held. -/
theorem Port.announce_announces (p : Port) (a : Announcement) (ok : sparseOk OutSlot.zero p.outList = true) :
    p.announces (p.announce a) a := by
  unfold Port.announces Port.announce
  refine ⟨fun h1 h2 => ?_, fun h => ?_⟩
  · rw [if_neg (by simp [h1, h2])]
    refine ⟨h1, rfl, ?_, fun i => sparseGet_set _ _ _ ok⟩
    show (p.raw ||| outBit) &&& outBit = outBit
    generalize p.raw = r
    revert r
    decide
  · rw [if_pos h]
    exact ⟨rfl, rfl, rfl, rfl⟩

/-- An announcement raises no flag but OUT. -/
theorem Port.announce_raw (p : Port) (a : Announcement) : (p.announce a).raw ||| outBit = p.raw ||| outBit := by
  unfold Port.announce
  split
  · rfl
  · show p.raw ||| outBit ||| outBit = _
    rw [BitVec.or_assoc, BitVec.or_self]

/-- A delivery raises no flag but OUT. -/
theorem Port.deliver_raw (p : Port) (head : Nat) (rest : List Nat) (urgent : Bool) (outcome : OrderOutcome)
    (reason : Reason) (argument : Word) (payloads : List (List Byte)) :
    (p.deliver head rest urgent outcome reason argument payloads).raw ||| outBit = p.raw ||| outBit := by
  unfold Port.deliver
  rw [Port.announce_raw, Port.setCells_raw]

/-- An announcement looks at the out list, its total, the backlog and OUT alone. -/
theorem Port.announces_congr {p p' q q' : Port} {a : Announcement} (out : p.sameOut p')
    (raised : p'.raw &&& outBit = p.raw &&& outBit) (after : q.sameOut q') (raw : q'.raw = q.raw)
    (h : p.announces q a) : p'.announces q' a := by
  obtain ⟨h1, h2, h3⟩ := out
  obtain ⟨k1, k2, k3⟩ := after
  unfold Port.announces Port.blocked Port.nextSlot at *
  simp only [h1, h2, h3, k1, k2, k3, raised, raw]
  exact h

theorem Port.announce_announced (p : Port) (o : Handed) (ok : sparseOk OutSlot.zero p.outList = true)
    (held : p.heldRightly) : o.announced (p.announce o.announcement) := by
  unfold Handed.announced
  by_cases h : p.backlog ≠ [] ∨ p.blocked = true
  · obtain ⟨h1, h2, h3, -⟩ := (p.announce_announces o.announcement ok).2 h
    refine .inr ⟨?_, by simp [h1]⟩
    have hb : p.blocked = true := h.elim held.resolve_left id
    unfold Port.blocked Port.nextSlot at *
    rw [h2, h3]
    exact hb
  · obtain ⟨h1, h2⟩ := not_or.1 h
    obtain ⟨k1, k2, k3, k4⟩ :=
      (p.announce_announces o.announcement ok).1 (not_not.1 h1) (by simpa using h2)
    refine .inl ⟨k1, k3, ?_⟩
    rw [k2, BitVec.add_sub_cancel, k4]
    exact if_pos rfl

/-- A delivery delivers: its chain stands as R151 and R152 say. -/
theorem Handed.deliver_delivered (o : Handed) (p : Port) (outcome : OrderOutcome) (reason : Reason) (argument : Word)
    (payloads : List (List Byte)) (ok : o.ok) (wf : p.memory.wf = true)
    (out : sparseOk OutSlot.zero p.outList = true) (held : p.heldRightly) (hp : ∀ l ∈ payloads, l.length ≤ 240) :
    o.delivered (p.deliver o.head o.rest o.urgent outcome reason argument payloads) outcome reason argument
      payloads := by
  obtain ⟨nd, -, hc⟩ := ok
  have hl : ∀ i, (payloads.getD i []).length ≤ 240 := by
    intro i
    rw [List.getD_eq_getElem?_getD]
    cases h : payloads[i]? with
    | none => simp
    | some l => exact hp l (List.mem_of_getElem? h)
  refine ⟨⟨fun i c hi => ?_, ?_⟩, ?_⟩
  · have hm := List.mem_of_getElem? hi
    have rd := o.read_deliver p outcome reason argument payloads nd wf hp i c
    have hli := hl i
    refine ⟨?_, ?_, ?_, ?_, ?_⟩
    · have := (poolIndex_isSome c).2 (hc c hm)
      rw [Port.deliver_cell]
      refine (if_pos hm).trans ?_
      unfold Port.cell
      rw [Option.map_map]
      obtain ⟨x, hx⟩ := Option.isSome_iff_exists.1 this
      rw [hx]
      rfl
    · unfold Port.headField cellOffset
      simp only [Memory.readAll, littleEndian]
      rw [rd 0 hi (by omega), if_pos (by omega)]
      have := outcome.code_lt
      show (byte outcome.code).toNat + 256 * 0 = _
      rw [byte_toNat]
      omega
    · unfold Port.headField cellOffset
      simp only [Memory.readAll, littleEndian]
      rw [rd 1 hi (by omega), if_pos (by omega)]
      have := reason.code_lt
      show (byte reason.code).toNat + 256 * 0 = _
      rw [byte_toNat]
      omega
    · unfold Port.headField cellOffset
      simp only [Memory.readAll, littleEndian]
      rw [Nat.add_assoc, rd 2 hi (by omega), rd 3 hi (by omega), if_pos (by omega), if_pos (by omega)]
      show (byte _).toNat + 256 * ((byte (_ / 256)).toNat + 256 * 0) = _
      rw [byte_toNat, byte_toNat]
      omega
    · refine Memory.readAll_of _ _ fun k hk => ?_
      have := rd (16 + k) hi (by omega)
      rw [if_neg (by omega), if_neg (by omega), if_pos (by omega)] at this
      simp only [payloadOffset]
      rw [show c * 256 + 16 + 0 + k = c * 256 + (16 + k) by omega, this, Nat.add_sub_cancel_left]
  · unfold Port.headField cellOffset
    rw [Handed.deliver_memory]
    have := Memory.readAll_writeAll (o.head * 256 + 12) (word argument)
      (writeChain_wf outcome reason o.cells payloads wf)
    rw [word_length] at this
    rw [← littleEndian_word]
    exact congrArg littleEndian this
  · have k := Port.keeps_setCells { p with memory :=
        (writeChain p.memory outcome reason o.cells payloads).writeAll (cellOffset o.head 12) (word argument) }
      o.cells .delivered
    exact Port.announce_announced _ o (k.out out) (k.held held)

end Sys2Proof.Machine
end

