-- ==== Sys2Proof/Laws/Keeps.lean ====
section
/-! SUPPORT. The part of an event between the take-up of an order and its end, said once for each operation: the site
model, the clock and the queue stay, the port changes by notices and reports alone, and the invariants of the other
blocks are kept. -/

namespace Sys2Proof.Machine

/-- What an operation inside an event leaves alone, and the invariants it keeps. -/
structure State.Keeps (s t : State) : Prop where
  site : t.site = s.site
  now : t.now = s.now
  pending : t.pending = s.pending
  port : s.port.Keeps t.port
  reports : s.port.Reports t.port
  subjects : s.reports.subjectsOnce → t.reports.subjectsOnce
  cause : s.census.causeOk → t.census.causeOk
  planes : s.census.planesOk → t.census.planesOk
  maps : s.mapsOk → t.mapsOk
  spares : s.sparesOk → t.sparesOk

theorem State.Keeps.refl (s : State) : s.Keeps s :=
  ⟨rfl, rfl, rfl, Port.Keeps.refl _, Port.Reports.refl _, id, id, id, id, id⟩

theorem State.Keeps.trans {s t u : State} (h : s.Keeps t) (k : t.Keeps u) : s.Keeps u :=
  ⟨k.site.trans h.site, k.now.trans h.now, k.pending.trans h.pending, h.port.trans k.port,
    h.reports.trans h.port k.reports, fun x => k.subjects (h.subjects x), fun x => k.cause (h.cause x),
    fun x => k.planes (h.planes x), fun x => k.maps (h.maps x), fun x => k.spares (h.spares x)⟩

/-- An update of the plan, the engine, the links or the free values alone. -/
theorem State.keeps_of_eq {s t : State} (site : t.site = s.site) (now : t.now = s.now) (pending : t.pending = s.pending)
    (port : t.port = s.port) (reports : t.reports = s.reports) (census : t.census = s.census)
    (zones : t.zones = s.zones) (spares : t.spares = s.spares) : s.Keeps t := by
  refine ⟨site, now, pending, port ▸ Port.Keeps.refl _, port ▸ Port.Reports.refl _, ?_, ?_, ?_, ?_, ?_⟩
  · rw [reports]; exact id
  · rw [census]; exact id
  · rw [census]; exact id
  · unfold State.mapsOk; rw [zones]; exact id
  · unfold State.sparesOk; rw [spares, site]; exact id

/-! ### Reports and notices -/

theorem State.keeps_attempt (s : State) : s.Keeps s.attempt := by
  refine ⟨rfl, rfl, rfl, s.attempt_keeps, s.attempt_reports, fun h => ?_, id, id, id, id⟩
  obtain ⟨n, hn⟩ := (emitAttempt_keeps s.item s.site.params.reserve (s.port, s.reports)).2
  unfold Reports.subjectsOnce at *
  have e : s.attempt.reports.pending = s.reports.pending.drop n := hn
  rw [e, List.map_drop]
  exact h.sublist (List.drop_sublist _ _)

theorem State.keeps_mark (s : State) (x : Subject) (f : Byte) (h : Option (Nat × Nat)) : s.Keeps (s.mark x f h) := by
  have k := State.keeps_attempt { s with reports := { s.reports with pending := addMark x f h s.reports.pending } }
  exact ⟨rfl, rfl, rfl, k.port, k.reports, fun g => k.subjects (addMark_nodup x f h _ g), id, id, id, id⟩

theorem State.keeps_foldl {α : Type} (f : State → α → State) (hf : ∀ (s : State) (a : α), s.Keeps (f s a)) (l : List α)
    (s : State) : s.Keeps (l.foldl f s) := by
  induction l generalizing s with
  | nil => exact State.Keeps.refl s
  | cons a t ih => exact (hf s a).trans (ih _)

theorem State.keeps_stale (s : State) (k : CensusCause) (hk : k ≠ .none) : s.Keeps (s.stale k) := by
  refine ⟨rfl, rfl, rfl, ?_, ?_, id, fun _ => ⟨fun h => ?_, fun _ => hk⟩, id, id, id⟩
  · show s.port.Keeps (if s.census.state = .stale then s.port else s.port.raise censusBit)
    split
    · exact Port.Keeps.refl _
    · exact Port.keeps_raise _ _
  · show s.port.Reports (if s.census.state = .stale then s.port else s.port.raise censusBit)
    split
    · exact Port.Reports.refl _
    · exact Port.Reports.of_eq rfl rfl
  · cases h

/-! ### Spare lists -/

/-- Lists that only lose members stay in order and within their targets. -/
theorem sparesOk_of_sublist {s t : State} (site : t.site = s.site)
    (h : ∀ b : Fin 8, (t.spares[b]).Sublist s.spares[b]) : s.sparesOk → t.sparesOk := by
  intro ok b
  obtain ⟨h1, h2⟩ := ok b
  exact ⟨h1.sublist (h b), by rw [site]; exact (h b).length_le.trans h2⟩

theorem State.keepSpares_eq (s : State) (b : Fin 8) (r : StageRecord) (kept l : List Spare) :
    ∃ m, s.keepSpares b r kept l = kept ++ m ∧ m.Sublist l := by
  induction l generalizing kept with
  | nil => exact ⟨[], by simp [State.keepSpares], List.Sublist.refl _⟩
  | cons x t ih =>
    unfold State.keepSpares
    split
    · obtain ⟨m, e, h⟩ := ih (kept ++ [x])
      exact ⟨x :: m, by rw [e]; simp, h.cons_cons x⟩
    · obtain ⟨m, e, h⟩ := ih kept
      exact ⟨m, e, h.cons x⟩

/-- A recheck only drops spares (R86). -/
theorem State.rechecked_sublist (s : State) (b : Fin 8) : (s.rechecked b).Sublist s.spares[b] := by
  unfold State.rechecked
  split
  · exact List.Sublist.refl _
  · rename_i r _
    obtain ⟨m, e, h⟩ := s.keepSpares_eq b r [] s.spares[b]
    rw [e]
    simpa using h

theorem foldl_set_sublist (l : List (Fin 8)) (f : Fin 8 → List Spare) (v w : Vector (List Spare) 8)
    (hf : ∀ b : Fin 8, (f b).Sublist v[b]) (hw : ∀ b : Fin 8, (w[b]).Sublist v[b]) (c : Fin 8) :
    ((l.foldl (fun v b => v.set b (f b)) w)[c]).Sublist v[c] := by
  induction l generalizing w with
  | nil => exact hw c
  | cons b t ih =>
    refine ih _ fun d => ?_
    by_cases e : b = d
    · subst e
      simpa using hf b
    · have : b.val ≠ d.val := fun h => e (Fin.ext h)
      simpa [Vector.getElem_set, this] using hw d

theorem State.keeps_recheck (s : State) (l : List (Fin 8)) : s.Keeps (s.recheck l) :=
  ⟨rfl, rfl, rfl, Port.Keeps.refl _, Port.Reports.refl _, id, id, id, id,
    sparesOk_of_sublist rfl fun b => by
      rw [State.recheck_spares]
      exact foldl_set_sublist l s.rechecked s.spares s.spares s.rechecked_sublist (fun _ => List.Sublist.refl _) b⟩

theorem State.keeps_settle (s : State) : s.Keeps s.settle :=
  (s.keeps_recheck allStages).trans (State.keeps_of_eq rfl rfl rfl rfl rfl rfl rfl rfl)

theorem State.keeps_inStageOrder (s t : State) : t.Keeps (s.inStageOrder t) :=
  State.keeps_of_eq rfl rfl rfl rfl rfl rfl rfl rfl

theorem State.keeps_queueUpkeep (s : State) (l : List (Fin 8)) : s.Keeps (s.queueUpkeep l) :=
  State.keeps_of_eq rfl rfl rfl rfl rfl rfl rfl rfl

/-! ### The census -/

/-- Changes of the counts alone. -/
theorem State.keeps_census (s : State) (c : Census) (h1 : c.state = s.census.state) (h2 : c.cause = s.census.cause)
    (h3 : s.census.planesOk → c.planesOk) : s.Keeps { s with census := c } :=
  ⟨rfl, rfl, rfl, Port.Keeps.refl _, Port.Reports.refl _, id, by unfold Census.causeOk; simp only [h1, h2]; exact id,
    h3, id, id⟩

theorem Census.setCount_state (c : Census) (i : Increment) (n : Nat) : (c.setCount i n).state = c.state := by
  unfold Census.setCount
  split <;> rfl

theorem Census.setCount_cause (c : Census) (i : Increment) (n : Nat) : (c.setCount i n).cause = c.cause := by
  unfold Census.setCount
  split <;> rfl

/-- A count after one is stored. -/
theorem Census.count_setCount (c : Census) (i j : Increment) (n : Nat)
    (h : ∀ b : Fin 8, sparseOk 0 c.plane3[b] = true ∧ sparseOk 0 c.plane5[b] = true) :
    (c.setCount i n).count j = if j = i then n else c.count j := by
  obtain ⟨b, p, k⟩ := i
  obtain ⟨b', p', k'⟩ := j
  unfold Census.setCount Census.count
  by_cases e : b.val = b'.val
  · have e' : b = b' := Fin.ext e
    subst e'
    have h3 := sparseGet_set k k' n (h b).1
    have h5 := sparseGet_set k k' n (h b).2
    simp only [Fin.getElem_fin] at h3 h5
    cases p <;> cases p' <;> simp_all
  · have e' : b' ≠ b := fun h => e (congrArg Fin.val h.symm)
    cases p <;> cases p' <;> simp [e, e']

theorem Census.setCount_planesOk (c : Census) (i : Increment) (n : Nat) (h : c.planesOk)
    (hn : n ≤ Config.countLimit) : (c.setCount i n).planesOk := by
  refine ⟨fun b => ?_, fun j => ?_⟩
  · unfold Census.setCount
    by_cases e : i.1.val = b.val
    · have e' : i.1 = b := Fin.ext e
      split
      · exact ⟨(h.1 b).1, by simpa [Vector.getElem_set, e] using sparseSet_ok _ _ (h.1 i.1).2⟩
      · exact ⟨by simpa [Vector.getElem_set, e] using sparseSet_ok _ _ (h.1 i.1).1, (h.1 b).2⟩
    · split
      · exact ⟨(h.1 b).1, by simpa [Vector.getElem_set, e] using (h.1 b).2⟩
      · exact ⟨by simpa [Vector.getElem_set, e] using (h.1 b).1, (h.1 b).2⟩
  · rw [c.count_setCount i j n h.1]
    split
    · exact hn
    · exact h.2 j

/-- An addition keeps the state, the cause and the form of the planes. -/
theorem Census.addAll_keeps (l : List Increment) (c : Census) :
    (Census.addAll l c).1.state = c.state ∧ (Census.addAll l c).1.cause = c.cause ∧
      (c.planesOk → (Census.addAll l c).1.planesOk) := by
  induction l generalizing c with
  | nil => exact ⟨rfl, rfl, id⟩
  | cons i t ih =>
    unfold Census.addAll
    split
    · exact ⟨rfl, rfl, id⟩
    · rename_i hne
      obtain ⟨h1, h2, h3⟩ := ih (c.setCount i (c.count i + 1))
      exact ⟨h1.trans (c.setCount_state _ _), h2.trans (c.setCount_cause _ _),
        fun h => h3 (c.setCount_planesOk _ _ h (Nat.lt_of_le_of_ne (h.2 i) hne))⟩

theorem Census.removeAll_keeps (l : List Increment) (c : Census) :
    (Census.removeAll l c).state = c.state ∧ (Census.removeAll l c).cause = c.cause ∧
      (c.planesOk → (Census.removeAll l c).planesOk) := by
  unfold Census.removeAll
  induction l generalizing c with
  | nil => exact ⟨rfl, rfl, id⟩
  | cons i t ih =>
    obtain ⟨h1, h2, h3⟩ := ih (c.setCount i (c.count i - 1))
    exact ⟨h1.trans (c.setCount_state _ _), h2.trans (c.setCount_cause _ _),
      fun h => h3 (c.setCount_planesOk _ _ h ((Nat.sub_le _ _).trans (h.2 i)))⟩

/-! ### The plan-change path -/

theorem State.keeps_added (s : State) (x : Transmitter) : s.Keeps (s.added x) := by
  unfold State.added
  split
  · obtain ⟨h1, h2, h3⟩ := Census.addAll_keeps (s.site.increments x (s.plan.others x)) s.census
    have k := s.keeps_census _ h1 h2 h3
    dsimp only
    refine State.Keeps.trans ?_ (State.keeps_settle _)
    split
    · exact k.trans (State.keeps_stale _ _ (by simp))
    · exact k
  · exact s.keeps_settle
  · exact s.keeps_settle

theorem State.keeps_removed (s : State) (x : Transmitter) : s.Keeps (s.removed x) := by
  unfold State.removed
  split
  · obtain ⟨h1, h2, h3⟩ := Census.removeAll_keeps (s.site.increments x s.plan.transmitters) s.census
    exact (s.keeps_census _ h1 h2 h3).trans (State.keeps_settle _)
  · exact s.keeps_settle
  · exact s.keeps_settle

theorem State.keeps_plan (s : State) (p : Plan) : s.Keeps { s with plan := p } :=
  State.keeps_of_eq rfl rfl rfl rfl rfl rfl rfl rfl

theorem State.keeps_addPrimary (s : State) (c : Fin 256) (r : ChannelRecord) (h : Hold) (f : Nat) :
    s.Keeps (s.addPrimary c r h f) := (s.keeps_plan _).trans (State.keeps_added _ _)

theorem State.keeps_removeStep (s : State) (c : Fin 256) (r : ChannelRecord) (h : Hold) (k : Bool) (f : Nat) :
    s.Keeps (s.removeStep c r h k f) := (s.keeps_plan _).trans (State.keeps_removed _ _)

/-! ### Searches -/

theorem State.keeps_vacate (s : State) (c : Fin 256) (r : ChannelRecord) : s.Keeps (s.vacate c r) := by
  unfold State.vacate
  split
  · exact s.keeps_removeStep _ _ _ _ _
  · exact State.Keeps.refl s

theorem State.keeps_restore (s : State) (c : Fin 256) (r : ChannelRecord) : s.Keeps (s.restore c r) := by
  unfold State.restore
  split
  · exact s.keeps_addPrimary _ _ _ _
  · exact State.Keeps.refl s

theorem set_sublist (v : Vector (List Spare) 8) (b c : Fin 8) (l : List Spare) (h : l.Sublist v[b]) :
    ((v.set b l)[c]).Sublist v[c] := by
  by_cases e : b = c
  · subst e
    simpa using h
  · have : b.val ≠ c.val := fun h => e (Fin.ext h)
    simp [this]

theorem State.keeps_takeSpare (s : State) (b : Fin 8) (f : Nat) : s.Keeps (s.takeSpare b f) :=
  ⟨rfl, rfl, rfl, Port.Keeps.refl _, Port.Reports.refl _, id, id, id, id,
    sparesOk_of_sublist rfl fun c => by
      rw [State.takeSpare_spares]
      exact set_sublist _ _ _ _ (List.eraseP_sublist)⟩

theorem State.keeps_applyFound (s : State) (c : Fin 256) (r : ChannelRecord) (f : Nat) (spare : Bool) :
    s.Keeps (s.applyFound c r f spare) := by
  unfold State.applyFound
  refine State.Keeps.trans ?_ (State.keeps_addPrimary _ _ _ _ _)
  split
  · exact s.keeps_takeSpare _ _
  · exact State.Keeps.refl s

theorem State.keeps_replace (s : State) (c : Fin 256) (r : ChannelRecord) (f : Nat) (only : Bool) :
    s.Keeps (s.replace c r f only).1 := by
  unfold State.replace
  dsimp only
  split
  · exact ((s.keeps_vacate c r).trans (State.keeps_applyFound _ _ _ _ _)).trans (State.keeps_inStageOrder _ _)
  · exact ((s.keeps_vacate c r).trans (State.keeps_restore _ _ _)).trans (State.keeps_inStageOrder _ _)

theorem State.keeps_autoMove (s : State) (c : Fin 256) (f : Nat) : s.Keeps (s.autoMove c f) := by
  unfold State.autoMove
  split
  · exact State.Keeps.refl s
  · split
    · exact (s.keeps_replace _ _ _ _).trans (State.keeps_mark _ _ _ _)
    · exact State.Keeps.refl s

theorem State.keeps_clearTentative (s : State) (e : StackEntry) : s.Keeps (s.clearTentative e) := by
  unfold State.clearTentative
  split
  · exact s.keeps_removeStep _ _ _ _ _
  · exact State.Keeps.refl s

theorem State.keeps_rollback (s : State) (w : PlaceWork) : s.Keeps (s.rollback w) :=
  ((State.keeps_foldl State.clearTentative State.keeps_clearTentative w.stack s).trans
    (State.keeps_inStageOrder _ _)).trans (State.keeps_plan _ _)

theorem State.keeps_commit (s : State) (w : PlaceWork) : s.Keeps (s.commit w) :=
  (s.keeps_plan _).trans (State.keeps_plan _ _)

theorem keeps_backtrack (item : PlaceItem) (l : List StackEntry) (x : State × PlaceWork) :
    x.1.Keeps (backtrack item l x).1 := by
  induction l generalizing item x with
  | nil => exact State.Keeps.refl _
  | cons e t ih =>
    unfold backtrack
    dsimp only
    split
    · exact (State.keeps_clearTentative x.1 e).trans (ih e.item (x.1.clearTentative e, _))
    · exact State.keeps_clearTentative _ e

/-! ### Spares -/

theorem mem_insertSpare (x y : Spare) (l : List Spare) (h : y ∈ insertSpare x l) : y = x ∨ y ∈ l := by
  induction l with
  | nil => simpa [insertSpare] using h
  | cons z t ih =>
    unfold insertSpare at h
    split at h
    · simpa using h
    · rcases List.mem_cons.1 h with h | h
      · simp [h]
      · rcases ih h with h | h <;> simp [h]

theorem insertSpare_length (x : Spare) (l : List Spare) : (insertSpare x l).length = l.length + 1 := by
  induction l with
  | nil => rfl
  | cons z t ih =>
    unfold insertSpare
    split <;> simp [ih]

/-- A spare inserted at its place keeps the order of a list that has no spare on its step (R85). -/
theorem insertSpare_sorted (x : Spare) (l : List Spare) (h : l.Pairwise Spare.above)
    (hn : ∀ y ∈ l, y.step ≠ x.step) : (insertSpare x l).Pairwise Spare.above := by
  induction l with
  | nil => simp [insertSpare]
  | cons z t ih =>
    obtain ⟨h1, h2⟩ := List.pairwise_cons.1 h
    unfold insertSpare
    split
    · rename_i hz
      refine List.pairwise_cons.2 ⟨fun y hy => ?_, h⟩
      unfold Spare.above
      rcases List.mem_cons.1 hy with rfl | hy
      · rcases hz with hz | hz
        · exact .inl hz
        · exact .inr ⟨hz.1.symm, hz.2⟩
      · have := h1 y hy
        unfold Spare.above at this
        omega
    · rename_i hz
      refine List.pairwise_cons.2 ⟨fun y hy => ?_, ih h2 fun y hy => hn y (List.mem_cons_of_mem _ hy)⟩
      rcases mem_insertSpare x y t hy with rfl | hy
      · have := hn z (List.mem_cons_self ..)
        unfold Spare.above
        omega
      · exact h1 y hy

theorem State.keeps_fillOne (s : State) (w : UpkeepWork) (r : StageRecord) (x : Spare)
    (ht : s.atTarget w.stage = false) : s.Keeps (s.fillOne w r x).1 := by
  unfold State.fillOne
  dsimp only
  split
  · exact State.Keeps.refl s
  · rename_i hp
    split
    · rename_i score _
      refine ⟨rfl, rfl, rfl, Port.Keeps.refl _, Port.Reports.refl _, id, id, id, id, fun ok b => ?_⟩
      obtain ⟨h1, h2⟩ := ok b
      by_cases e : w.stage = b
      · subst e
        have hlt : s.spares[w.stage].length < s.site.target w.stage := by simpa [State.atTarget] using ht
        have hne : ∀ y ∈ s.spares[w.stage], y.step ≠ x.step := by
          intro y hy he
          refine hp ?_
          unfold State.passedOver
          rw [Bool.or_eq_true]
          exact .inl (List.any_eq_true.2 ⟨y, hy, by simp [he]⟩)
        rw [State.addSpare_spares]
        refine ⟨?_, ?_⟩
        · simpa using insertSpare_sorted { step := x.step, score := score } _ h1 hne
        · simp [insertSpare_length]
          exact hlt
      · have : w.stage.val ≠ b.val := fun h => e (Fin.ext h)
        rw [State.addSpare_spares]
        refine ⟨by simpa [Vector.getElem_set, this] using h1, by simpa [Vector.getElem_set, this] using h2⟩
    · exact State.Keeps.refl s

theorem State.keeps_upkeepUnit (s : State) (w : UpkeepWork) : s.Keeps (s.upkeepUnit w).1 := by
  unfold State.upkeepUnit
  split
  · exact State.Keeps.refl s
  · split
    · exact State.Keeps.refl s
    · split
      · split
        · exact State.Keeps.refl s
        · rename_i h
          exact s.keeps_fillOne w _ _ (by simpa using h)
      · exact State.Keeps.refl s

theorem State.keeps_markShort (s : State) (b : Fin 8) : s.Keeps (s.markShort b) := by
  unfold State.markShort
  split
  · exact State.Keeps.refl s
  · exact s.keeps_mark _ _ _

theorem mapPlaces_get {α β : Type} {n : Nat} (f : Fin n → α → β) (v : Vector α n) (i : Fin n) :
    (mapPlaces f v)[i] = f i v[i] := by
  have h : i.val < (List.finRange n).length := by simp
  simp [mapPlaces]

theorem State.keeps_flush (s : State) (m : BitVec 8) : s.Keeps (s.flush m) :=
  ⟨rfl, rfl, rfl, Port.Keeps.refl _, Port.Reports.refl _, id, id, id, id,
    sparesOk_of_sublist rfl fun b => by
      show List.Sublist ((mapPlaces _ s.spares)[b]) _
      rw [mapPlaces_get]
      split
      · exact List.nil_sublist _
      · exact List.Sublist.refl _⟩

theorem State.keeps_dropSpares (s : State) (z : Fin 4) (j : Fin 64) : s.Keeps (s.dropSpares z j) :=
  ⟨rfl, rfl, rfl, Port.Keeps.refl _, Port.Reports.refl _, id, id, id, id,
    sparesOk_of_sublist rfl fun b => by
      show List.Sublist ((mapPlaces _ s.spares)[b]) _
      rw [mapPlaces_get]
      exact List.filter_sublist⟩

/-! ### Links, zones and the Watch -/

theorem State.keeps_onLink (s : State) (z : Fin 4) (f : Link → Link) : s.Keeps (s.onLink z f) :=
  State.keeps_of_eq rfl rfl rfl rfl rfl rfl rfl rfl

/-- A change of a zone that keeps the form of its map. -/
theorem State.keeps_onZone (s : State) (z : Fin 4) (f : Zone → Zone)
    (hf : sparseOk Bin.cleared s.zones[z].map = true → sparseOk Bin.cleared (f s.zones[z]).map = true) :
    s.Keeps (s.onZone z f) := by
  refine ⟨rfl, rfl, rfl, Port.Keeps.refl _, Port.Reports.refl _, id, id, id, fun h y => ?_, id⟩
  rw [State.onZone_zones]
  by_cases e : z = y
  · subst e
    simpa using hf (h z)
  · have : z.val ≠ y.val := fun h => e (Fin.ext h)
    simpa [Vector.getElem_set, this] using h y

theorem State.keeps_routeHit (s : State) (z : Fin 4) (j : Fin 64) (rise : Nat) : s.Keeps (s.routeHit z j rise) := by
  unfold State.routeHit
  have k : s.Keeps (s.markHits j rise (s.hitChannels z j)) :=
    State.keeps_foldl _ (fun t e => t.keeps_mark _ _ _) _ s
  have q : (s.markHits j rise (s.hitChannels z j)).Keeps
      ((s.markHits j rise (s.hitChannels z j)).queueUrgent (s.hitMoves z j)) :=
    State.keeps_of_eq rfl rfl rfl rfl rfl rfl rfl rfl
  exact (k.trans q).trans (State.keeps_dropSpares _ z j)

theorem State.keeps_routeHits (z : Fin 4) (l : List (Fin 64 × Option Nat)) (s : State) :
    s.Keeps (s.routeHits z l) := by
  induction l generalizing s with
  | nil => exact State.Keeps.refl s
  | cons e t ih =>
    obtain ⟨j, h⟩ := e
    cases h with
    | none => exact ih s
    | some rise => exact (s.keeps_routeHit z j rise).trans (ih _)

theorem State.keeps_watchPeriodEnd (s : State) (z : Fin 4) : s.Keeps (s.watchPeriodEnd z) := by
  unfold State.watchPeriodEnd
  exact ((s.keeps_onZone z _ id).trans (State.keeps_routeHits z _ _)).trans (State.keeps_inStageOrder _ _)

theorem State.keeps_freshen (s : State) (z : Fin 4) : s.Keeps (s.freshen z) := by
  unfold State.freshen
  split
  · exact (s.keeps_onZone z _ id).trans (State.keeps_mark _ _ _ _)
  · exact State.Keeps.refl s

theorem sparseMap_ok {α : Type} [DecidableEq α] (d : α) (f : α → α) (l : Sparse α) (h : sparseOk d l = true) :
    sparseOk d (sparseMap d f l) = true := by
  induction l with
  | nil => rfl
  | cons x t ih =>
    obtain ⟨k, v⟩ := x
    rw [sparseOk_cons] at h
    unfold sparseMap at *
    rw [List.map_cons, List.filter_cons]
    split
    · rename_i hd
      rw [sparseOk_cons]
      refine ⟨by simpa using hd, fun e he => ?_, ih h.2.2⟩
      obtain ⟨y, hy, rfl⟩ := List.mem_map.1 (List.mem_filter.1 he).1
      exact h.2.1 y hy
    · exact ih h.2.2

theorem State.keeps_periodEnd (s : State) (z : Fin 4) : s.Keeps (s.periodEnd z) := by
  unfold State.periodEnd
  exact ((s.keeps_onZone z _ (sparseMap_ok _ _ _)).trans (State.keeps_freshen _ z)).trans
    (State.keeps_watchPeriodEnd _ z)

theorem State.keeps_goStale (s : State) (z : Fin 4) : s.Keeps (s.goStale z) := by
  unfold State.goStale
  dsimp only
  exact (((s.keeps_onZone z _ id).trans (State.keeps_mark _ _ _ _)).trans (State.keeps_onLink _ _ _)).trans
    (State.keeps_onZone _ _ _ (sparseMap_ok _ _ _))

theorem foldl_addLevel_ok (level : Nat) (ns : List Nat) (m : Sparse Bin) (h : sparseOk Bin.cleared m = true) :
    sparseOk Bin.cleared (ns.foldl (addLevel level) m) = true := by
  induction ns generalizing m with
  | nil => exact h
  | cons n t ih => exact ih _ (sparseSet_ok _ _ h)

theorem integrate_ok (w : Window) (buffer : List SweepLevel) (m : Sparse Bin) (h : sparseOk Bin.cleared m = true) :
    sparseOk Bin.cleared (integrate w buffer m) = true := by
  unfold integrate
  induction buffer generalizing m with
  | nil => exact h
  | cons l t ih => exact ih _ (foldl_addLevel_ok _ _ _ h)

theorem State.keeps_validFrame (s : State) (z : Fin 4) : s.Keeps (s.validFrame z) := by
  unfold State.validFrame
  dsimp only
  refine (s.keeps_onLink z _).trans (State.keeps_onZone _ _ _ fun h => ?_)
  split <;> exact h

theorem State.keeps_sweepEnd (s : State) (z : Fin 4) (w : SweepWork) : s.Keeps (s.sweepEnd z w) := by
  unfold State.sweepEnd
  dsimp only
  split
  · exact s.keeps_onLink z _
  · have k := (s.keeps_onLink z fun l => l.ended w.damaged).trans
      (State.keeps_onZone _ z (fun zone => zone.integrated s.site.window w.buffer) (integrate_ok _ _ _))
    split
    · exact k.trans (State.keeps_periodEnd _ z)
    · exact k

theorem State.keeps_sweepFrame (s : State) (z : Fin 4) (number first : Half) (stride flags : Byte)
    (levels : List Byte) : s.Keeps (s.sweepFrame z number first stride flags levels) := by
  unfold State.sweepFrame
  dsimp only
  split
  · exact (s.keeps_onLink z _).trans (State.keeps_sweepEnd _ _ _)
  · exact s.keeps_onLink z _

end Sys2Proof.Machine
end

