-- ==== Sys2Proof/Laws/Ends.lean ====
section
/-! SUPPORT. The take-up of an order and its end, said once: what `begin`, `conclude` and `finish` do together. -/

namespace Sys2Proof.Machine

/-! ### What the end of an order leaves alone -/

/-- What the end of an order leaves alone, and the invariants it keeps. -/
structure State.Holds (s t : State) : Prop where
  site : t.site = s.site
  now : t.now = s.now
  pending : t.pending = s.pending
  port : s.port.Keeps t.port
  subjects : s.reports.subjectsOnce → t.reports.subjectsOnce
  cause : s.census.causeOk → t.census.causeOk
  planes : s.census.planesOk → t.census.planesOk
  maps : s.mapsOk → t.mapsOk
  spares : s.sparesOk → t.sparesOk

theorem State.Keeps.holds {s t : State} (h : s.Keeps t) : s.Holds t :=
  ⟨h.site, h.now, h.pending, h.port, h.subjects, h.cause, h.planes, h.maps, h.spares⟩

theorem State.Holds.trans {s t u : State} (h : s.Holds t) (k : t.Holds u) : s.Holds u :=
  ⟨k.site.trans h.site, k.now.trans h.now, k.pending.trans h.pending, h.port.trans k.port,
    fun x => k.subjects (h.subjects x), fun x => k.cause (h.cause x), fun x => k.planes (h.planes x),
    fun x => k.maps (h.maps x), fun x => k.spares (h.spares x)⟩

/-- An update of the port, the engine, the plan, the links or the free values alone. -/
theorem State.holds_of_eq {s t : State} (site : t.site = s.site) (now : t.now = s.now) (pending : t.pending = s.pending)
    (port : s.port.Keeps t.port) (reports : t.reports = s.reports) (census : t.census = s.census)
    (zones : t.zones = s.zones) (spares : t.spares = s.spares) : s.Holds t := by
  refine ⟨site, now, pending, port, ?_, ?_, ?_, ?_, ?_⟩
  · rw [reports]; exact id
  · rw [census]; exact id
  · rw [census]; exact id
  · unfold State.mapsOk; rw [zones]; exact id
  · unfold State.sparesOk; rw [spares, site]; exact id

theorem State.holds_begin (s : State) (u : Bool) (o : Handed) : s.Holds (s.begin u o) :=
  State.holds_of_eq rfl rfl rfl (Port.keeps_setCells _ _ _) rfl rfl rfl rfl

theorem State.holds_quietEnd (s : State) (o : Handed) : s.Holds (s.quietEnd o) := by
  have h : s.Holds { s with port := s.port.setCells o.cells .free } :=
    State.holds_of_eq rfl rfl rfl (Port.keeps_setCells _ _ _) rfl rfl rfl rfl
  exact h.trans (State.keeps_attempt _).holds

theorem State.holds_close (s : State) (o : Handed) (outcome : OrderOutcome) (reason : Reason) (argument : Word)
    (payloads : List (List Byte)) : s.Holds (s.close o outcome reason argument payloads) := by
  unfold State.close
  split
  · exact s.holds_quietEnd o
  · exact State.holds_of_eq rfl rfl rfl (Port.keeps_deliver _ _ _ _ _ _ _ _) rfl rfl rfl rfl

theorem State.holds_conclude (s : State) (o : Handed) (outcome : OrderOutcome) (reason : Reason) (argument : Word)
    (payloads : List (List Byte)) : s.Holds (s.conclude o outcome reason argument payloads) :=
  (s.holds_close o outcome reason argument payloads).trans
    (State.holds_of_eq rfl rfl rfl (Port.Keeps.refl _) rfl rfl rfl rfl)

/-! ### The end of an order -/

theorem Handed.stored_mem {o : Handed} {payloads : List (List Byte)} {a : Nat} (h : o.stored payloads a) :
    a / 256 ∈ o.cells := by
  obtain ⟨i, c, hc, e, -⟩ := h
  exact e ▸ List.mem_of_getElem? hc

/-- `finish` leaves cells and memory alone. -/
theorem State.finish_cell (s t : State) (c : Nat) : (s.finish t).port.cell c = t.port.cell c := rfl

/-- A property of the port that its header and its line do not matter to. -/
theorem Handed.delivered_congr {o : Handed} {p q : Port} {outcome : OrderOutcome} {reason : Reason} {argument : Word}
    {payloads : List (List Byte)} (cells : q.cells = p.cells) (memory : q.memory = p.memory)
    (backlog : q.backlog = p.backlog) (raw : q.raw = p.raw) (outList : q.outList = p.outList)
    (outTotal : q.outTotal = p.outTotal) (h : o.delivered p outcome reason argument payloads) :
    o.delivered q outcome reason argument payloads := by
  unfold Handed.delivered Handed.written Handed.announced Port.headField at *
  unfold Port.blocked Port.nextSlot at *
  simp only [Port.cell_congr cells, memory, backlog, raw, outList, outTotal] at *
  exact h

/-- The end of an order, from a state `x` that an event has reached out of `s`: between them only reports were
emitted, and the chain's cells have been in progress. -/
theorem State.close_ends {s b x t : State} {o : Handed} (outcome : OrderOutcome) (reason : Reason) (argument : Word)
    (payloads : List (List Byte)) (ok : o.ok) (mem : s.memoryOk)
    (bc : ∀ c, c ∉ o.cells → b.port.cell c = s.port.cell c) (ba : ∀ c ∈ o.cells, b.port.cell c ≠ some .free)
    (bm : b.port.memory = s.port.memory) (bk : s.port.Keeps b.port) (xk : b.port.Keeps x.port) (xr : b.port.Reports x.port)
    (hp : ∀ l ∈ payloads, l.length ≤ 240)
    (t1 : t.port.cells = (x.close o outcome reason argument payloads).port.cells)
    (t2 : t.port.memory = (x.close o outcome reason argument payloads).port.memory)
    (t3 : t.port.backlog = (x.close o outcome reason argument payloads).port.backlog)
    (t4 : t.port.raw = (x.close o outcome reason argument payloads).port.raw)
    (t5 : t.port.outList = (x.close o outcome reason argument payloads).port.outList)
    (t6 : t.port.outTotal = (x.close o outcome reason argument payloads).port.outTotal)
    (t7 : s.sameSwitches t) : s.ends t o outcome reason argument payloads := by
  obtain ⟨nd, len, pool⟩ := ok
  have sk := bk.trans xk
  have wb : b.port.memory.wf = true := bm ▸ mem.1
  have wx := xk.wf wb
  have ox := sk.out mem.2.1
  have hx := sk.held mem.2.2
  have cell : ∀ c, t.port.cell c = (x.close o outcome reason argument payloads).port.cell c := Port.cell_congr t1
  have xa : ∀ c ∈ o.cells, x.port.cell c = b.port.cell c := fun c hc => xr.1 c (ba c hc)
  have inPool : ∀ c ∈ o.cells, ∃ st, b.port.cell c = some st := by
    intro c hc
    obtain ⟨i, hi⟩ := Option.isSome_iff_exists.1 ((poolIndex_isSome c).2 (pool c hc))
    exact ⟨b.port.cells[i], by unfold Port.cell; rw [hi]; rfl⟩
  unfold State.ends Handed.touched
  by_cases hs : o.silent outcome = true
  · have e : x.close o outcome reason argument payloads = x.quietEnd o := by
      unfold State.close
      exact if_pos hs
    have wq : ({ x with port := x.port.setCells o.cells .free } : State).port.memory.wf = true := by
      show (x.port.setCells o.cells .free).memory.wf = true
      rw [Port.setCells_memory]
      exact wx
    have qr := State.attempt_reports { x with port := x.port.setCells o.cells .free }
    have tc : ∀ c, t.port.cell c =
        (State.attempt { x with port := x.port.setCells o.cells .free }).port.cell c := fun c => by
      rw [cell, e]
      rfl
    have tm : t.port.memory = (State.attempt { x with port := x.port.setCells o.cells .free }).port.memory := by
      rw [t2, e]
      rfl
    have th : ∀ c, t.port.headField c 6 1 =
        (State.attempt { x with port := x.port.setCells o.cells .free }).port.headField c 6 1 := fun c => by
      unfold Port.headField
      rw [tm]
    have sc : ∀ c, c ∉ o.cells → (x.port.setCells o.cells .free).cell c = x.port.cell c := fun c hc => by
      rw [Port.cell_setCells, if_neg hc]
    rw [if_pos hs]
    simp only [hs, if_true]
    refine ⟨fun c hc => ?_, fun a ha hf => ?_, fun c hc hf => ?_, fun c hc hf => ?_, t7⟩
    · obtain ⟨st, hst⟩ := inPool c hc
      have : (x.port.setCells o.cells .free).cell c = some .free := by
        rw [Port.cell_setCells, if_pos hc, xa c hc, hst]
        rfl
      rcases qr.2.2 c this with h | ⟨h1, h2⟩
      · exact .inl (by rw [tc, h])
      · exact .inr ⟨by rw [tc, h1], by rw [th, h2 wq]⟩
    · rw [tm]
      have hb : b.port.cell (a / 256) ≠ some .free := by rw [bc _ ha]; exact hf
      have hx : x.port.cell (a / 256) ≠ some .free := by rw [xr.1 _ hb]; exact hb
      rw [qr.2.1 wq a (by show (x.port.setCells o.cells .free).cell _ ≠ _; rw [sc _ ha]; exact hx)]
      show (x.port.setCells o.cells .free).memory.read a = _
      rw [Port.setCells_memory, xr.2.1 wb a hb, bm]
    · have hb : b.port.cell c ≠ some .free := by rw [bc _ hc]; exact hf
      have hx : x.port.cell c ≠ some .free := by rw [xr.1 _ hb]; exact hb
      rw [tc, qr.1 c (by show (x.port.setCells o.cells .free).cell _ ≠ _; rw [sc _ hc]; exact hx)]
      show (x.port.setCells o.cells .free).cell c = _
      rw [sc _ hc, xr.1 _ hb, bc _ hc]
    · have hb : b.port.cell c = some .free := by rw [bc _ hc]; exact hf
      rcases xr.2.2 c hb with h | ⟨h1, h2⟩
      · have : (x.port.setCells o.cells .free).cell c = some .free := by rw [sc _ hc, h]
        rcases qr.2.2 c this with g | ⟨g1, g2⟩
        · exact .inl (by rw [tc, g])
        · exact .inr ⟨by rw [tc, g1], by rw [th, g2 wq]⟩
      · have hd : (x.port.setCells o.cells .free).cell c ≠ some .free := by rw [sc _ hc, h1]; simp
        refine .inr ⟨by rw [tc, qr.1 c hd]; show (x.port.setCells o.cells .free).cell c = _; rw [sc _ hc, h1], ?_⟩
        rw [th, ← h2 wb]
        refine Port.headField_congr (by omega) fun a ha => ?_
        rw [qr.2.1 wq a (by rw [ha]; exact hd)]
        show (x.port.setCells o.cells .free).memory.read a = _
        rw [Port.setCells_memory]
  · have hs' : o.silent outcome = false := by simpa using hs
    have e : x.close o outcome reason argument payloads =
        { x with port := x.port.deliver o.head o.rest o.urgent outcome reason argument payloads } := by
      unfold State.close
      exact if_neg hs
    rw [if_neg hs]
    simp only [hs', Bool.false_eq_true, if_false]
    rw [e] at t1 t2 t3 t4 t5 t6
    refine ⟨?_, fun a ha hf => ?_, fun c hc hf => ?_, fun c hc hf => ?_, t7⟩
    · exact Handed.delivered_congr t1 t2 t3 t4 t5 t6
        (o.deliver_delivered x.port outcome reason argument payloads ⟨nd, len, pool⟩ wx ox hx hp)
    · rw [t2]
      refine (o.read_deliver_outside x.port outcome reason argument payloads nd wx hp a ha).trans ?_
      by_cases hm : a / 256 ∈ o.cells
      · rw [xr.2.1 wb a (ba _ hm), bm]
      · rw [xr.2.1 wb a (by rw [bc _ hm]; exact hf), bm]
    · rw [Port.cell_congr t1]
      refine (Port.deliver_cell _ _ _ _ _ _ _ _ _).trans ?_
      exact (if_neg hc).trans ((xr.1 c (by rw [bc _ hc]; exact hf)).trans (bc _ hc))
    · have hb : b.port.cell c = some .free := by rw [bc _ hc]; exact hf
      have hcell : t.port.cell c = x.port.cell c := by
        rw [Port.cell_congr t1]
        exact (Port.deliver_cell _ _ _ _ _ _ _ _ _).trans (if_neg hc)
      rcases xr.2.2 c hb with h | ⟨h1, h2⟩
      · exact .inl (by rw [hcell, h])
      · refine .inr ⟨by rw [hcell, h1], ?_⟩
        rw [← h2 wb]
        refine Port.headField_congr (by omega) fun a ha => ?_
        rw [t2]
        exact o.read_deliver_outside x.port outcome reason argument payloads nd wx hp a
          fun h => hc (ha ▸ Handed.stored_mem h)

/-- What the end of an order does when nothing else moved the port or the Report Builder. -/
theorem State.close_alone {s x t : State} {o : Handed} (outcome : OrderOutcome) (reason : Reason) (argument : Word)
    (payloads : List (List Byte)) (ok : o.ok) (mem : s.memoryOk)
    (xp : x.port = s.port.setCells o.cells .active) (xr : x.reports = s.reports)
    (item : t.item = x.item) (reserve : t.site.params.reserve = x.site.params.reserve)
    (tp : t.port = { (x.close o outcome reason argument payloads).port with
      header := t.port.header, line := t.port.line })
    (tr : t.reports = (x.close o outcome reason argument payloads).reports)
    (hp : ∀ l ∈ payloads, l.length ≤ 240) : s.aloneWith t o outcome payloads := by
  obtain ⟨nd, len, pool⟩ := ok
  have wx : x.port.memory.wf = true := by rw [xp, Port.setCells_memory]; exact mem.1
  refine ⟨fun hs => ?_, fun hs => ?_⟩
  · have e : x.close o outcome reason argument payloads =
        { x with port := x.port.deliver o.head o.rest o.urgent outcome reason argument payloads } := by
      unfold State.close
      refine if_neg ?_
      unfold Handed.silent at hs
      simpa using hs
    rw [e] at tp tr
    refine ⟨tr.trans xr, fun a ha => ?_, fun c hc => ?_, ?_, ?_⟩
    · rw [tp]
      refine (o.read_deliver_outside x.port outcome reason argument payloads nd wx hp a ha).trans ?_
      rw [xp, Port.setCells_memory]
    · rw [tp]
      refine (Port.deliver_cell _ _ _ _ _ _ _ _ c).trans ((if_neg hc).trans ?_)
      rw [xp, Port.cell_setCells, if_neg hc]
    · rw [tp]
      show (x.port.deliver o.head o.rest o.urgent outcome reason argument payloads).raw ||| outBit = _
      rw [Port.deliver_raw, xp, Port.setCells_raw]
    · have k := Port.announce_announces (Port.setCells { x.port with
          memory := Memory.writeAll (writeChain x.port.memory outcome reason o.cells payloads)
            (cellOffset o.head 12) (word argument) } o.cells .delivered) o.announcement (by simpa [xp] using mem.2.1)
      refine Port.announces_congr
        (q := x.port.deliver o.head o.rest o.urgent outcome reason argument payloads)
        ⟨?_, ?_, ?_⟩ ?_ ⟨?_, ?_, ?_⟩ ?_ k
      all_goals first
        | rw [tp]
        | simp [xp]
  · have e : x.close o outcome reason argument payloads = x.quietEnd o := by
      unfold State.close
      exact if_pos hs
    rw [e] at tp tr
    have k := State.attempt_congr
      (x := { x with port := x.port.setCells o.cells .free })
      (y := { t with port := s.port.setCells o.cells .free, reports := s.reports })
      (by rw [xp]; exact Port.setCells_twice _ _ _ _) xr item.symm reserve.symm
    unfold State.tries
    rw [← k.1, ← k.2]
    exact ⟨tr, tp⟩

/-! ### Take-up -/

/-- The order the arbiter hands out waits on a list. -/
theorem State.granted_waiting {s : State} {code : OrderCode} {u : Bool} {o : Handed}
    (h : s.granted code = some (u, o)) :
    o ∈ s.waiting ∧ o.code = code ∧
      (u = true ∧ s.engine.urgent.head? = some (.order o) ∨ u = false ∧ s.engine.urgent = [] ∧
        s.engine.routine.head? = some (.order o) ∧ s.engine.routineContext = .idle) ∧
      s.engine.urgentContext = .idle ∧ s.port.run = true := by
  unfold State.granted at h
  have key : ∀ g, s.arbiter = some g →
      s.engine.urgentContext = .idle ∧ s.port.run = true ∧
        (∀ e, g = .takeUrgent e → s.engine.urgent.head? = some e) ∧
        (∀ e, g = .takeRoutine e → s.engine.urgent = [] ∧ s.engine.routine.head? = some e ∧
          s.engine.routineContext = .idle) := by
    intro g hg
    unfold State.arbiter at hg
    split at hg
    · cases hg
    · rename_i hc
      simp only [Bool.or_eq_true, Bool.not_eq_true', decide_eq_true_eq, not_or, Bool.not_eq_false,
        Bool.not_eq_true] at hc
      obtain ⟨⟨h1, h2⟩, h3⟩ := hc
      refine ⟨?_, h1, ?_, ?_⟩
      · cases hx : s.engine.urgentContext with
        | idle => rfl
        | running => exact absurd hx h2
      · intro e he
        subst he
        revert hg
        cases s.engine.urgent <;> cases s.engine.routineContext <;> cases s.engine.routine <;> simp
      · intro e he
        subst he
        revert hg h3
        cases s.engine.urgent <;> cases s.engine.routineContext <;> cases s.engine.routine <;>
          simp [RoutineContext.isRunning]
  split at h
  · rename_i o' ha
    obtain ⟨k1, k2, k3, -⟩ := key _ ha
    split at h
    · rename_i hc
      simp only [Option.some.injEq, Prod.mk.injEq] at h
      obtain ⟨rfl, rfl⟩ := h
      have hd := k3 _ rfl
      refine ⟨?_, hc, .inl ⟨rfl, hd⟩, k1, k2⟩
      unfold State.waiting
      rw [List.mem_filterMap]
      exact ⟨.order o', List.mem_append_left _ (List.mem_of_mem_head? hd), rfl⟩
    · cases h
  · rename_i o' ha
    obtain ⟨k1, k2, -, k4⟩ := key _ ha
    split at h
    · rename_i hc
      simp only [Option.some.injEq, Prod.mk.injEq] at h
      obtain ⟨rfl, rfl⟩ := h
      obtain ⟨h1, h2, h3⟩ := k4 _ rfl
      refine ⟨?_, hc, .inr ⟨rfl, h1, h2, h3⟩, k1, k2⟩
      unfold State.waiting
      rw [List.mem_filterMap]
      exact ⟨.order o', List.mem_append_right _ (List.mem_of_mem_head? h2), rfl⟩
    · cases h
  · cases h

theorem State.ordersOk.chain {s : State} (h : s.ordersOk) {o : Handed} (ho : o ∈ s.waiting ++ s.working) : o.ok := by
  obtain ⟨h1, h2, h3, h4, -⟩ := h
  refine ⟨(List.nodup_flatMap.1 h1).1 o ho, h2 o ho, fun c hc => ?_⟩
  have : ∃ st, s.port.cell c = some st := by
    rcases List.mem_append.1 ho with h | h
    · exact ⟨_, h3 o h c hc⟩
    · exact ⟨_, h4 o h c hc⟩
  obtain ⟨st, hst⟩ := this
  unfold Port.cell at hst
  obtain ⟨i, hi, -⟩ := Option.map_eq_some_iff.1 hst
  exact (poolIndex_isSome c).1 (by rw [hi]; rfl)

theorem State.takes.ok {s : State} {code : OrderCode} {u : Bool} {o : Handed} (h : s.takes code u o) : o.ok :=
  h.2.1.chain (List.mem_append_left _ (State.granted_waiting h.1).1)

/-- The cells of an order at its take-up are ACTIVE. -/
theorem State.begin_active (s : State) (u : Bool) (o : Handed) (ok : o.ok) (c : Nat) (hc : c ∈ o.cells) :
    (s.begin u o).port.cell c = some .active := by
  show (s.port.setCells o.cells .active).cell c = _
  rw [Port.cell_setCells, if_pos hc]
  obtain ⟨i, hi⟩ := Option.isSome_iff_exists.1 ((poolIndex_isSome c).2 (ok.2.2 c hc))
  unfold Port.cell
  rw [hi]
  rfl

theorem State.begin_cell (s : State) (u : Bool) (o : Handed) (c : Nat) (hc : c ∉ o.cells) :
    (s.begin u o).port.cell c = s.port.cell c := by
  show (s.port.setCells o.cells .active).cell c = _
  rw [Port.cell_setCells, if_neg hc]

@[simp] theorem State.begin_memory (s : State) (u : Bool) (o : Handed) :
    (s.begin u o).port.memory = s.port.memory := Port.setCells_memory _ _ _

/-- The parameters of an order are those its cells held when it was taken up. -/
@[simp] theorem State.begin_param (s : State) (u : Bool) (o : Handed) (i n : Nat) :
    (s.begin u o).param o i n = s.param o i n := by
  unfold State.param Port.field
  rw [State.begin_memory]

/-- An order taken up and ended in one event, between which the event reached `x` by reports alone. -/
theorem State.takes.ends {s x : State} {code : OrderCode} {u : Bool} {o : Handed} (h : s.takes code u o)
    (outcome : OrderOutcome) (reason : Reason) (argument : Word) (payloads : List (List Byte))
    (k : (s.begin u o).port.Keeps x.port) (r : (s.begin u o).port.Reports x.port) (now : x.now = s.now)
    (pending : x.pending = s.pending) (hp : ∀ l ∈ payloads, l.length ≤ 240) :
    s.ends (s.finish (x.conclude o outcome reason argument payloads)) o outcome reason argument payloads := by
  have ok := h.ok
  have bk : s.port.Keeps (s.begin u o).port := (s.holds_begin u o).port
  refine State.close_ends (b := s.begin u o) (x := x) outcome reason argument payloads ok h.2.2
    (fun c hc => s.begin_cell u o c hc) (fun c hc => by rw [s.begin_active u o ok c hc]; simp) (s.begin_memory u o)
    bk k r hp rfl rfl rfl rfl rfl rfl ?_
  have all := (bk.trans k).trans (x.holds_conclude o outcome reason argument payloads).port
  obtain ⟨k1, k2, k3, k4, k5, -⟩ := all
  refine ⟨k2, k3, k4, k1, k5, ?_, ?_⟩
  · exact (x.holds_conclude o outcome reason argument payloads).now.trans now
  · exact (x.holds_conclude o outcome reason argument payloads).pending.trans pending

/-- An order taken up and ended in one event that moves neither the port nor the Report Builder otherwise. -/
theorem State.takes.alone {s x : State} {code : OrderCode} {u : Bool} {o : Handed} (h : s.takes code u o)
    (outcome : OrderOutcome) (reason : Reason) (argument : Word) (payloads : List (List Byte))
    (port : x.port = (s.begin u o).port) (reports : x.reports = s.reports)
    (hp : ∀ l ∈ payloads, l.length ≤ 240) :
    s.aloneWith (s.finish (x.conclude o outcome reason argument payloads)) o outcome payloads := by
  refine State.close_alone (x := x) outcome reason argument payloads h.ok h.2.2 port reports ?_ ?_ rfl rfl hp
  · unfold State.conclude State.close
    split <;> rfl
  · unfold State.conclude State.close
    split <;> rfl

/-- An order refused at its take-up. -/
theorem State.takes.refuses {s : State} {code : OrderCode} {u : Bool} {o : Handed} (h : s.takes code u o)
    (reason : Reason) : s.refuses (s.finish ((s.begin u o).refuse o reason)) u o reason := by
  have hp : ∀ l ∈ ([] : List (List Byte)), l.length ≤ 240 := by simp
  refine ⟨h.ends (x := s.begin u o) .refused reason 0 [] (Port.Keeps.refl _) (Port.Reports.refl _) rfl rfl hp,
    h.alone (x := s.begin u o) .refused reason 0 [] rfl rfl hp, ?_, ?_, ?_⟩
  · simp [State.sameModel, State.samePlan, State.sameSpectrum, State.sameTime]
  · unfold State.refuse State.conclude State.close
    split <;> rfl
  · simp

/-- The engine after the end of an order, from the engine the event has reached. -/
theorem State.conclude_engine (s : State) (o : Handed) (outcome : OrderOutcome) (reason : Reason) (argument : Word)
    (payloads : List (List Byte)) :
    (s.conclude o outcome reason argument payloads).engine = s.engine.release := by
  unfold State.conclude State.close
  split <;> rfl

end Sys2Proof.Machine
end

