-- ==== Sys2Proof/Laws/Arbiter.lean ====
section
/-! SUPPORT. The arbiter at the end of an event: what `arbitrate` can do, said once, and the take-up of an order as one
act of the arbiter with what follows it. -/

namespace Sys2Proof.Machine

theorem State.arbitrateFor_none {s : State} (n : Nat) (h : s.arbiter = none) : s.arbitrateFor n = s := by
  cases n with
  | zero => rfl
  | succ n => simp only [State.arbitrateFor, h]

theorem State.arbitrateFor_some {s : State} {g : Grant} (n : Nat) (h : s.arbiter = some g) :
    s.arbitrateFor (n + 1) = (s.handOut g).arbitrateFor n := by
  simp only [State.arbitrateFor, h]

/-- An arbiter with nothing to hand out changes nothing. -/
theorem State.arbitrate_none {s : State} (h : s.arbiter = none) : s.arbitrate = s := s.arbitrateFor_none _ h

/-- What holds at the end of an event and is kept by each act of the arbiter holds after it has acted. -/
theorem State.arbitrateFor_induct {P : State → Prop} (act : ∀ s g, P s → s.arbiter = some g → P (s.handOut g))
    (n : Nat) (s : State) (h : P s) : P (s.arbitrateFor n) := by
  induction n generalizing s with
  | zero => exact h
  | succ n ih =>
    cases ha : s.arbiter with
    | none => rw [s.arbitrateFor_none _ ha]; exact h
    | some g => rw [s.arbitrateFor_some n ha]; exact ih _ (act s g h ha)

theorem State.arbitrate_induct {P : State → Prop} (act : ∀ s g, P s → s.arbiter = some g → P (s.handOut g))
    (s : State) (h : P s) : P s.arbitrate := State.arbitrateFor_induct act _ s h

/-- A part of the state that no act of the arbiter changes. -/
theorem State.arbitrate_eq {α : Type} (f : State → α) (act : ∀ s g, f (s.handOut g) = f s) (s : State) :
    f s.arbitrate = f s :=
  State.arbitrate_induct (P := fun t => f t = f s) (fun t g h _ => (act t g).trans h) s rfl

/-- The order that a code is granted is what the arbiter hands out. -/
theorem State.granted_arbiter {s : State} {code : OrderCode} {u : Bool} {o : Handed}
    (h : s.granted code = some (u, o)) :
    s.arbiter = some (if u then .takeUrgent (.order o) else .takeRoutine (.order o)) ∧ o.code = code := by
  unfold State.granted at h
  split at h
  · split at h
    · rename_i ha hc
      cases h
      exact ⟨ha, hc⟩
    · cases h
  · split at h
    · rename_i ha hc
      cases h
      exact ⟨ha, hc⟩
    · cases h
  · cases h

/-- The take-up of an order, and what the arbiter does after it. -/
theorem State.takeUp_eq {s : State} {code : OrderCode} {u : Bool} {o : Handed} (p : Handed → State → State)
    (h : s.granted code = some (u, o)) : s.takeUp code p = (s.finish (p o (s.begin u o))).arbitrate := by
  unfold State.takeUp
  rw [h]

/-- The take-up of an order by its own command is the act of the arbiter that hands it out. -/
theorem State.handOut_order {s : State} {code : OrderCode} {u : Bool} {o : Handed} (h : s.granted code = some (u, o)) :
    ∃ g, s.arbiter = some g ∧ s.handOut g = s.finish (code.procedure o (s.begin u o)) := by
  obtain ⟨ha, rfl⟩ := State.granted_arbiter h
  cases u
  · exact ⟨_, ha, rfl⟩
  · exact ⟨_, ha, rfl⟩

/-! ### Engines and arbitration -/

/-- With RUN 0 nothing is handed out. -/
theorem State.arbiter_run {s : State} (h : s.port.run = false) : s.arbiter = none := by
  unfold State.arbiter
  simp [h]

/-- With the routine context RUNNING nothing is handed out. -/
theorem State.arbiter_running {s : State} {w : Work} (h : s.engine.routineContext = .running w) : s.arbiter = none := by
  unfold State.arbiter
  simp [h, RoutineContext.isRunning]

/-- The arbiter looks at the engine and RUN alone. -/
theorem State.arbiter_congr {s t : State} (e : t.engine = s.engine) (r : t.port.run = s.port.run) :
    t.arbiter = s.arbiter := by
  unfold State.arbiter
  rw [e, r]

end Sys2Proof.Machine
end

