-- ==== Sys2Proof/Laws/Engine.lean ====
section
/-! SUPPORT. How an event changes the engine and the port between a take-up and the end of its order: internal entries
join the routine list, and reports may be emitted. -/

namespace Sys2Proof.Machine

/-- An engine whose routine list has only gained internal entries. -/
def Engine.Grows (e f : Engine) : Prop :=
  ∃ l : List Entry, (∀ x ∈ l, x.isInternal = true) ∧ f = { e with routine := e.routine ++ l }

theorem Engine.Grows.refl (e : Engine) : e.Grows e := ⟨[], by simp, by simp⟩

theorem Engine.Grows.trans {e f g : Engine} (h : e.Grows f) (k : f.Grows g) : e.Grows g := by
  obtain ⟨l, h1, rfl⟩ := h
  obtain ⟨m, k1, rfl⟩ := k
  refine ⟨l ++ m, fun x hx => ?_, by simp⟩
  rcases List.mem_append.1 hx with h | h
  · exact h1 x h
  · exact k1 x h

theorem State.upkeepEntries_internal (s : State) (l : List (Fin 8)) : ∀ e ∈ s.upkeepEntries l, e.isInternal = true := by
  intro e he
  unfold State.upkeepEntries at he
  obtain ⟨b, -, rfl⟩ := List.mem_map.1 he
  rfl

theorem State.grows_queueUpkeep (s : State) (l : List (Fin 8)) : s.engine.Grows (s.queueUpkeep l).engine :=
  ⟨_, s.upkeepEntries_internal l, rfl⟩

theorem State.grows_recheck (s : State) (l : List (Fin 8)) : s.engine.Grows (s.recheck l).engine :=
  ⟨_, State.upkeepEntries_internal _ l, rfl⟩

theorem foldl_set_get (f : Fin 8 → List Spare) (l : List (Fin 8)) (v : Vector (List Spare) 8) (b : Fin 8) :
    (l.foldl (fun v (c : Fin 8) => v.set c (f c)) v)[b] = if b ∈ l then f b else v[b] := by
  induction l generalizing v with
  | nil => simp
  | cons c t ih =>
    rw [List.foldl_cons, ih]
    by_cases hb : b ∈ t
    · simp [hb]
    · by_cases e : c = b
      · subst e; simp
      · have : c.val ≠ b.val := fun h => e (Fin.ext h)
        have : b ≠ c := fun h => e h.symm
        simp [*]

/-- What a recheck leaves in each list (R86). -/
theorem State.recheck_get (s : State) (l : List (Fin 8)) (b : Fin 8) :
    (s.recheck l).spares[b] = if b ∈ l then s.rechecked b else s.spares[b] := by
  rw [State.recheck_spares]
  exact foldl_set_get _ _ _ _

theorem mem_allStages (b : Fin 8) : b ∈ allStages := by revert b; decide

/-- A recheck reads the site model, the channels and the census, and the list. -/
theorem State.keepSpares_congr {s t : State} (h : ∀ b r f, s.sparePasses b r f = t.sparePasses b r f)
    (hs : s.site = t.site) (b : Fin 8) (r : StageRecord) (kept l : List Spare) :
    s.keepSpares b r kept l = t.keepSpares b r kept l := by
  induction l generalizing kept with
  | nil => rfl
  | cons x u ih =>
    unfold State.keepSpares
    rw [h, hs, ih, ih]

theorem State.rechecked_congr {s t : State} (h : ∀ b r f, s.sparePasses b r f = t.sparePasses b r f)
    (hs : s.site = t.site) (hl : s.spares = t.spares) (b : Fin 8) : s.rechecked b = t.rechecked b := by
  unfold State.rechecked
  rw [hs, hl]
  split
  · rfl
  · exact State.keepSpares_congr h hs b _ _ _

/-- Steps 2 to 5 of the plan-change path recheck every list (R21, R86). -/
theorem State.rechecksAll_settle (s : State) : s.rechecksAll s.settle := by
  intro b
  have h : s.settle.spares[b] = s.rechecked b := by
    have := s.recheck_get allStages b
    rw [if_pos (mem_allStages b)] at this
    exact this
  rw [h, if_pos rfl]
  exact State.rechecked_congr (s := s) (t := { s.settle with spares := s.spares }) (fun _ _ _ => rfl) rfl rfl b

theorem State.grows_settle (s : State) : s.engine.Grows s.settle.engine := s.grows_recheck allStages

theorem State.grows_added (s : State) (x : Transmitter) : s.engine.Grows (s.added x).engine := by
  unfold State.added
  split
  · dsimp only
    split <;> exact State.grows_settle _
  · exact s.grows_settle
  · exact s.grows_settle

theorem State.grows_removed (s : State) (x : Transmitter) : s.engine.Grows (s.removed x).engine := by
  unfold State.removed
  split <;> exact State.grows_settle _

theorem State.grows_addPrimary (s : State) (c : Fin 256) (r : ChannelRecord) (h : Hold) (f : Nat) :
    s.engine.Grows (s.addPrimary c r h f).engine :=
  State.grows_added { s with plan := s.plan.setHold c h } (r.transmitter c false f)

theorem State.grows_removeStep (s : State) (c : Fin 256) (r : ChannelRecord) (h : Hold) (k : Bool) (f : Nat) :
    s.engine.Grows (s.removeStep c r h k f).engine :=
  State.grows_removed { s with plan := s.plan.setHold c h } (r.transmitter c k f)

theorem State.grows_vacate (s : State) (c : Fin 256) (r : ChannelRecord) : s.engine.Grows (s.vacate c r).engine := by
  unfold State.vacate
  split
  · exact s.grows_removeStep _ _ _ _ _
  · exact .refl _

theorem Engine.joined_internal (e f : Engine) : ∀ x ∈ e.joined f, x.isInternal = true := by
  intro x hx
  unfold Engine.joined at hx
  obtain ⟨b, -, rfl⟩ := List.mem_map.1 hx
  rfl

theorem Engine.mem_joined (e f : Engine) (b : Fin 8) :
    Entry.upkeep b ∈ e.joined f ↔ Entry.upkeep b ∉ e.routine ∧ Entry.upkeep b ∈ f.routine := by
  simp [Engine.joined, mem_allStages]

/-- Putting the entries of an event in order leaves them internal and behind those that waited (R88). -/
theorem State.grows_inStageOrder {s t : State} (k : s.engine.Grows t.engine) :
    s.engine.Grows (s.inStageOrder t).engine := by
  obtain ⟨l, -, h⟩ := k
  refine ⟨_, s.engine.joined_internal t.engine, ?_⟩
  rw [State.inStageOrder_engine, h]

theorem State.grows_replace (s : State) (c : Fin 256) (r : ChannelRecord) (f : Nat) (only : Bool) :
    s.engine.Grows (s.replace c r f only).1.engine := by
  unfold State.replace
  dsimp only
  split
  · refine State.grows_inStageOrder ((s.grows_vacate c r).trans ?_)
    unfold State.applyFound
    refine Engine.Grows.trans ?_ (State.grows_addPrimary _ _ _ _ _)
    split
    · exact State.grows_queueUpkeep _ _
    · exact .refl _
  · refine State.grows_inStageOrder ((s.grows_vacate c r).trans ?_)
    unfold State.restore
    split
    · exact State.grows_addPrimary _ _ _ _ _
    · exact .refl _

theorem State.grows_queueRebuild (s : State) : s.engine.Grows s.queueRebuild.engine := by
  unfold State.queueRebuild
  split
  · exact .refl _
  · exact ⟨[.rebuild], by simp [Entry.isInternal], rfl⟩

/-- The engine at the end of an order, from the engine its event has reached. -/
theorem State.leaves_of {s x t : State} {u : Bool} (time : s.sameTime t) (k : (s.engine.begin u).Grows x.engine)
    (e : t.engine = x.engine.release) : ∃ l : List Entry, (∀ y ∈ l, y.isInternal = true) ∧ s.leaves t u l := by
  obtain ⟨l, h1, h2⟩ := k
  refine ⟨l, h1, time, ?_⟩
  rw [e, h2]
  unfold Engine.after Engine.release
  cases (s.engine.begin u).urgentContext <;> rfl

/-- What the middle of an event leaves alone when it may change the site model, the census and the spares. -/
structure State.Steps (a b : State) : Prop where
  plan : b.plan = a.plan
  port : a.port.Keeps b.port
  reports : a.port.Reports b.port
  now : b.now = a.now
  pending : b.pending = a.pending
  grows : a.engine.Grows b.engine

theorem State.Steps.refl (a : State) : a.Steps a :=
  ⟨rfl, Port.Keeps.refl _, Port.Reports.refl _, rfl, rfl, Engine.Grows.refl _⟩

theorem State.Steps.trans {a b c : State} (h : a.Steps b) (k : b.Steps c) : a.Steps c :=
  ⟨k.plan.trans h.plan, h.port.trans k.port, Port.Reports.trans h.port h.reports k.reports, k.now.trans h.now,
    k.pending.trans h.pending, h.grows.trans k.grows⟩

theorem State.Keeps.steps {a b : State} (k : a.Keeps b) (p : b.plan = a.plan) (g : a.engine.Grows b.engine) :
    a.Steps b := ⟨p, k.port, k.reports, k.now, k.pending, g⟩

end Sys2Proof.Machine
end

