-- ==== Sys2Proof/Laws/Site.lean ====
section
/-! SUPPORT. The site-model orders: the clamps, a window change, a change of the model, and a lowered timeout. -/

namespace Sys2Proof.Machine

theorem clamp_bounds (l h n : Nat) (hl : l ≤ h) : l ≤ clamp l h n ∧ clamp l h n ≤ h := by
  unfold clamp; split
  · omega
  · split <;> omega

theorem Params.clamped_ok (p : Params) (h1 : 1 ≤ p.imLevel) (h3 : p.imLevel ≤ 3) : p.clamped.ok := by
  have a := clamp_bounds 1 90 p.tIm (by omega)
  have b := clamp_bounds 1 90 p.tSp (by omega)
  have c := clamp_bounds 0 40 p.margin (by omega)
  have d := clamp_bounds 0 16 p.guard3 (by omega)
  have e := clamp_bounds 0 16 p.guard5 (by omega)
  have f := clamp_bounds 0 64 p.reserve (by omega)
  have g := clamp_bounds 1 120 p.moveWindow (by omega)
  have i := clamp_bounds 500 10000 (p.linkTimeout / 100 * 100) (by omega)
  have j := clamp_bounds 1 Config.budgetLimit p.budget (by simp [Config.budgetLimit])
  have k : clamp 500 10000 (p.linkTimeout / 100 * 100) % 100 = 0 := by
    unfold clamp
    split
    · rfl
    · split
      · rfl
      · omega
  unfold Params.ok Params.clamped
  refine ⟨?_, ?_, b.2, c.2, d.2, e.2, h1, h3, f.2, g.1, g.2, i.1, i.2, k, j.1, j.2⟩ <;> dsimp only <;> omega

theorem foldl_timeout_keeps (l : List (Fin 4)) (s : State) :
    s.Keeps (l.foldl (fun t z => if t.overdue z then t.goStale z else t) s) := by
  refine State.keeps_foldl _ (fun s z => ?_) l s
  split
  · exact s.keeps_goStale z
  · exact State.Keeps.refl s

theorem State.goStale_engine (s : State) (z : Fin 4) : (s.goStale z).engine = s.engine := rfl
theorem State.goStale_plan (s : State) (z : Fin 4) : (s.goStale z).plan = s.plan := rfl
theorem State.goStale_census (s : State) (z : Fin 4) : (s.goStale z).census = s.census := rfl
theorem State.goStale_spares (s : State) (z : Fin 4) : (s.goStale z).spares = s.spares := rfl

theorem State.timeoutLowered_same (s : State) : s.timeoutLowered.engine = s.engine ∧ s.timeoutLowered.plan = s.plan ∧
    s.timeoutLowered.census = s.census ∧ s.timeoutLowered.spares = s.spares := by
  unfold State.timeoutLowered
  have : ∀ (l : List (Fin 4)) (s : State), (l.foldl (fun t z => if t.overdue z then t.goStale z else t) s).engine = s.engine ∧
    (l.foldl (fun t z => if t.overdue z then t.goStale z else t) s).plan = s.plan ∧
    (l.foldl (fun t z => if t.overdue z then t.goStale z else t) s).census = s.census ∧
    (l.foldl (fun t z => if t.overdue z then t.goStale z else t) s).spares = s.spares := by
    intro l
    induction l with
    | nil => intro s; exact ⟨rfl, rfl, rfl, rfl⟩
    | cons z t ih =>
      intro s
      obtain ⟨h1, h2, h3, h4⟩ := ih (if s.overdue z then s.goStale z else s)
      simp only [List.foldl_cons]
      rw [h1, h2, h3, h4]
      split
      · exact ⟨rfl, rfl, rfl, rfl⟩
      · exact ⟨rfl, rfl, rfl, rfl⟩
  exact this _ s

theorem State.modelChanged_keeps (s : State) : s.Keeps s.modelChanged := by
  unfold State.modelChanged
  refine State.Keeps.trans ?_ (State.keeps_recheck _ _)
  split
  · refine (s.keeps_stale .model (by simp)).trans ?_
    unfold State.queueRebuild
    split
    · exact State.Keeps.refl _
    · exact State.keeps_of_eq rfl rfl rfl rfl rfl rfl rfl rfl
  · exact State.Keeps.refl _

theorem State.modelChanged_plan (s : State) : s.modelChanged.plan = s.plan := by
  unfold State.modelChanged
  split <;> simp
theorem State.modelChanged_links (s : State) : s.modelChanged.links = s.links := by
  unfold State.modelChanged
  split <;> simp
theorem State.modelChanged_zones (s : State) : s.modelChanged.zones = s.zones := by
  unfold State.modelChanged
  split <;> simp
theorem State.modelChanged_reports (s : State) : s.modelChanged.reports = s.reports := by
  unfold State.modelChanged
  split <;> simp
theorem State.modelChanged_cells (s : State) : s.modelChanged.port.cells = s.port.cells ∧ s.modelChanged.port.memory = s.port.memory := by
  unfold State.modelChanged
  split
  · have : (s.stale .model).queueRebuild.port = (s.stale .model).port := by simp
    rw [State.recheck_port, this]
    unfold State.stale
    dsimp only
    split <;> exact ⟨rfl, rfl⟩
  · exact ⟨rfl, rfl⟩
theorem State.modelChanged_grows (s : State) : s.engine.Grows s.modelChanged.engine := by
  unfold State.modelChanged
  refine Engine.Grows.trans ?_ (State.grows_recheck _ _)
  split
  · exact (s.stale .model).grows_queueRebuild
  · exact .refl _
theorem State.modelChanged_census_held (s : State) (h : s.plan.held = true) :
   s.modelChanged.census = { s.census with state := .stale, cause := .model } ∧ Entry.rebuild ∈ s.modelChanged.engine.routine := by
  unfold State.modelChanged
  rw [if_pos h]
  refine ⟨by simp, ?_⟩
  obtain ⟨l, -, e⟩ := State.grows_recheck (s.stale .model).queueRebuild allStages
  rw [e]
  refine List.mem_append_left _ ?_
  unfold State.queueRebuild
  split
  · rename_i h
    simpa using h
  · simp
theorem State.modelChanged_census_not (s : State) (h : s.plan.held = false) :
   s.modelChanged.census = s.census := by
  unfold State.modelChanged
  rw [if_neg (by simp [h])]
  simp

theorem State.attempt_empty (s : State) (h : s.reports.pending = []) : s.attempt = s := by
  unfold State.attempt
  rw [emitAttempt_empty _ _ _ h]

theorem State.windowChanged_keepsPort (s : State) : s.windowChanged.port = s.port := rfl

theorem mapTable_get {α β : Type} {n : Nat} (f : α → β) (v : Vector α n) (i : Fin n) : (mapTable f v)[i] = f v[i] := by
  simp [mapTable]

theorem State.goStale_zone (s : State) (z y : Fin 4) (h : s.zones[y].map = [] ∧ s.zones[y].goodSweeps = 0 ∧
   s.zones[y].segments = Vector.replicate 64 Segment.cleared) :
   (s.goStale z).zones[y].map = [] ∧ (s.goStale z).zones[y].goodSweeps = 0 ∧
   (s.goStale z).zones[y].segments = Vector.replicate 64 Segment.cleared ∧ (s.goStale z).zones[y].settings = s.zones[y].settings := by
  unfold State.goStale
  dsimp only
  rw [State.onZone_zones, State.onLink_zones, State.mark_zones, State.onZone_zones]
  simp only [Fin.getElem_fin] at *
  by_cases e : z = y
  · subst e
    simp [Zone.restartPeriod, h, sparseMap]
  · have : z.val ≠ y.val := fun h => e (Fin.ext h)
    simp [this, h]

theorem State.timeoutLowered_zone (s : State) (y : Fin 4) (h : s.zones[y].map = [] ∧ s.zones[y].goodSweeps = 0 ∧
   s.zones[y].segments = Vector.replicate 64 Segment.cleared) :
   s.timeoutLowered.zones[y].map = [] ∧ s.timeoutLowered.zones[y].goodSweeps = 0 ∧
   s.timeoutLowered.zones[y].segments = Vector.replicate 64 Segment.cleared ∧ s.timeoutLowered.zones[y].settings = s.zones[y].settings := by
  unfold State.timeoutLowered
  generalize allZones = l
  induction l generalizing s with
  | nil => exact ⟨h.1, h.2.1, h.2.2, rfl⟩
  | cons z t ih =>
    simp only [List.foldl_cons]
    split
    · have g := State.goStale_zone s z y h
      have := ih (s.goStale z) ⟨g.1, g.2.1, g.2.2.1⟩
      exact ⟨this.1, this.2.1, this.2.2.1, this.2.2.2.trans g.2.2.2⟩
    · exact ih s h

theorem State.windowChanged_zone (s : State) (y : Fin 4) : s.windowChanged.zones[y].map = [] ∧ s.windowChanged.zones[y].goodSweeps = 0 ∧
   s.windowChanged.zones[y].segments = Vector.replicate 64 Segment.cleared ∧ s.windowChanged.zones[y].settings = s.zones[y].settings := by
  have : s.windowChanged.zones[y] = Zone.newWindow s.zones[y] := by
    show (mapTable Zone.newWindow s.zones)[y] = _
    rw [mapTable_get]
  rw [this]
  unfold Zone.newWindow
  dsimp only
  split <;> exact ⟨rfl, rfl, rfl, rfl⟩

theorem State.recheck_empty (s : State) (h : s.spares = Vector.replicate 8 []) (l : List (Fin 8)) : (s.recheck l).spares = Vector.replicate 8 [] := by
  apply Vector.ext
  intro i hi
  have := foldl_set_sublist l s.rechecked s.spares s.spares s.rechecked_sublist (fun _ => List.Sublist.refl _) ⟨i, hi⟩
  rw [State.recheck_spares]
  rw [h] at this
  simp only [Fin.getElem_fin, Vector.getElem_replicate, List.sublist_nil] at this
  rw [h]
  simpa using this

end Sys2Proof.Machine
end

