-- ==== Sys2Proof/Tests/Slice0.lean ====
section
/-! SUPPORT. The author's tests: the checks of WellFormed, small cases worked by hand from the manual, and for each
statement with hypotheses a state that meets them. -/

namespace Sys2Proof.Tests
open Sys2Proof Sys2Proof.Machine

-- One proof at a time: each proof that waits in a thread of its own takes the memory of a stack.
set_option Elab.async false

/-! ### States that the tests start from -/

/-- A routine order in cell 9. -/
def order9 (code : OrderCode) : Handed := { head := 9, rest := [], code := code, urgent := false, quiet := false }

/-- The port with cell 9 in a state, parameters in its payload and RUN 1. -/
def port9 (st : CellState) (params : List Byte) : Port :=
  { Port.powerOn with
    run := true
    cells := Port.powerOn.cells.set 0 st
    memory := Memory.writeAll [] (payloadOffset 9 0) params }

/-- A state with an order that waits in cell 9 and its parameters. -/
def asked (code : OrderCode) (params : List Byte) : State :=
  { State.reset with
    engine := { Engine.cleared with routine := [.order (order9 code)] }
    port := port9 .queued params }

/-- A state with work in the routine context, whose order holds cell 9. -/
def working (w : Work) : State :=
  { State.reset with
    engine := { Engine.cleared with routineContext := .running w }
    port := port9 .active [] }

theorem port9_memory (st : CellState) (params : List Byte) : (port9 st params).memory.wf = true :=
  Memory.writeAll_wf _ _ rfl

theorem port9_cell (st : CellState) (params : List Byte) : (port9 st params).cell 9 = some st := by
  unfold Port.cell port9
  simp [poolIndex, index, Config.firstCell]

/-- A routine order that waits alone in cell 9 is taken up. -/
theorem takes_alone {s : State} {o : Handed} (he : s.engine = { Engine.cleared with routine := [.order o] })
    (ho : o.cells = [9]) (hr : s.port.run = true) (h9 : s.port.cell 9 = some .queued)
    (hx : s.port.reset = none) (hm : s.memoryOk) (hl : ∀ z : Fin 4, s.links[z].slot = none) :
    s.takes o.code false o := by
  have hw : s.waiting = [o] := by unfold State.waiting; rw [he]; rfl
  have hk : s.working = [] := by
    unfold State.working
    rw [he]
    simp [Engine.cleared, RoutineContext.work, allZones]
    exact ⟨hl 0, hl 1, hl 2, hl 3⟩
  refine ⟨?_, ⟨?_, ?_, ?_, ?_, ?_⟩, hm⟩
  · unfold State.granted State.arbiter
    rw [he, hr]
    simp [Engine.cleared, RoutineContext.isRunning]
  · rw [hw, hk]; simp [ho]
  · rw [hw, hk]; simp [ho]
  · rw [hw]
    intro p hp c hc
    simp only [List.mem_singleton] at hp
    subst hp
    simp only [ho, List.mem_cons, List.not_mem_nil, or_false] at hc
    subst hc
    exact h9
  · rw [hk]; simp
  · intro h; exact absurd hx h

theorem takes_of {s : State} {code : OrderCode} (he : s.engine = (asked code []).engine) (hr : s.port.run = true)
    (h9 : s.port.cell 9 = some .queued) (hx : s.port.reset = none) (hm : s.memoryOk)
    (hl : ∀ z : Fin 4, s.links[z].slot = none) : s.takes code false (order9 code) :=
  takes_alone (o := order9 code) he rfl hr h9 hx hm hl

theorem takes_asked {s : State} {code : OrderCode} {params : List Byte} (he : s.engine = (asked code params).engine)
    (hp : s.port = (asked code params).port) (hl : ∀ z : Fin 4, s.links[z].slot = none) :
    s.takes code false (order9 code) :=
  takes_of he (by rw [hp]; rfl) (by rw [hp]; exact port9_cell _ _) (by rw [hp]; rfl)
    ⟨by rw [hp]; exact port9_memory _ _, by rw [hp]; rfl, .inl (by rw [hp]; rfl)⟩ hl

/-- Work whose order holds cell 9 runs. -/
theorem runs_of {s : State} {w : Work} {code : OrderCode} (he : s.engine = (working w).engine)
    (h9 : s.port.cell 9 = some .active) (hx : s.port.reset = none) (hm : s.memoryOk)
    (hl : ∀ z : Fin 4, s.links[z].slot = none) (hw : w.order = none ∨ w.order = some (order9 code)) : s.runs w := by
  have h0 : s.waiting = [] := by unfold State.waiting; rw [he]; rfl
  have hk : s.working = w.order.toList := by
    unfold State.working
    rw [he]
    simp [working, RoutineContext.work, allZones]
    exact ⟨hl 0, hl 1, hl 2, hl 3⟩
  refine ⟨?_, ?_, ⟨?_, ?_, ?_, ?_, ?_⟩, hm⟩
  · unfold State.running; rw [he]; rfl
  · rw [he]; rfl
  · rw [h0, hk]
    rcases hw with h | h <;> rw [h] <;> simp [order9, Handed.cells]
  · rw [h0, hk]
    rcases hw with h | h <;> rw [h] <;> simp [order9, Handed.cells]
  · rw [h0]; simp
  · rw [hk]
    intro o ho c hc
    rcases hw with h | h <;> rw [h] at ho
    · simp at ho
    · simp only [Option.toList_some, List.mem_singleton] at ho
      subst ho
      simp only [order9, Handed.cells, List.mem_cons, List.not_mem_nil, or_false] at hc
      subst hc
      exact h9
  · intro h; exact absurd hx h

theorem runs_working {s : State} {w : Work} (code : OrderCode) (he : s.engine = (working w).engine)
    (hp : s.port = (working w).port) (hl : ∀ z : Fin 4, s.links[z].slot = none)
    (hw : w.order = none ∨ w.order = some (order9 code)) : s.runs w :=
  runs_of he (by rw [hp]; exact port9_cell _ _) (by rw [hp]; rfl)
    ⟨by rw [hp]; exact port9_memory _ _, by rw [hp]; rfl, .inl (by rw [hp]; rfl)⟩ hl hw

theorem cleared_planesOk (st : CensusState) (cause : CensusCause) :
    Census.planesOk { state := st, cause := cause, plane3 := Vector.replicate 8 [], plane5 := Vector.replicate 8 [] } := by
  refine ⟨fun b => by simp [sparseOk], fun i => ?_⟩
  unfold Census.count
  split <;> simp [sparseGet]

theorem reset_slots : ∀ z : Fin 4, State.reset.links[z].slot = none := by decide

/-- A stage with no zone and one spare to keep. -/
def stageRecord : StageRecord :=
  { zone := none, autoMove := true, low := 20000, high := 20003, multiple := 1, bandwidth := .standard, target := 1 }

/-- The fields of a channel at stage 0. -/
def fields5 : ChannelFields :=
  { stage := 0, low := 20000, high := 20001, multiple := 1, bandwidth := .standard, priority := 3, autoMove := true }

/-- A channel at stage 0 with a hold. -/
def channelWith (h : Hold) : ChannelRecord := { fields := fields5, hold := h, mark := none }

/-- A state whose stage 0 is DEFINED and whose channel 5 has a hold. -/
def planned (s : State) (h : Hold) : State :=
  { s with
    site := s.site.setStage 0 stageRecord
    plan := Plan.cleared.setChannel 5 (some (channelWith h)) }

theorem planned_channel (s : State) (h : Hold) : (planned s h).channel 5 = some (channelWith h) := by
  unfold State.channel planned Plan.setChannel
  simp

/-- A state in which channel 6 is LIVE ten steps above channel 5. -/
def paired (s : State) : State :=
  { planned s (.live 20000) with
    plan := (planned s (.live 20000)).plan.setChannel 6
      (some { fields := { fields5 with high := 20020 }, hold := .live 20010, mark := none }) }

/-- A frequency of channel 5 or 6 as a transmitter. -/
def transmitter (c : Fin 256) (f : Nat) : Transmitter :=
  { channel := c, secondary := false, stage := 0, step := f, halfWidth := 4 }

/-- A state whose routine list holds an internal entry. -/
def granting (e : Entry) : State :=
  { State.reset with
    engine := { Engine.cleared with routine := [e] }
    port := { Port.powerOn with run := true } }

/-- A pool in which no cell is FREE, so that no report can be emitted. -/
def fullPool (first : CellState) : Vector CellState 503 := (Vector.replicate 503 .held).set 0 first

/-! ### The ends of orders -/

/-- A QUIET order ends without delivery when it is DONE. -/
theorem witness_silent_end :
    let o : Handed := { order9 .markLive with quiet := true }
    let s := { planned (asked .markLive [5, 0]) (.placed 20000) with
      engine := { Engine.cleared with routine := [.order o] } }
    s.takes .markLive false o ∧ o.silent .done = true ∧ o.silent .refused = false ∧ s.hold 5 = some (.placed 20000) :=
  ⟨takes_alone (o := { order9 .markLive with quiet := true }) rfl rfl rfl (port9_cell _ _) rfl
    ⟨port9_memory _ _, rfl, .inl rfl⟩ reset_slots, rfl, rfl, by decide +kernel⟩

/-! ### The checks of WellFormed -/

theorem test_wellFormed_refuses_stride :
    Instr.wellFormed (.sweep 0 1 18800 3 0 [60]) = false := by decide

theorem test_wellFormed_refuses_no_levels :
    Instr.wellFormed (.sweep 0 1 18800 4 0 []) = false := by decide

theorem test_wellFormed_refuses_register_write :
    Instr.wellFormed (.hostCellWrite 0x20000 [1]) = false := by decide

theorem test_wellFormed_refuses_empty_write : Instr.wellFormed (.hostCellWrite 0x900 []) = false := by decide

theorem test_wellFormed_takes_ordinary_commands :
    Instr.wellFormed (.sweep 0 1 18800 8 1 [60, 61]) = true ∧ Instr.wellFormed (.hostCellWrite 0x900 [1]) = true ∧
      Instr.wellFormed .claim = true := by decide

/-! ### Cases worked in the manual -/

/-- An IDLE frame as 12.6 spells it: the CRC over its length and type. -/
theorem test_idle_frame_crc : crc [0x00, 0x01, 0x04] = 48937#16 := by decide +kernel

/-- The receiver hunts the sync pair, and a complete IDLE frame is an IDLE event. -/
theorem test_receiver_idle :
    receive 2 (feedAll ([0x11, 0x9B] ++ frameBytes 0x04 [])) = (some (.idle 2), []) := by decide +kernel

/-- A broken CRC is a CRC error. -/
theorem test_receiver_crc :
    receive 1 (feedAll [0x9B, 0x64, 0x00, 0x01, 0x04, 0x00, 0x00]) = (some (.crcError 1), []) := by decide +kernel

/-- The required spacing of two WIDE channels under the default margin (4.3). -/
theorem test_spacing_wide :
    State.reset.spacing { step := 20000, halfWidth := 8, multiple := 1, range := none, stage := 0 }
      { channel := 0, secondary := false, stage := 0, step := 20024, halfWidth := 8 } = 24 := by decide

/-- The pair 24,000 and 24,016 of the worked case of 4.5 makes 23,984 and 24,032. -/
theorem test_pair_products : pairThird 24000 24016 = [23984, 24032] := by decide

/-- The grid points of a range on multiples of 4. -/
theorem test_grid_points : (gridOf 4 (some (16001, 16010))).points = [16004, 16008] := by decide

/-- A preferred grid point is tried first (R70). -/
theorem test_walk_preferred :
    let w := walkOf (gridOf 4 (some (16000, 16012))) 16008
    (List.range w.length).map w.at = [16008, 16000, 16004, 16012] := by decide

/-- T_sp is clamped first, and T_im then to it (R3). -/
theorem test_clamp_tIm :
    ({ Params.powerOn with tIm := 95, tSp := 20, linkTimeout := 12345 } : Params).clamped =
      { Params.powerOn with tIm := 20, tSp := 20, linkTimeout := 10000 } := by decide

/-! ### States that meet the hypotheses of the statements -/

theorem witness_StepRunsFrontCommand :
    ({ State.reset with pending := [.claim, .idle 0] } : State).pending = .claim :: [.idle 0] := rfl

/-- The state after reset meets every condition under which an event is absent. -/
theorem witness_AbsentEventsChangeNothing :
    let s := State.reset
    (∀ code, s.granted code = none) ∧ (∀ c f, s.arbiter ≠ some (.takeUrgent (.autoMove c f))) ∧
      s.arbiter ≠ some (.takeRoutine .rebuild) ∧ (∀ b, s.arbiter ≠ some (.takeRoutine (.upkeep b))) ∧
      (∀ w, s.arbiter ≠ some (.resume w)) ∧ (∀ w, s.running ≠ some w) ∧ s.links[0].slot = none ∧
      s.zones[3].freshness = .silent ∧ (∀ f g e, s.hold 255 ≠ some (.moving f g e)) ∧ s.port.reset = none ∧
      hostRangeOk 0x1FFFF 2 = false := by
  have a : State.reset.arbiter = none := rfl
  have g : ∀ code, State.reset.granted code = none := fun code => by unfold State.granted; rw [a]
  have h : State.reset.hold 255 = none := by decide +kernel
  refine ⟨g, ?_, ?_, ?_, ?_, ?_, rfl, rfl, ?_, rfl, by decide⟩
  iterate 4 simp only [a]; simp
  · simp [State.running, State.reset, Engine.cleared]
  · simp only [h]; simp

/-- Each case of the arbiter occurs. -/
theorem witness_ArbiterHandsOut :
    (asked .cancel []).arbiter = some (.takeRoutine (.order (order9 .cancel))) ∧
      (working .single).arbiter = none ∧ State.reset.arbiter = none ∧
      ({ asked .cancel [] with engine := { urgent := [.autoMove 3 20000], routine := [], urgentContext := .idle,
                                           routineContext := .suspended .single } } : State).arbiter =
        some (.takeUrgent (.autoMove 3 20000)) ∧
      ({ asked .cancel [] with engine := { urgent := [], routine := [.rebuild], urgentContext := .idle,
                                           routineContext := .suspended .single } } : State).arbiter =
        some (.resume .single) := ⟨rfl, rfl, rfl, rfl, rfl⟩

/-- A state with nothing to hand out in which nothing is due yet, at a time, with channel 5 MOVING until 90, the probe of
link 2 waiting until 80 and link 1 WARMING since 0 with a timeout of 2,000. -/
def waitingUntil (now : Nat) : State :=
  { State.reset with
    now := now
    plan := Plan.cleared.setChannel 5 (some (channelWith (.moving 20000 20001 90)))
    zones := State.reset.zones.set 1 { Zone.powerOn with freshness := .warming }
    links := (State.reset.links.set 1 { Link.cleared with lastValid := some 0 }).set 2 { Link.cleared with
      slot := some { order := order9 .probe, probeId := 1, step := 20000, threshold := 0, deadline := 80 } } }

/-- What is due by itself at the last moment before each time and at that time: the probe deadline comes before the move
timer, and a reset that ends before both. -/
theorem witness_ArbiterHandsOut_alone :
    (waitingUntil 79).pending = [] ∧ (waitingUntil 79).arbiter = none ∧ (waitingUntil 79).running = none ∧
      (waitingUntil 79).due = none ∧ (waitingUntil 80).due = some (.probeDeadline 2) ∧
      (waitingUntil 2000).due = some (.probeDeadline 2) ∧
      (let s := { waitingUntil 89 with links := State.reset.links };
        s.due = none ∧ ({ s with now := 90 } : State).due = some (.moveTimerExpiry 5)) ∧
      (let s := { waitingUntil 1999 with
          plan := Plan.cleared, links := State.reset.links.set 1 { Link.cleared with lastValid := some 0 } };
        s.due = none ∧ ({ s with now := 2000 } : State).due = some (.linkTimeout 1)) ∧
      (let s := { waitingUntil 90 with
          port := { Port.powerOn with reset := some { kind := .exchange, ends := 91 } } };
        s.due = some (.probeDeadline 2) ∧ ({ s with now := 91 } : State).due = some .resetEnd) ∧
      (working (.place { order := order9 .place, bestEffort := false, strict := false, budget := 1, used := 0,
                         deepest := 0, entries := [], stack := [], rest := [], unplaced := [] })).due =
        some .placeStep := by decide +kernel

/-- With nothing due and no byte on a line the clock goes on. -/
theorem test_clock_goes_on : ∃ t, step State.reset = .next t ∧ t.now = 1 := ⟨_, rfl, rfl⟩

/-- What the cell 9 is after a command. -/
def cell9After (c : Instr) (s : State) : Option CellState :=
  match exec c s with
  | .next t => t.port.cell 9
  | .fault _ | .refused _ => none

/-- RUN 1 takes an order that waits up in the same event: a CANCEL that names no pool cell is over at once. -/
theorem test_run_takes_up :
    (let s := asked .cancel []
     cell9After (.ctlRun true false) { s with port := { s.port with run := false } } = some .delivered ∧
       cell9After (.ctlRun false true) { s with port := { s.port with run := false } } = some .queued) := by
  decide +kernel

/-- An order that waits stands in a state with every invariant, from which a step goes on. -/
theorem witness_StepKeepsInvariants :
    let s := { asked .markLive [5, 0] with pending := [.note 0x1F] }
    s.memoryOk ∧ s.site.window.ok = true ∧ s.site.params.ok ∧ s.census.planesOk ∧ s.census.causeOk ∧ s.mapsOk ∧
      s.reports.subjectsOnce ∧ s.sparesOk ∧ s.engineOk ∧ ∃ t, step s = .next t := by
  have tk : (asked .markLive [5, 0]).takes .markLive false (order9 .markLive) := takes_asked rfl rfl reset_slots
  refine ⟨tk.2.2, by decide, by simp [Params.ok, asked, State.reset, Site.powerOn, Params.powerOn, Config.budgetLimit], cleared_planesOk _ _, by simp [Census.causeOk, asked, State.reset, Census.cleared],
    ?_, by simp [Reports.subjectsOnce, asked, State.reset, Reports.cleared], ?_, ⟨tk.2.1, rfl, by simp [asked, Engine.cleared,
    RoutineContext.work], by simp [asked, Engine.cleared], ?_⟩, ⟨_, rfl⟩⟩
  · intro z
    simp [asked, State.reset, Zone.powerOn, sparseOk]
  · intro b
    simp [asked, State.reset]
  · simp [asked, Engine.cleared, Entry.routineOk, order9]

/-- A search that stands at channel 5, with nothing chosen yet. -/
def searching : PlaceWork :=
  { order := order9 .place, bestEffort := false, strict := false, budget := 10, used := 0, deepest := 0,
    entries := [.working 5], rest := [], unplaced := []
    stack := [{ item := { channel := 5, walk := walkOf (gridOf 1 (some (20000, 20001))) 0xFFFF }, cursor := 0,
                chosen := none }] }

/-- A PLACE at channel 5 beside a LIVE channel 6 and two spares of stage 0. -/
def busyPlan : State :=
  let s := working (.place searching)
  { s with
    site := s.site.setStage 0 { stageRecord with target := 2 }
    plan := (Plan.cleared.setChannel 5 (some { channelWith .defined with mark := some 9 })).setChannel 6
      (some { fields := { fields5 with high := 20020 }, hold := .live 20010, mark := none })
    spares := (Vector.replicate 8 []).set 0 [{ step := 20060, score := 9 }, { step := 20040, score := 7 }]
    pending := [.placeStep] }

theorem heldOk_of {s : State} (h : ∀ c : Fin 256, ((s.channel c).all fun r => r.hold.frequencies.all fun f =>
    s.check1 (s.site.channelCandidate r f.2)) = true) : s.heldOk := by
  intro c r hr f hf
  have := h c
  rw [hr] at this
  exact List.all_eq_true.mp this f hf

theorem sparesPass_of {s : State} (h : ∀ b : Fin 8, ((s.site.stages[b]).all fun r => (s.spares[b]).all fun x =>
    let c := s.site.spareCandidate b r x.step
    s.check2 c && s.check4 c s.plan.transmitters && s.check5 c s.plan.transmitters [] &&
      s.check6 c s.plan.transmitters) = true) : s.sparesPass := by
  intro b r hr x hx
  have := h b
  rw [hr] at this
  have := List.all_eq_true.mp this x hx
  simp only [Bool.and_eq_true] at this
  exact ⟨this.1.1.1, this.1.1.2, this.1.2, this.2⟩

theorem exactFor_empty (s : State) (l : List Transmitter) (hs : s.census.plane3 = Vector.replicate 8 [])
    (hf : s.census.plane5 = Vector.replicate 8 []) (h3 : ∀ b, s.site.thirdOf b l [] = [])
    (h5 : ∀ b, s.site.fifthOf b l [] = []) : s.exactFor l := by
  intro b n
  simp [Census.count, hs, hf, h3, h5, landing, sparseGet]

/-- A PLACE in progress in a plan that holds a frequency and spares meets the invariants of the plan, and its step goes
on. -/
theorem witness_StepKeepsPlanRules :
    busyPlan.engineOk ∧ busyPlan.searchOk ∧ busyPlan.heldOk ∧ busyPlan.sparesOk ∧ busyPlan.sparesApart ∧
      busyPlan.census.planesOk ∧ busyPlan.rebuildUndisturbed ∧ busyPlan.censusExact ∧ busyPlan.sparesPass ∧
      ∃ t, step busyPlan = .next t := by
  have rn : busyPlan.runs (.place searching) := runs_of (code := .place) rfl (port9_cell _ _) rfl
    ⟨port9_memory .active [], rfl, .inl rfl⟩ reset_slots (.inr rfl)
  refine ⟨⟨rn.2.2.1, rfl, by simp [busyPlan, working, RoutineContext.work], by simp [busyPlan, working, Engine.cleared],
    by simp [busyPlan, working, Engine.cleared]⟩, ?_, heldOk_of (by decide +kernel), ?_, ?_, cleared_planesOk _ _,
    ⟨by simp [busyPlan, working], by simp [busyPlan, working]⟩,
    ⟨fun _ => exactFor_empty _ _ rfl rfl (by decide +kernel) (by decide +kernel), by simp [busyPlan, working]⟩,
    sparesPass_of (by decide +kernel), ⟨_, rfl⟩⟩
  · intro w hw
    cases hw
    exact ⟨by decide, by decide +kernel, by simp [searching], by decide +kernel, by simp [searching]⟩
  · intro b
    fin_cases b <;> simp [busyPlan, Spare.above, working, Site.target, Site.setStage]
  · intro b r hr
    have : ∀ b : Fin 8, b ≠ 0 → busyPlan.site.stages[b] = none := by decide +kernel
    by_cases h : b = 0
    · subst h
      cases hr
      decide
    · rw [this b h] at hr
      cases hr

/-- A REBUILD that runs over exact planes, with no urgent entry behind it. -/
theorem witness_StepKeepsPlanRules_rebuild :
    let w : RebuildWork := { order := some (order9 .rebuildCensus), epoch := 0, generation := 0, restarts := 0,
                             phase := .sweep, position := 0, added := 1, marked := [] }
    let s := { planned (working (.rebuild w)) (.live 20000) with
      census := { Census.cleared with state := .rebuilding }, pending := [.rebuildStep] }
    s.engine.routineContext = .running (.rebuild w) ∧ s.rebuildUndisturbed ∧ s.censusExact ∧
      s.census.state = .rebuilding ∧ ∃ t, step s = .next t := by
  refine ⟨rfl, ⟨by simp [planned, working], by simp [planned, working, Engine.cleared]⟩, ⟨fun h => absurd h (by decide), ?_⟩, rfl,
    ⟨_, rfl⟩⟩
  intro v hv
  cases hv
  exact ⟨rfl, fun h => absurd h (by decide),
    fun _ => exactFor_empty _ _ rfl rfl (by decide +kernel) (by decide +kernel)⟩

/-- So does the state after reset with a command in its queue, in which the line and the header are in agreement and the
site model is sound. -/
theorem witness_StepKeepsLineAndHeader :
    let s := { State.reset with pending := [.note 0x1F] }
    s.lineTrue ∧ s.headerTrue ∧ s.site.sound ∧ ∃ t, step s = .next t :=
  ⟨rfl, .inl (by decide +kernel), ⟨by decide, by simp [Params.ok, State.reset, Site.powerOn, Params.powerOn,
    Config.budgetLimit], by unfold Site.couplingOk; decide, by simp [Site.exclusionsOk, State.reset, Site.powerOn]⟩, _, rfl⟩

/-- SET PARAMETERS with the power-on values but a margin of 41. -/
def parameterBytes : List Byte := half 18800 ++ half 8192 ++ [25, 40, 41, 2, 1, 1, 8, 0] ++ half 15 ++ half 2000
  ++ word 1048576

theorem witness_SetParametersStoresClamped :
    let s := planned (asked .setParameters parameterBytes) (.live 20000)
    let o := order9 .setParameters
    s.takes .setParameters false o ∧ (s.sentWindow o).ok = true ∧ (s.sentParams o).imLevel = 1 ∧
      s.site.window = s.sentWindow o ∧ s.plan.held = true ∧
      s.site.params.checkChange (s.sentParams o).clamped = true ∧ (s.sentParams o).clamped.margin = 40 :=
  ⟨takes_asked rfl rfl reset_slots, by decide +kernel, by decide +kernel, by decide +kernel, by decide +kernel,
    by decide +kernel, by decide +kernel⟩

/-- A reserve of 9 and nothing else new. -/
theorem witness_SetParameters_reserve :
    let s := asked .setParameters (parameterBytes.take 5 ++ [40, 8, 2, 1, 1, 9] ++ parameterBytes.drop 11)
    let o := order9 .setParameters
    s.takes .setParameters false o ∧ (s.sentWindow o).ok = true ∧ (s.sentParams o).imLevel = 1 ∧
      s.site.window = s.sentWindow o ∧ s.site.params.linkTimeout ≤ (s.sentParams o).clamped.linkTimeout ∧
      s.site.params.reserve ≠ (s.sentParams o).clamped.reserve :=
  ⟨takes_asked rfl rfl reset_slots, by decide +kernel, by decide +kernel, by decide +kernel, by decide +kernel,
    by decide +kernel⟩

/-- A window of the least width, at the top of the grid, while nothing is held. -/
theorem witness_SetParameters_window :
    let s := asked .setParameters (half 40896 ++ half 64 ++ parameterBytes.drop 4)
    let o := order9 .setParameters
    s.takes .setParameters false o ∧ (s.sentWindow o).ok = true ∧ s.plan.held = false ∧
      s.site.window ≠ s.sentWindow o :=
  ⟨takes_asked rfl rfl reset_slots, by decide +kernel, by decide +kernel, by decide +kernel⟩

/-- A timeout of 1,000 in place of 2,000, a reserve of 9 and the power-on margin, over a WARMING zone that has been silent
for exactly 1,000 and a FRESH one that has been silent for 999. -/
theorem witness_SetParameters_timeout :
    let s := { asked .setParameters (parameterBytes.take 6 ++ [8, 2, 1, 1, 9, 0] ++ half 15 ++ half 1000 ++ word 1048576) with
      now := 1500
      zones := (State.reset.zones.set 0 { Zone.powerOn with freshness := .warming }).set 1
        { Zone.powerOn with freshness := .fresh }
      links := (State.reset.links.set 0 { Link.cleared with lastValid := some 500 }).set 1
        { Link.cleared with lastValid := some 501 } }
    let o := order9 .setParameters
    let q := (s.sentParams o).clamped
    s.takes .setParameters false o ∧ (s.sentWindow o).ok = true ∧ (s.sentParams o).imLevel = 1 ∧
      s.site.window = s.sentWindow o ∧ s.site.params.checkChange q = false ∧ s.site.params.reserve ≠ q.reserve ∧
      q.linkTimeout = 1000 ∧ q.linkTimeout < s.site.params.linkTimeout ∧
      (setParametersOrder o (s.begin false o)).zones[(0 : Fin 4)].freshness = .stale ∧
      (setParametersOrder o (s.begin false o)).zones[(1 : Fin 4)].freshness = .fresh :=
  ⟨takes_asked rfl rfl (by decide), by decide +kernel, by decide +kernel, by decide +kernel, by decide +kernel,
    by decide +kernel, by decide +kernel, by decide +kernel, by decide +kernel, by decide +kernel⟩

theorem witness_DefineStageStoresRecord :
    let s := asked .defineStage ([7, 0xFF, 1, 5, 2, 9, 0, 0] ++ half 16000 ++ half 40959)
    let o := order9 .defineStage
    s.takes .defineStage false o ∧ index 8 (s.param o 0 1) = some 7 ∧
      stageRecordOf (s.param o 1 1) (s.param o 2 1) (s.param o 3 1) (s.param o 4 1) (s.param o 5 1) (s.param o 8 2)
        (s.param o 10 2) = some { zone := none, autoMove := true, low := 16000, high := 40959, multiple := 5,
                                  bandwidth := .wide, target := 8 } :=
  ⟨takes_asked rfl rfl reset_slots, by decide +kernel, by decide +kernel⟩

theorem witness_SetCouplingStoresBothWays :
    let s := asked .setCoupling [2, 0, 0, 0, 0, 7, 91, 0, 7, 0, 30, 0]
    let o := order9 .setCoupling
    s.takes .setCoupling false o ∧ s.param o 0 1 = 2 ∧
      allPresent ((List.range (s.param o 0 1)).map (s.couplingEntry o)) = some [(0, 7, 91), (7, 0, 30)] :=
  ⟨takes_asked rfl rfl reset_slots, by decide +kernel, by decide +kernel⟩

/-- An exclusion of one step for stage 7. -/
def exclusion : Exclusion := { low := 20000, high := 20000, mask := 0x80, kind := .manual }

theorem witness_ExclusionOrdersChangeList :
    let s := asked .addExclusion (half 20000 ++ half 20000 ++ [0x80, 2])
    let t := { asked .dropExclusion (half 20000 ++ half 20000 ++ [0x80, 2]) with
      site := { Site.powerOn with exclusions := [exclusion] } }
    let o := order9 .addExclusion
    let p := order9 .dropExclusion
    (s.takes .addExclusion false o ∧ s.sentExclusion o = some exclusion ∧ exclusion.ok = true ∧
      exclusion ∉ s.site.exclusions ∧ s.site.exclusions.length < 64) ∧
      t.takes .dropExclusion false p ∧ validStep (t.param p 0 2) = true ∧ validStep (t.param p 2 2) = true ∧
        t.sentExclusion p = some exclusion ∧ exclusion ∈ t.site.exclusions :=
  ⟨⟨takes_asked rfl rfl reset_slots, by decide +kernel, by decide, by decide, by decide⟩,
    takes_asked rfl rfl reset_slots, by decide +kernel, by decide +kernel, by decide +kernel, by decide⟩

/-- An ADD EXCLUSION over the frequency of a channel, with cells to report it. -/
theorem witness_ExclusionOrdersChangeList_conflict :
    let s := planned (asked .addExclusion (half 20000 ++ half 20000 ++ [1, 2])) (.live 20000)
    let e : Exclusion := { exclusion with mask := 1 }
    s.takes .addExclusion false (order9 .addExclusion) ∧ s.sentExclusion (order9 .addExclusion) = some e ∧
      s.conflicting e = [5] ∧ s.site.params.reserve < s.port.freeCount :=
  ⟨takes_asked rfl rfl reset_slots, by decide +kernel, by decide +kernel, by decide +kernel⟩

/-- A DROP EXCLUSION beside a spare that passes. -/
theorem witness_ExclusionOrdersChangeList_drop :
    let s := { asked .dropExclusion (half 20000 ++ half 20000 ++ [0x80, 2]) with
      site := { Site.powerOn.setStage 7 stageRecord with exclusions := [exclusion] }
      spares := (Vector.replicate 8 []).set 7 [{ step := 20010, score := 9 }] }
    s.takes .dropExclusion false (order9 .dropExclusion) ∧ s.sparesPass ∧ s.sparesApart ∧ s.spares[(7 : Fin 8)] ≠ [] := by
  refine ⟨takes_asked rfl rfl reset_slots, sparesPass_of (by decide +kernel), fun b r hr => ?_, by decide⟩
  fin_cases b <;> simp

theorem witness_SiteOrdersRefused :
    (asked .setParameters []).sentWindow (order9 .setParameters) = { w0 := 0, width := 0 } ∧
      ((asked .setParameters []).sentWindow (order9 .setParameters)).ok = false ∧
      ((asked .setParameters parameterBytes).sentParams (order9 .setParameters)).imLevel = 1 ∧
      ((asked .setParameters (half 18800 ++ half 64)).sentParams (order9 .setParameters)).imLevel = 0 := by
  decide +kernel

theorem witness_SiteOrdersRefused_states :
    let a := planned (asked .setParameters (half 18800 ++ half 64 ++ parameterBytes.drop 4)) (.placed 20000)
    let b := asked .defineStage [8]
    let c := asked .setCoupling [29]
    let d := asked .setCoupling [1, 0, 0, 0, 3, 3, 9, 0]
    let e := asked .addExclusion (half 20000 ++ half 19999 ++ [0xFF, 0])
    let f := { asked .addExclusion (half 20000 ++ half 20000 ++ [0x80, 2]) with
      site := { Site.powerOn with exclusions := [exclusion] } }
    let g := asked .dropExclusion (half 16000 ++ half 40959 ++ [1, 0])
    (a.takes .setParameters false (order9 .setParameters) ∧ (a.sentWindow (order9 .setParameters)).ok = true ∧
      a.site.window ≠ a.sentWindow (order9 .setParameters) ∧ a.plan.held = true) ∧
    (b.takes .defineStage false (order9 .defineStage) ∧ 7 < b.param (order9 .defineStage) 0 1) ∧
    (c.takes .setCoupling false (order9 .setCoupling) ∧ 28 < c.param (order9 .setCoupling) 0 1) ∧
    (d.takes .setCoupling false (order9 .setCoupling) ∧ d.couplingEntry (order9 .setCoupling) 0 = none) ∧
    (e.takes .addExclusion false (order9 .addExclusion) ∧
      ((e.sentExclusion (order9 .addExclusion)).map Exclusion.ok) = some false) ∧
    (f.takes .addExclusion false (order9 .addExclusion) ∧ f.sentExclusion (order9 .addExclusion) = some exclusion ∧
      exclusion ∈ f.site.exclusions) ∧
    (g.takes .dropExclusion false (order9 .dropExclusion) ∧ validStep (g.param (order9 .dropExclusion) 0 2) = true ∧
      validStep (g.param (order9 .dropExclusion) 2 2) = true ∧
      (g.sentExclusion (order9 .dropExclusion)).isSome = true ∧ g.site.exclusions = []) :=
  ⟨⟨takes_asked rfl rfl reset_slots, by decide +kernel, by decide +kernel, by decide +kernel⟩,
    ⟨takes_asked rfl rfl reset_slots, by decide +kernel⟩, ⟨takes_asked rfl rfl reset_slots, by decide +kernel⟩,
    ⟨takes_asked rfl rfl reset_slots, by decide +kernel⟩, ⟨takes_asked rfl rfl reset_slots, by decide +kernel⟩,
    ⟨takes_asked rfl rfl reset_slots, by decide +kernel, by decide⟩,
    takes_asked rfl rfl reset_slots, by decide +kernel, by decide +kernel, by decide +kernel, rfl⟩

/-- A bound one step outside 16,000 to 40,959 is no valid step, and a kind of 3 makes a record that is in no list. -/
theorem witness_SiteOrdersRefused_drop :
    let a := asked .dropExclusion (half 15999 ++ half 20000 ++ [1, 0])
    let b := asked .dropExclusion (half 16000 ++ half 40960 ++ [1, 0])
    let c := asked .dropExclusion (half 16000 ++ half 40959 ++ [1, 3])
    let o := order9 .dropExclusion
    (a.takes .dropExclusion false o ∧ validStep (a.param o 0 2) = false) ∧
    (b.takes .dropExclusion false o ∧ validStep (b.param o 2 2) = false) ∧
      c.takes .dropExclusion false o ∧ validStep (c.param o 0 2) = true ∧ validStep (c.param o 2 2) = true ∧
        c.sentExclusion o = none :=
  ⟨⟨takes_asked rfl rfl reset_slots, by decide +kernel⟩, ⟨takes_asked rfl rfl reset_slots, by decide +kernel⟩,
    takes_asked rfl rfl reset_slots, by decide +kernel, by decide +kernel, by decide +kernel⟩

/-- DEFINE CHANNEL for channel 5: the fields the tests use. -/
def channelBytes : List Byte := half 5 ++ [0, 1, 1, 3, 1, 0] ++ half 20000 ++ half 20001

theorem witness_DefineChannelStoresFields :
    let s := planned (asked .defineChannel channelBytes) .defined
    let t := planned (asked .defineChannel channelBytes) (.live 20000)
    let o := order9 .defineChannel
    (s.takes .defineChannel false o ∧ s.sentChannel o = some 5 ∧ s.sentFields o = some fields5 ∧
      s.hold 5 = some .defined ∧ (s.site.stages[fields5.stage]).isSome = true) ∧
      t.takes .defineChannel false o ∧ t.sentChannel o = some 5 ∧ t.sentFields o = some fields5 ∧
        t.channel 5 = some (channelWith (.live 20000)) ∧ t.keeps fields5 (.live 20000) = true :=
  ⟨⟨takes_asked rfl rfl reset_slots, by decide +kernel, by decide +kernel, by decide +kernel, by decide +kernel⟩,
    takes_asked rfl rfl reset_slots, by decide +kernel, by decide +kernel, planned_channel _ _, by decide +kernel⟩

theorem witness_RetireAndMarkSwitchState :
    let s := planned (asked .retireChannel [5, 0]) .defined
    let t := planned (asked .markLive [5, 0]) (.placed 20000)
    let v := planned (asked .markIdle [5, 0]) (.live 20000)
    (s.takes .retireChannel false (order9 .retireChannel) ∧ s.sentChannel (order9 .retireChannel) = some 5 ∧
      s.hold 5 = some .defined) ∧
    (t.takes .markLive false (order9 .markLive) ∧ t.sentChannel (order9 .markLive) = some 5 ∧
      t.hold 5 = some (.placed 20000)) ∧
    (v.takes .markIdle false (order9 .markIdle) ∧ v.sentChannel (order9 .markIdle) = some 5 ∧
      v.hold 5 = some (.live 20000)) :=
  ⟨⟨takes_asked rfl rfl reset_slots, by decide +kernel, by decide +kernel⟩,
    ⟨takes_asked rfl rfl reset_slots, by decide +kernel, by decide +kernel⟩,
    takes_asked rfl rfl reset_slots, by decide +kernel, by decide +kernel⟩

theorem witness_ReleaseRemovesPrimary :
    let s := planned (asked .release [5, 0]) (.placed 20000)
    let t := planned (asked .release [5, 0]) .defined
    let o := order9 .release
    (s.takes .release false o ∧ s.sentChannel o = some 5 ∧ s.channel 5 = some (channelWith (.placed 20000)) ∧
      s.census.planesOk) ∧
      t.takes .release false o ∧ t.sentChannel o = some 5 ∧ t.channel 5 = some (channelWith .defined) :=
  ⟨⟨takes_asked rfl rfl reset_slots, by decide +kernel, planned_channel _ _, cleared_planesOk _ _⟩,
    takes_asked rfl rfl reset_slots, by decide +kernel, planned_channel _ _⟩

theorem witness_ConfirmAndDeclineEndMove :
    let s := planned (asked .confirmMove [5, 0]) (.moving 20001 20000 15000)
    let t := planned (asked .declineMove [5, 0]) (.unresolved 20001 20000)
    (s.takes .confirmMove false (order9 .confirmMove) ∧ s.sentChannel (order9 .confirmMove) = some 5 ∧
      s.channel 5 = some (channelWith (.moving 20001 20000 15000)) ∧ s.census.planesOk) ∧
      t.takes .declineMove false (order9 .declineMove) ∧ t.sentChannel (order9 .declineMove) = some 5 ∧
        t.channel 5 = some (channelWith (.unresolved 20001 20000)) ∧ t.census.planesOk :=
  ⟨⟨takes_asked rfl rfl reset_slots, by decide +kernel, planned_channel _ _, cleared_planesOk _ _⟩,
    takes_asked rfl rfl reset_slots, by decide +kernel, planned_channel _ _, cleared_planesOk _ _⟩

/-- The conditions of the refusals of orders that name a channel, each met by an order. -/
theorem witness_PlanOrdersRefused :
    ((asked .release [0, 1]).takes .release false (order9 .release) ∧
      255 < (asked .release [0, 1]).param (order9 .release) 0 2) ∧
    ((asked .pin [5, 0]).takes .pin false (order9 .pin) ∧ (asked .pin [5, 0]).sentChannel (order9 .pin) = some 5 ∧
      (asked .pin [5, 0]).hold 5 = none ∧ validStep ((asked .pin [5, 0]).param (order9 .pin) 2 2) = false) ∧
    (let s := planned (asked .replace [5, 0, 2]) (.live 20000);
      s.takes .replace false (order9 .replace) ∧ s.sentChannel (order9 .replace) = some 5 ∧
        s.hold 5 = some (.live 20000) ∧ s.marked 5 = false ∧ 2 ≤ s.param (order9 .replace) 2 1) ∧
    (let s := { asked .pin ([5, 0] ++ half 20000 ++ [3]) with
        plan := Plan.cleared.setChannel 5 (some { channelWith .defined with mark := some 20 }) };
      s.takes .pin false (order9 .pin) ∧ s.sentChannel (order9 .pin) = some 5 ∧ s.marked 5 = true ∧
        validStep (s.param (order9 .pin) 2 2) = true ∧ s.param (order9 .pin) 4 1 < 4) ∧
    (asked .checkList []).port.headField 9 12 2 = 0 ∧ (asked .place []).param (order9 .place) 0 2 = 0 ∧
    (asked .refillSpares []).param (order9 .refillSpares) 0 1 = 0 :=
  ⟨⟨takes_asked rfl rfl reset_slots, by decide +kernel⟩,
    ⟨takes_asked rfl rfl reset_slots, by decide +kernel, by decide +kernel, by decide +kernel⟩,
    ⟨takes_asked rfl rfl reset_slots, by decide +kernel, by decide +kernel, by decide +kernel, by decide +kernel⟩,
    ⟨takes_asked rfl rfl reset_slots, by decide +kernel, by decide +kernel, by decide +kernel, by decide +kernel⟩,
    by decide +kernel, by decide +kernel, by decide +kernel⟩

/-- Every bound of DEFINE CHANNEL's fields, one past its last valid value. -/
theorem witness_PlanOrdersRefused_fields :
    let p := fun (l : List Byte) (at' n : Nat) => (asked .defineChannel l).param (order9 .defineChannel) at' n
    p (half 256) 0 2 = 256 ∧ p [5, 0, 8] 2 1 = 8 ∧ p [5, 0, 0, 3] 3 1 = 3 ∧ p [5, 0, 0, 1, 3] 4 1 = 3 ∧
      p [5, 0, 0, 1, 1, 4] 5 1 = 4 ∧ p [5, 0, 0, 1, 1, 3, 2] 6 1 = 2 ∧
      rangeOk (p (channelBytes.take 8 ++ half 20001 ++ half 20000) 8 2)
        (p (channelBytes.take 8 ++ half 20001 ++ half 20000) 10 2) = false := by decide +kernel

/-- DEFINE CHANNEL at an UNDEFINED stage, and of a channel that holds a frequency: with another stage, with another class
and with a range that its frequency leaves. PIN on a VACANT channel. -/
theorem witness_PlanOrdersRefused_states :
    let o := order9 .defineChannel
    (let s := asked .defineChannel channelBytes;
      s.takes .defineChannel false o ∧ s.sentChannel o = some 5 ∧ s.sentFields o = some fields5 ∧ s.hold 5 = none ∧
        s.site.stages[fields5.stage] = none) ∧
    (∀ l, let s := planned (asked .defineChannel l) (.live 20000);
      s.takes .defineChannel false o ∧ s.channel 5 = some (channelWith (.live 20000))) ∧
    (let s := asked .defineChannel ([5, 0, 1] ++ channelBytes.drop 3);
      (s.sentFields o).map ChannelFields.stage = some 1) ∧
    (let s := asked .defineChannel ([5, 0, 0, 1, 2] ++ channelBytes.drop 5);
      (s.sentFields o).map ChannelFields.bandwidth = some .wide) ∧
    (let s := planned (asked .defineChannel (channelBytes.take 8 ++ half 20001 ++ half 20001)) (.live 20000);
      let f := { fields5 with low := 20001 };
      s.sentFields o = some f ∧
        s.check1 (s.site.channelCandidate { channelWith (.live 20000) with fields := f } 20000) = false) ∧
    (let s := asked .pin ([5, 0] ++ half 20000 ++ [3]); let p := order9 .pin
      s.takes .pin false p ∧ s.sentChannel p = some 5 ∧ validStep (s.param p 2 2) = true ∧ s.param p 4 1 < 4 ∧
        s.channel 5 = none) :=
  ⟨⟨takes_asked rfl rfl reset_slots, by decide +kernel, by decide +kernel, by decide +kernel, by decide +kernel⟩,
    fun _ => ⟨takes_asked rfl rfl reset_slots, planned_channel _ _⟩, by decide +kernel, by decide +kernel,
    by decide +kernel, takes_asked rfl rfl reset_slots, by decide +kernel, by decide +kernel, by decide +kernel,
    by decide +kernel⟩

theorem witness_MoveTimerExpiryUnresolves :
    let s := planned State.reset (.moving 20001 20000 15000)
    s.channel 5 = some (channelWith (.moving 20001 20000 15000)) ∧ s.memoryOk :=
  ⟨planned_channel _ _, rfl, rfl, .inl rfl⟩

/-! ### The census -/

/-- The working state of a REBUILD CENSUS in cell 9. -/
def rebuildAt (phase : RebuildPhase) (position : Nat) : RebuildWork :=
  { order := some (order9 .rebuildCensus), epoch := 0, generation := 0, restarts := 0, phase := phase,
    position := position, added := 0, marked := [] }

theorem witness_RebuildClearsPlanes :
    (asked .rebuildCensus []).takes .rebuildCensus false (order9 .rebuildCensus) ∧
      (let s := { granting .rebuild with census := { Census.cleared with state := .stale, cause := .model } };
        s.arbiter = some (.takeRoutine .rebuild) ∧ s.census.state ≠ .valid) ∧
      (granting .rebuild).arbiter = some (.takeRoutine .rebuild) ∧ (granting .rebuild).census.state = .valid :=
  ⟨takes_asked rfl rfl reset_slots, ⟨rfl, by decide⟩, rfl, rfl⟩

/-- A census that is rebuilding, with one count at its limit. -/
def fullCensus : Census :=
  { state := .rebuilding, cause := .none, plane3 := (Vector.replicate 8 []).set 0 [(20020, 65535)],
    plane5 := Vector.replicate 8 [] }

theorem fullCensus_planesOk : fullCensus.planesOk := by
  refine ⟨by decide, fun i => ?_⟩
  obtain ⟨b, fifth, n⟩ := i
  cases fifth <;> simp only [Census.count, fullCensus]
  · fin_cases b <;> simp [sparseGet, Config.countLimit]
    split <;> simp
  · fin_cases b <;> simp [sparseGet]

theorem witness_RebuildStepAddsProducts :
    (let s := { planned (working (.rebuild (rebuildAt .add 0))) (.live 20000) with
        census := { Census.cleared with state := .rebuilding } };
      s.runs (.rebuild (rebuildAt .add 0)) ∧ s.census.planesOk ∧
        s.plan.transmitters[0]? = some (transmitter 5 20000) ∧
        (∀ i, s.census.count i + (s.site.increments (transmitter 5 20000) (s.plan.transmitters.take 0)).count i ≤
          Config.countLimit)) ∧
    (let s := { paired (working (.rebuild (rebuildAt .add 1))) with census := fullCensus };
      s.runs (.rebuild (rebuildAt .add 1)) ∧ s.census.planesOk ∧
        s.plan.transmitters[1]? = some (transmitter 6 20010) ∧
        ∃ i, Config.countLimit < s.census.count i +
          (s.site.increments (transmitter 6 20010) (s.plan.transmitters.take 1)).count i) := by
  refine ⟨⟨runs_working .rebuildCensus rfl rfl reset_slots (.inr rfl), cleared_planesOk _ _, by decide +kernel, ?_⟩,
    runs_working .rebuildCensus rfl rfl reset_slots (.inr rfl), fullCensus_planesOk, by decide +kernel,
    (0, false, 20020), by decide +kernel⟩
  intro i
  obtain ⟨b, fifth, n⟩ := i
  have h : (planned (working (.rebuild (rebuildAt .add 0))) (.live 20000)).site.increments (transmitter 5 20000) [] =
    [] := by decide +kernel
  simp only [List.take_zero]
  rw [show ({ planned (working (.rebuild (rebuildAt .add 0))) (.live 20000) with
        census := { Census.cleared with state := .rebuilding } } : State).site.increments (transmitter 5 20000) [] = []
      from h]
  cases fifth <;> simp [Census.count, Census.cleared, sparseGet]

theorem witness_RebuildStepSweepsAndEnds :
    (let s := planned (working (.rebuild (rebuildAt .sweep 0))) (.live 20000);
      s.runs (.rebuild (rebuildAt .sweep 0)) ∧ s.plan.transmitters[0]? = some (transmitter 5 20000) ∧
        0 + 1 = s.plan.transmitters.length ∧ s.sweepPasses (transmitter 5 20000) = true) ∧
    (let s := { paired (working (.rebuild (rebuildAt .sweep 0))) with
        port := { port9 .active [] with cells := fullPool .active } };
      s.runs (.rebuild (rebuildAt .sweep 0)) ∧ s.plan.transmitters[0]? = some (transmitter 5 20000) ∧
        0 + 1 < s.plan.transmitters.length ∧ s.sweepPasses (transmitter 5 20000) = false ∧ s.heldBack) ∧
    (let s := working (.rebuild (rebuildAt .sweep 0));
      s.runs (.rebuild (rebuildAt .sweep 0)) ∧ s.plan.transmitters[0]? = none) :=
  ⟨⟨runs_working .rebuildCensus rfl rfl reset_slots (.inr rfl), by decide +kernel, by decide +kernel,
      by decide +kernel⟩,
    ⟨runs_of (code := .rebuildCensus) rfl (by decide +kernel) rfl ⟨port9_memory .active [], rfl, .inl rfl⟩ reset_slots (.inr rfl),
      by decide +kernel, by decide +kernel, by decide +kernel, .inl (by decide +kernel)⟩,
    runs_working .rebuildCensus rfl rfl reset_slots (.inr rfl), by decide +kernel⟩

/-- The last frequency of a REBUILD CENSUS fails its judgement, with cells to report it. -/
theorem witness_RebuildStepSweepsAndEnds_last :
    let s := paired (working (.rebuild (rebuildAt .sweep 1)))
    s.runs (.rebuild (rebuildAt .sweep 1)) ∧ s.plan.transmitters[1]? = some (transmitter 6 20010) ∧
      1 + 1 = s.plan.transmitters.length ∧ s.sweepPasses (transmitter 6 20010) = false ∧
      s.site.params.reserve < s.port.freeCount :=
  ⟨runs_working .rebuildCensus rfl rfl reset_slots (.inr rfl), by decide +kernel, by decide +kernel, by decide +kernel,
    by decide +kernel⟩

/-- A census that rebuilds over exact planes, and two frequencies too close to pass its sweep. -/
theorem witness_RebuildStepSweepsAndEnds_checks :
    let s := { paired State.reset with census := { Census.cleared with state := .rebuilding } }
    transmitter 5 20000 ∈ s.plan.transmitters ∧ s.census.state ≠ .valid ∧ s.sweepPasses (transmitter 5 20000) = false ∧
      s.exactFor [transmitter 5 20000] ∧
      ({ planned State.reset (.live 20000) with census := s.census } : State).plan.transmitters =
        [transmitter 5 20000] :=
  ⟨by decide +kernel, by decide, by decide +kernel,
    exactFor_empty _ _ rfl rfl (by decide +kernel) (by decide +kernel), by decide +kernel⟩

theorem witness_CensusStaysExact :
    (let s := planned State.reset (.live 20000);
      s.census.state = .valid ∧ s.census.planesOk ∧ transmitter 5 20000 ∈ s.plan.transmitters ∧
        s.exactFor (s.plan.others (transmitter 5 20000)) ∧ (s.added (transmitter 5 20000)).census.state = .valid) ∧
    (State.reset.census.state = .valid ∧ State.reset.census.planesOk ∧
      State.reset.exactFor (transmitter 5 20000 :: State.reset.plan.transmitters)) ∧
    (let s := { planned (working (.rebuild (rebuildAt .add 0))) (.live 20000) with
        census := { Census.cleared with state := .rebuilding } };
      s.runs (.rebuild (rebuildAt .add 0)) ∧ s.census.planesOk ∧
        s.plan.transmitters[0]? = some (transmitter 5 20000) ∧ s.exactFor (s.plan.transmitters.take 0) ∧
        ∃ t, exec .rebuildStep s = .next t ∧ t.census.state ≠ .stale) :=
  ⟨⟨rfl, cleared_planesOk _ _, by decide +kernel,
      exactFor_empty _ _ rfl rfl (by decide +kernel) (by decide +kernel), by decide +kernel⟩,
    ⟨rfl, cleared_planesOk _ _, exactFor_empty _ _ rfl rfl (by decide +kernel) (by decide +kernel)⟩,
    runs_working .rebuildCensus rfl rfl reset_slots (.inr rfl), cleared_planesOk _ _, by decide +kernel,
    exactFor_empty _ _ rfl rfl (by decide +kernel) (by decide +kernel), _, rfl, by decide +kernel⟩

/-! ### The evaluator -/

theorem witness_VerdictIgnoresCensusState :
    let s := planned State.reset .defined
    s.census.state = .valid ∧ s.census.planesOk ∧
      ({ Census.cleared with state := .stale, cause := .model } : Census).state ≠ .valid ∧
      s.exactFor s.plan.transmitters ∧ s.channel 5 = some (channelWith .defined) :=
  ⟨rfl, cleared_planesOk _ _, by decide, exactFor_empty _ _ rfl rfl (by decide +kernel) (by decide +kernel),
    planned_channel _ _⟩

/-- A lone frequency inside its range passes with the highest terms 64 and 100 and no zone; one outside its range fails
C1. -/
theorem witness_EvaluationStopsAtFirstFailure :
    let s := planned State.reset .defined
    s.evaluateFor (channelWith .defined) 20000 false = .pass (8 * 64 + 2 * 100) ∧
      s.evaluateFor (channelWith .defined) 19999 false = .fail 1 := by decide +kernel

theorem witness_ScoreTerms :
    (let s := planned State.reset .defined;
      let c := s.site.channelCandidate (channelWith .defined) 20000
      s.check4 c [] = true ∧ s.compared c [] = [] ∧ s.site.zoneOf c.stage = none ∧ s.termP c [] [] = 64) ∧
    (let s := planned State.reset .defined;
      let c := s.site.channelCandidate (channelWith .defined) 20000
      s.check4 c [transmitter 6 20016] = true ∧ s.compared c [transmitter 6 20016] ≠ [] ∧
        s.termC c [transmitter 6 20016] = 0 ∧ s.check4 c [transmitter 6 20015] = false) ∧
    (let s : State := { State.reset with
        site := Site.powerOn.setStage 0 { stageRecord with zone := some 2 }
        zones := Vector.replicate 4 { Zone.powerOn with
          map := [(20000, { settled := 50, sum := 0, samples := 0, seen := true })] } };
      let c : Candidate := { step := 20000, halfWidth := 0, multiple := 1, range := none, stage := 0 }
      s.site.zoneOf c.stage = some 2 ∧ s.site.window.steps (c.step - c.halfWidth) (c.step + c.halfWidth) = [20000] ∧
        s.termM c = 20) := by decide +kernel

/-! ### CHECK LIST, PLACE and PIN -/

/-- CHECK LIST with one entry, channel 5 at 20000. -/
def checkAsked : State :=
  { asked .checkList [] with
    port := { port9 .queued [] with memory := Memory.writeAll [] (payloadOffset 9 0 - 4) ([1, 0, 0, 0] ++ half 5 ++
      half 20000) } }

/-- A CHECK LIST in progress with entries to judge. -/
def checkOf (todo : List (Nat × Nat)) : CheckWork :=
  { order := order9 .checkList, strict := false, todo := todo, judged := [], evaluations := 0 }

theorem witness_CheckListJudgesEntries :
    (checkAsked.takes .checkList false (order9 .checkList) ∧ checkAsked.port.headField 9 12 2 = 1 ∧
      ([(5, 20000)] : List (Nat × Nat)).length ≤ 60 * (order9 .checkList).length ∧
      (order9 .checkList).cells[0 / 60]? = some 9) ∧
    (let s := planned (working (.check (checkOf [(5, 20000), (5, 20002)]))) .defined;
      s.runs (.check (checkOf [(5, 20000), (5, 20002)])) ∧
        s.channel 5 = some (channelWith .defined) ∧ s.channel 4 = none ∧ index 256 5 = some 5 ∧ index 256 256 = none ∧
        validStep 16000 = true ∧ validStep 15999 = false ∧ validStep 40959 = true ∧ validStep 40960 = false ∧
        s.evaluateAlone 5 (channelWith .defined) 20000 false = .pass 712 ∧
        s.evaluateAlone 5 (channelWith .defined) 20002 false = .fail 1) ∧
    (working (.check (checkOf [(256, 15999)]))).runs (.check (checkOf [(256, 15999)])) :=
  ⟨⟨takes_of rfl rfl (by decide +kernel) rfl ⟨Memory.writeAll_wf _ _ rfl, rfl, .inl rfl⟩ reset_slots, by decide +kernel,
      by decide, rfl⟩,
    ⟨runs_working .checkList rfl rfl reset_slots (.inr rfl), planned_channel _ _, by decide +kernel, by decide,
      by decide, by decide, by decide, by decide, by decide, by decide +kernel, by decide +kernel⟩,
    runs_working .checkList rfl rfl reset_slots (.inr rfl)⟩

theorem witness_PlaceRanksAndWalks :
    (gridOf 1 (some (20000, 20001))).points = [20000, 20001] ∧ (gridOf 5 (some (20001, 20004))).points = [] ∧
      20001 ∈ (gridOf 1 (some (20000, 20001))).points ∧ 20002 ∉ (gridOf 1 (some (20000, 20001))).points := by decide

/-- The four results of the screening: a channel number or a preferred frequency outside its values, a channel that is not
DEFINED, a channel named twice, and a channel that joins the working set. -/
theorem test_screening :
    (planned State.reset .defined).screen [] [(256, 0xFFFF), (7, 15999), (6, 0xFFFF), (5, 20000), (5, 0xFFFF)] =
      [.skipped 256 .badArgument, .skipped 7 .badArgument, .skipped 6 .state, .working 5, .skipped 5 .duplicate] := by
  decide +kernel

/-- PLACE of one channel without a preferred frequency. -/
def placeBytes (c options : Nat) : List Byte := half 1 ++ [byte options, 0, 0, 0, 0, 0] ++ List.replicate 16 0 ++ half c ++ half 0xFFFF ++ half 0

/-- Channel 5 with no multiple of 5 in its range. -/
def gapped : ChannelRecord :=
  { channelWith .defined with fields := { fields5 with low := 20001, high := 20004, multiple := 5 } }

theorem witness_PlaceTakeUp :
    let o := order9 .place
    (let s := planned (asked .place (placeBytes 5 0)) .defined;
      s.takes .place false o ∧ s.param o 0 2 = 1 ∧ s.param o 2 1 = 0 ∧
        s.workingSet o = [{ channel := 5, walk := walkOf (gridOf 1 (some (20000, 20001))) 0xFFFF }] ∧
        ∀ x ∈ s.workingSet o, x.walk.length ≠ 0) ∧
    (let s := { asked .place (placeBytes 5 0) with plan := Plan.cleared.setChannel 5 (some gapped) };
      s.takes .place false o ∧ s.param o 0 2 = 1 ∧ (s.searchFor o).bestEffort = false ∧
        (s.workingSet o)[0]? = some { channel := 5, walk := walkOf (gridOf 5 (some (20001, 20004))) 0xFFFF } ∧
        (walkOf (gridOf 5 (some (20001, 20004))) 0xFFFF).length = 0) ∧
    (let s := asked .place (placeBytes 5 0);
      s.takes .place false o ∧ s.param o 0 2 = 1 ∧ s.param o 2 1 < 4 ∧ s.workingSet o = []) :=
  ⟨⟨takes_asked rfl rfl reset_slots, by decide +kernel, by decide +kernel, by decide +kernel, by decide +kernel⟩,
    ⟨takes_asked rfl rfl reset_slots, by decide +kernel, by decide +kernel, by decide +kernel, by decide⟩,
    takes_asked rfl rfl reset_slots, by decide +kernel, by decide +kernel, by decide +kernel⟩

/-- A channel of a working set with the steps `first` to `first + count - 1` to try. -/
def item (c : Fin 256) (first count : Nat) : PlaceItem :=
  { channel := c, walk := { preferred := none, grid := { first := first, multiple := 1, count := count } } }

/-- A search in progress. -/
def searchOf (best : Bool) (used : Nat) (stack : List StackEntry) (rest : List PlaceItem) : PlaceWork :=
  { order := order9 .place, bestEffort := best, strict := false, budget := 10, used := used, deepest := 0,
    entries := [], stack := stack, rest := rest, unplaced := [] }

/-- Channel 5 stands DEFINED at the top of the stack of each of these searches. Its first step is 20000, which passes, or
19999, which fails. -/
theorem witness_PlaceStepSearches :
    let pass : StackEntry := { item := item 5 20000 2, cursor := 0, chosen := none }
    let fail : StackEntry := { item := item 5 19999 2, cursor := 0, chosen := none }
    let last : StackEntry := { item := item 5 19999 1, cursor := 0, chosen := none }
    let below : StackEntry := { item := item 6 20010 2, cursor := 0, chosen := some 20010 }
    let r := channelWith .defined
    (let w := searchOf false 0 [pass] [item 6 20010 2]; let s := planned (working (.place w)) .defined;
      s.runs (.place w) ∧ w.top = some pass ∧ pass.exhausted = false ∧ s.channel 5 = some r ∧
        s.evaluateFor r (pass.item.walk.at 0) false = .pass 712) ∧
    (let w := searchOf false 9 [fail] []; let s := planned (working (.place w)) .defined;
      s.runs (.place w) ∧ s.evaluateFor r (fail.item.walk.at 0) false = .fail 1 ∧
        fail.cursor + 1 < fail.item.walk.length) ∧
    (let w := searchOf false 0 [last, below] [];
      let s := { planned (working (.place w)) .defined with
        plan := (planned (working (.place w)) .defined).plan.setChannel 6 (some (channelWith (.tentative 20010))) };
      s.runs (.place w) ∧ s.evaluateFor r (last.item.walk.at 0) false = .fail 1 ∧
        last.cursor + 1 = last.item.walk.length ∧ below.cursor + 1 < below.item.walk.length ∧
        s.channel 6 = some (channelWith (.tentative 20010))) ∧
    (let w := searchOf true 0 [last] [item 6 20010 2]; let s := planned (working (.place w)) .defined;
      s.runs (.place w) ∧ w.bestEffort = true ∧ s.evaluateFor r (last.item.walk.at 0) false = .fail 1 ∧
        w.rest = [item 6 20010 2] ∧ (item 6 20010 2).walk.length ≠ 0 ∧ s.census.planesOk) :=
  ⟨⟨runs_working .place rfl rfl reset_slots (.inr rfl), rfl, by decide, planned_channel _ _, by decide +kernel⟩,
    ⟨runs_working .place rfl rfl reset_slots (.inr rfl), by decide +kernel, by decide⟩,
    ⟨runs_working .place rfl rfl reset_slots (.inr rfl), by decide +kernel, by decide, by decide, by decide +kernel⟩,
    runs_working .place rfl rfl reset_slots (.inr rfl), rfl, by decide +kernel, rfl, by decide, cleared_planesOk _ _⟩

theorem witness_PlaceEnds :
    let pass : StackEntry := { item := item 5 20000 2, cursor := 0, chosen := none }
    let last : StackEntry := { item := item 5 19999 1, cursor := 0, chosen := none }
    let below : StackEntry := { item := item 6 20010 2, cursor := 0, chosen := some 20010 }
    let r := channelWith .defined
    (let w := searchOf false 0 [pass] []; let s := planned (working (.place w)) .defined;
      s.runs (.place w) ∧ s.census.planesOk ∧ w.top = some pass ∧ pass.exhausted = false ∧
        (w.stack.map fun x => x.item.channel).Nodup ∧ (∀ x ∈ w.stack, (s.channel x.item.channel).isSome = true) ∧
        s.evaluateFor r (pass.item.walk.at 0) false = .pass 712) ∧
    (∀ best, let w := searchOf best 10 [pass, below] [];
      let s := { planned (working (.place w)) .defined with
        plan := (planned (working (.place w)) .defined).plan.setChannel 6 (some (channelWith (.tentative 20010))) };
      s.runs (.place w) ∧ w.budget ≤ w.used ∧ (w.stack.map fun x => x.item.channel).Nodup ∧
        (∀ x ∈ w.stack, (s.channel x.item.channel).isSome = true) ∧
        ∀ x ∈ w.stack, ∀ g, x.chosen = some g → s.hold x.item.channel = some (.tentative g)) ∧
    (let w := searchOf false 0 [last] []; let s := planned (working (.place w)) .defined;
      s.runs (.place w) ∧ s.evaluateFor r (last.item.walk.at 0) false = .fail 1 ∧
        last.cursor + 1 = last.item.walk.length ∧ w.stack.tail = []) := by
  refine ⟨⟨runs_working .place rfl rfl reset_slots (.inr rfl), cleared_planesOk _ _, rfl, by decide, by decide,
      by decide +kernel, by decide +kernel⟩,
    fun best => ⟨runs_working .place rfl rfl reset_slots (.inr rfl), by cases best <;> decide, by cases best <;> decide,
      by cases best <;> decide +kernel, ?_⟩,
    runs_working .place rfl rfl reset_slots (.inr rfl), by decide +kernel, by decide, rfl⟩
  have h : ∀ w, ({ planned (working (.place w)) .defined with
      plan := (planned (working (.place w)) .defined).plan.setChannel 6 (some (channelWith (.tentative 20010))) } :
        State).hold 6 = some (.tentative 20010) := by
    intro w
    unfold State.hold State.channel planned Plan.setChannel
    simp [channelWith]
  intro x hx g hg
  simp only [searchOf, List.mem_cons, List.not_mem_nil, or_false] at hx
  rcases hx with rfl | rfl
  · simp at hg
  · simp only [Option.some.injEq] at hg
    subst hg
    exact h _

/-- A BEST_EFFORT channel whose range has no grid point. -/
def noWalk : PlaceItem := item 7 20000 0

/-- Two channels below with their walks used up, over one that can go on; and BEST_EFFORT with a channel that has no grid
point ahead, or on top of the stack. -/
theorem witness_PlaceStepSearches_far :
    let last : StackEntry := { item := item 5 19999 1, cursor := 0, chosen := none }
    let used (c : Fin 256) : StackEntry := { item := item c 20010 1, cursor := 0, chosen := some 20010 }
    let below : StackEntry := { item := item 3 20010 2, cursor := 0, chosen := some 20010 }
    let empty : StackEntry := { item := noWalk, cursor := 0, chosen := none }
    let placed (s : State) : State := { s with plan := [6, 4, 3].foldl (fun p c =>
      p.setChannel c (some (channelWith (.tentative 20010)))) s.plan }
    (let w := searchOf false 0 [last, used 6, used 4, below] []; let s := placed (planned (working (.place w)) .defined);
      s.runs (.place w) ∧ s.evaluateFor (channelWith .defined) 19999 false = .fail 1 ∧
        last.cursor + 1 = last.item.walk.length ∧ w.stack.tail = [used 6, used 4] ++ below :: [] ∧
        (∀ x ∈ [used 6, used 4], x.chosen.isSome = true ∧ x.item.walk.length ≤ x.cursor + 1) ∧
        (∀ x ∈ w.stack, (s.channel x.item.channel).isSome = true) ∧ below.cursor + 1 < below.item.walk.length) ∧
    (let w := searchOf true 0 [last] [noWalk, item 6 20010 2]; let s := planned (working (.place w)) .defined;
      s.runs (.place w) ∧ noWalk.walk.length = 0 ∧ w.rest = [noWalk] ++ item 6 20010 2 :: []) ∧
    (let w := searchOf true 0 [empty] [item 6 20010 2]; let s := planned (working (.place w)) .defined;
      s.runs (.place w) ∧ w.top = some empty ∧ empty.exhausted = true) :=
  ⟨⟨runs_working .place rfl rfl reset_slots (.inr rfl), by decide +kernel, by decide, rfl, by decide, by decide +kernel,
      by decide⟩,
    ⟨runs_working .place rfl rfl reset_slots (.inr rfl), by decide, rfl⟩,
    runs_working .place rfl rfl reset_slots (.inr rfl), rfl, by decide⟩

/-- The ends in which walks are used up: every one of ALL_OR_NOTHING, the last of BEST_EFFORT, and empty walks alone. -/
theorem witness_PlaceEnds_used :
    let last : StackEntry := { item := item 5 19999 1, cursor := 0, chosen := none }
    let used : StackEntry := { item := item 6 20010 1, cursor := 0, chosen := some 20010 }
    let empty : StackEntry := { item := noWalk, cursor := 0, chosen := none }
    (∀ best, let w := searchOf best 0 [last, used] (if best then [noWalk] else []);
      let s := { planned (working (.place w)) .defined with
        plan := (planned (working (.place w)) .defined).plan.setChannel 6 (some (channelWith (.tentative 20010))) };
      s.runs (.place w) ∧ last.exhausted = false ∧ w.used < w.budget ∧
        s.evaluateFor (channelWith .defined) 19999 false = .fail 1 ∧ last.cursor + 1 = last.item.walk.length ∧
        (∀ x ∈ w.stack.tail, x.chosen.isSome = true ∧ x.item.walk.length ≤ x.cursor + 1) ∧
        (∀ i ∈ w.rest, i.walk.length = 0) ∧ (w.stack.map fun x => x.item.channel).Nodup ∧
        (∀ x ∈ w.stack, (s.channel x.item.channel).isSome = true) ∧ s.hold 6 = some (.tentative 20010)) ∧
    (let w := searchOf true 0 [empty] [noWalk];
      let s := { working (.place w) with plan := Plan.cleared.setChannel 7 (some (channelWith .defined)) };
      s.runs (.place w) ∧ w.top = some empty ∧ empty.exhausted = true ∧
        ∀ x ∈ w.stack, (s.channel x.item.channel).isSome = true) :=
  ⟨fun best => ⟨runs_working .place rfl rfl reset_slots (.inr rfl), by decide, by cases best <;> decide,
      by cases best <;> decide +kernel, by decide, by cases best <;> decide, by cases best <;> decide,
      by cases best <;> decide, by cases best <;> decide +kernel, by cases best <;> decide +kernel⟩,
    runs_working .place rfl rfl reset_slots (.inr rfl), rfl, by decide, by decide +kernel⟩

theorem witness_PinPlacesChannel :
    let o := order9 .pin
    (let s := planned (asked .pin ([5, 0] ++ half 20001 ++ [0])) .defined;
      s.takes .pin false o ∧ s.sentChannel o = some 5 ∧ validStep (s.param o 2 2) = true ∧ s.param o 4 1 = 0 ∧
        s.channel 5 = some (channelWith .defined) ∧ s.check1 (s.site.channelCandidate (channelWith .defined) 20001) = true ∧
        s.census.planesOk ∧ (s.vacate 5 (channelWith .defined)).evaluateFor (channelWith .defined) 20001 false = .pass 712) ∧
    (∀ force, let s := { paired (asked .pin ([5, 0] ++ half 20001 ++ [byte force])) with
        plan := (paired (asked .pin [])).plan.setChannel 5 (some (channelWith (.placed 20000))) };
      s.takes .pin false o ∧ s.channel 5 = some (channelWith (.placed 20000))) ∧
    (let s := { paired (asked .pin ([5, 0] ++ half 20001 ++ [1])) with
        plan := (paired (asked .pin [])).plan.setChannel 5 (some (channelWith (.placed 20000))) };
      s.param o 4 1 = 1 ∧
        (s.vacate 5 (channelWith (.placed 20000))).evaluateFor (channelWith (.placed 20000)) 20001 false = .fail 4) ∧
    (let s := planned (asked .pin ([5, 0] ++ half 20002 ++ [3])) .defined;
      s.takes .pin false o ∧ s.param o 4 1 = 3 ∧
        s.check1 (s.site.channelCandidate (channelWith .defined) 20002) = false) ∧
    (let s := planned (asked .pin ([5, 0] ++ half 20001 ++ [0])) (.live 20000);
      s.takes .pin false o ∧ s.channel 5 = some (channelWith (.live 20000))) := by
  refine ⟨⟨takes_asked rfl rfl reset_slots, by decide +kernel, by decide +kernel, by decide +kernel,
      planned_channel _ _, by decide +kernel, cleared_planesOk _ _, by decide +kernel⟩,
    fun force => ⟨takes_asked rfl rfl reset_slots, ?_⟩, ⟨by decide +kernel, by decide +kernel⟩,
    ⟨takes_asked rfl rfl reset_slots, by decide +kernel, by decide +kernel⟩,
    takes_asked rfl rfl reset_slots, planned_channel _ _⟩
  unfold State.channel Plan.setChannel
  simp

/-! ### REPLACE, the auto-move and the spare lists -/

theorem witness_ReplaceSearchPicksBest :
    let s := planned State.reset .defined
    let r := channelWith .defined
    1 ≤ r.fields.multiple ∧ s.spareSearch r [{ step := 19999, score := 9 }, { step := 20001, score := 7 }] =
      (some (20001, 712), 2) ∧ s.spareSearch r [{ step := 19999, score := 9 }] = (none, 1) ∧
      s.fullRange r 20000 = [20001] ∧ s.bestOf r [20000, 20001] = some (20000, 712) ∧ s.bestOf r [19999] = none := by
  decide +kernel

/-- The search counts the spares it tries, and then the steps of the full range but the current one. -/
theorem test_search_counts :
    let s := { planned State.reset .defined with
      spares := (Vector.replicate 8 []).set 0 [{ step := 19999, score := 9 }, { step := 19998, score := 7 }] }
    let r := channelWith .defined
    s.search r 20000 true = (none, 2) ∧ s.search r 20000 false = (some (20001, 712, false), 3) ∧
      (s.search { r with fields := { fields5 with high := 20000 } } 20000 false) = (none, 2) := by decide +kernel

/-- Channel 5 with a hold and 21 steps to stand on. -/
def roomy (h : Hold) : ChannelRecord := { channelWith h with fields := { fields5 with high := 20020 } }

/-- A state whose channel 5 is `roomy`. -/
def roomyIn (s : State) (h : Hold) : State :=
  { planned s h with plan := Plan.cleared.setChannel 5 (some (roomy h)) }

theorem roomyIn_channel (s : State) (h : Hold) : (roomyIn s h).channel 5 = some (roomy h) := by
  unfold State.channel roomyIn Plan.setChannel
  simp

/-- Equal scores at 20000 and 20001: the search gives the lowest that is not the current frequency. -/
theorem witness_ReplaceGivesFrequency :
    let o := order9 .replace
    (let s := planned (asked .replace [5, 0, 0]) (.placed 20000);
      s.takes .replace false o ∧ s.sentChannel o = some 5 ∧ s.param o 2 1 < 2 ∧
        s.channel 5 = some (channelWith (.placed 20000)) ∧ s.census.planesOk ∧
        (s.vacate 5 (channelWith (.placed 20000))).search (channelWith (.placed 20000)) 20000 false =
          (some (20001, 712, false), 1)) ∧
    (let s := { roomyIn (asked .replace [5, 0, 1]) (.live 20000) with
        spares := (Vector.replicate 8 []).set 0 [{ step := 20017, score := 7 }] };
      s.takes .replace false o ∧ s.channel 5 = some (roomy (.live 20000)) ∧
        (s.vacate 5 (roomy (.live 20000))).search (roomy (.live 20000)) 20000 true =
          (some (20017, 8 * 64 + 2, true), 1)) ∧
    (let s := planned (asked .replace [5, 0, 1]) (.live 20000);
      s.takes .replace false o ∧ s.param o 2 1 = 1 ∧
        (s.vacate 5 (channelWith (.live 20000))).search (channelWith (.live 20000)) 20000 true = (none, 0)) :=
  ⟨⟨takes_asked rfl rfl reset_slots, by decide +kernel, by decide +kernel, planned_channel _ _, cleared_planesOk _ _,
      by decide +kernel⟩,
    ⟨takes_asked rfl rfl reset_slots, roomyIn_channel State.reset _, by decide +kernel⟩,
    takes_asked rfl rfl reset_slots, by decide +kernel, by decide +kernel⟩

/-- Stages 2 and 5 with a spare each, and channel 5 LIVE at stage 5. -/
def twoStages (s : State) : State :=
  { s with
    site := (Site.powerOn.setStage 2 stageRecord).setStage 5 stageRecord
    plan := Plan.cleared.setChannel 5 (some { roomy (.live 20000) with fields := { fields5 with stage := 5, high := 20020 } })
    spares := ((Vector.replicate 8 []).set 2 [{ step := 20018, score := 9 }]).set 5 [{ step := 20017, score := 7 }] }

/-- A REPLACE that takes the spare of stage 5, on which the recheck drops that of stage 2, queues stage 2 before stage 5, and
behind what waited (R88). -/
theorem test_replace_queues_ascending :
    let s := { twoStages State.reset with engine := { Engine.cleared with routine := [.rebuild] } }
    let r : ChannelRecord := { roomy (.live 20000) with fields := { fields5 with stage := 5, high := 20020 } }
    (s.replace 5 r 20000 true).1.engine.routine = [.rebuild, .upkeep 2, .upkeep 5] ∧
      (s.replace 5 r 20000 true).1.spares = Vector.replicate 8 [] := by decide +kernel

/-- An event that has queued stage 5 before stage 2 puts them in order, and leaves an entry that waited where it stands. -/
theorem test_inStageOrder :
    let s := { State.reset with engine := { Engine.cleared with routine := [.upkeep 6] } }
    let t := { State.reset with engine := { Engine.cleared with routine := [.upkeep 6, .upkeep 5, .upkeep 2] } }
    (s.inStageOrder t).engine.routine = [.upkeep 6, .upkeep 2, .upkeep 5] := by decide +kernel

/-- A state whose urgent list holds an AUTO-MOVE entry. -/
def moveAsked (auto : Bool) : State :=
  { State.reset with
    engine := { Engine.cleared with urgent := [.autoMove 5 20000] }
    port := { Port.powerOn with run := true, auto := auto } }

theorem witness_AutoMoveReplacesOrDiscards :
    (let s := planned (moveAsked true) (.placed 20000);
      s.arbiter = some (.takeUrgent (.autoMove 5 20000)) ∧ s.census.planesOk ∧ s.hold 5 ≠ some (.live 20000)) ∧
    (let s := planned (moveAsked false) (.live 20000);
      s.arbiter = some (.takeUrgent (.autoMove 5 20000)) ∧ s.port.auto = false) ∧
    (let s := { roomyIn (moveAsked true) (.live 20000) with
        port := { Port.powerOn with run := true, auto := true, cells := fullPool .held } };
      s.arbiter = some (.takeUrgent (.autoMove 5 20000)) ∧ s.channel 5 = some (roomy (.live 20000)) ∧
        s.heldBack ∧ s.search (roomy (.live 20000)) 20000 false = (some (20020, 8 * 64 + 2 * 4, false), 20)) ∧
    (let r : ChannelRecord := { channelWith (.live 20000) with fields := { fields5 with high := 20000 } };
      let s := { planned (moveAsked true) .defined with plan := Plan.cleared.setChannel 5 (some r) };
      s.channel 5 = some r ∧ s.search r 20000 false = (none, 0)) :=
  ⟨⟨rfl, cleared_planesOk _ _, by decide +kernel⟩, ⟨rfl, rfl⟩,
    ⟨rfl, roomyIn_channel State.reset _, .inl (by decide +kernel), by decide +kernel⟩, by decide +kernel, by decide +kernel⟩

/-- The work on the spare list of stage 0. -/
def upkeepAt (position : Nat) (ranking : List Spare) : UpkeepWork :=
  { stage := 0, epoch := 0, grid := gridOf 1 (some (20000, 20003)), position := position, ranking := ranking,
    evaluations := 0 }

theorem witness_UpkeepFillsSpares :
    let x : Spare := { step := 20000, score := 712 }
    let near : Spare := { step := 20003, score := 712 }
    let full : Vector (List Spare) 8 := (Vector.replicate 8 []).set 0 [near]
    (let s := planned (granting (.upkeep 0)) .defined;
      s.arbiter = some (.takeRoutine (.upkeep 0)) ∧ s.site.stages[0] = some stageRecord ∧
        (s.spares[0]).length < stageRecord.target) ∧
    (let s := { planned (granting (.upkeep 0)) .defined with spares := full };
      s.arbiter = some (.takeRoutine (.upkeep 0)) ∧ s.site.target 0 ≤ (s.spares[0]).length) ∧
    (let s := planned (working (.upkeep (upkeepAt 0 []))) .defined;
      s.runs (.upkeep (upkeepAt 0 [])) ∧ 0 < (upkeepAt 0 []).grid.count ∧
        s.evaluateSpare 0 stageRecord 20000 = .pass 712) ∧
    (let s := planned (working (.upkeep (upkeepAt 4 [x]))) .defined;
      s.runs (.upkeep (upkeepAt 4 [x])) ∧ (upkeepAt 4 [x]).grid.count ≤ 4 ∧
        s.inHitSegment stageRecord 20000 = false ∧ (s.spares[0]).length < stageRecord.target) ∧
    (let s := { planned (working (.upkeep (upkeepAt 4 [x]))) .defined with
        site := Site.powerOn.setStage 0 { stageRecord with target := 2 }, spares := full,
        port := { port9 .active [] with cells := fullPool .active } };
      s.runs (.upkeep (upkeepAt 4 [x])) ∧ s.heldBack ∧ (s.spares[0]).length < 2 ∧
        ((s.spares[0]).any fun y => decide (distance y.step x.step < 2 * 4 + s.site.params.margin)) = true) :=
  ⟨⟨rfl, by decide +kernel, by decide +kernel⟩, ⟨rfl, by decide +kernel⟩,
    ⟨runs_working .cancel rfl rfl reset_slots (.inl rfl), by decide, by decide +kernel⟩,
    ⟨runs_working .cancel rfl rfl reset_slots (.inl rfl), by decide, by decide +kernel, by decide +kernel⟩,
    runs_of (code := .cancel) rfl (by decide +kernel) rfl ⟨port9_memory .active [], rfl, .inl rfl⟩ reset_slots (.inl rfl),
    .inl (by decide +kernel), by decide +kernel, by decide +kernel⟩

/-- A fill that begins with its ranking used up, and one that begins with the list at its target. -/
theorem witness_UpkeepFillsSpares_over :
    (let s := planned (working (.upkeep (upkeepAt 4 []))) .defined;
      s.runs (.upkeep (upkeepAt 4 [])) ∧ (upkeepAt 4 []).grid.count ≤ 4 ∧ s.site.stages[(0 : Fin 8)] = some stageRecord) ∧
    (let w := upkeepAt 4 [{ step := 20000, score := 712 }]
     let s := { planned (working (.upkeep w)) .defined with
        spares := (Vector.replicate 8 []).set 0 [{ step := 20003, score := 712 }] };
      s.runs (.upkeep w) ∧ stageRecord.target ≤ (s.spares[(0 : Fin 8)]).length) :=
  ⟨⟨runs_working .cancel rfl rfl reset_slots (.inl rfl), by decide, rfl⟩,
    runs_working .cancel rfl rfl reset_slots (.inl rfl), by decide⟩

/-- A REFILL SPARES of the stages 0 and 1. -/
def refillOf (current : Option UpkeepWork) (rest : List (Fin 8)) : RefillWork :=
  { order := order9 .refillSpares, mask := 3, current := current, rest := rest, finished := [] }

theorem witness_RefillWorksStages :
    let o := order9 .refillSpares
    (let s := planned (asked .refillSpares [3, 1]) .defined;
      s.takes .refillSpares false o ∧ BitVec.ofNat 8 (s.param o 0 1) ≠ 0 ∧ s.param o 1 1 < 2) ∧
    (let w := refillOf (some (upkeepAt 0 [])) [];
      let s := planned (working (.refill w)) .defined;
      let x := s.upkeepUnit (upkeepAt 0 [])
      s.runs (.refill w) ∧ w.current = some (upkeepAt 0 []) ∧ x.1.upkeepOver x.2 = false) ∧
    (let v := upkeepAt 4 [{ step := 20000, score := 712 }];
      let w := refillOf (some v) [1];
      let s := { planned (working (.refill w)) .defined with
        site := (Site.powerOn.setStage 0 stageRecord).setStage 1 stageRecord };
      let x := s.upkeepUnit v
      s.runs (.refill w) ∧ x.1.upkeepOver x.2 = true ∧ x.1.atTarget 0 = true ∧
        w.rest = [] ++ 1 :: [] ∧ (x.1.spares[(1 : Fin 8)]).length < s.site.target 1) ∧
    (let v := upkeepAt 4 [];
      let w := refillOf (some v) [2, 3];
      let s := { planned (working (.refill w)) .defined with
        site := ((Site.powerOn.setStage 0 stageRecord).setStage 2 { stageRecord with target := 0 }).setStage 3 stageRecord
        port := { port9 .active [] with cells := fullPool .active } };
      let x := s.upkeepUnit v
      s.runs (.refill w) ∧ x.1.upkeepOver x.2 = true ∧ x.1.atTarget 0 = false ∧ s.heldBack ∧
        w.rest = [2] ++ 3 :: [] ∧ (x.1.spares[(3 : Fin 8)]).length < s.site.target 3 ∧
        ¬ (x.1.spares[(2 : Fin 8)]).length < s.site.target 2) ∧
    (let v := upkeepAt 4 [{ step := 19999, score := 712 }];
      let w := refillOf (some v) [];
      let s := planned (working (.refill w)) .defined;
      let x := s.upkeepUnit v
      s.runs (.refill w) ∧ x.1.upkeepOver x.2 = true ∧ x.1.atTarget 0 = false) ∧
    (working (.refill (refillOf none []))).runs (.refill (refillOf none [])) ∧ (refillOf none []).current = none :=
  ⟨⟨takes_asked rfl rfl reset_slots, by decide +kernel, by decide +kernel⟩,
    ⟨runs_working .refillSpares rfl rfl reset_slots (.inr rfl), rfl, by decide +kernel⟩,
    ⟨runs_working .refillSpares rfl rfl reset_slots (.inr rfl), by decide +kernel, by decide +kernel, rfl,
      by decide +kernel⟩,
    ⟨runs_of (code := .refillSpares) rfl (by decide +kernel) rfl ⟨port9_memory .active [], rfl, .inl rfl⟩ reset_slots
      (.inr rfl), by decide +kernel, by decide +kernel, .inl (by decide +kernel), rfl, by decide +kernel,
      by decide +kernel⟩,
    ⟨runs_working .refillSpares rfl rfl reset_slots (.inr rfl), by decide +kernel, by decide +kernel⟩,
    runs_working .refillSpares rfl rfl reset_slots (.inr rfl), rfl⟩

/-- The last stage ends short with every cell taken. -/
theorem witness_RefillWorksStages_short :
    let v := upkeepAt 4 []
    let w := refillOf (some v) []
    let s := { planned (working (.refill w)) .defined with port := { port9 .active [] with cells := fullPool .active } }
    s.runs (.refill w) ∧ (s.upkeepUnit v).1.upkeepOver (s.upkeepUnit v).2 = true ∧ w.rest = [] ∧
      (s.upkeepUnit v).1.atTarget 0 = false ∧ s.heldBack :=
  ⟨runs_of (code := .refillSpares) rfl (by decide +kernel) rfl ⟨port9_memory .active [], rfl, .inl rfl⟩ reset_slots
    (.inr rfl), by decide +kernel, rfl, by decide +kernel, .inl (by decide +kernel)⟩

/-- The stage that a REFILL SPARES in the routine context works on. -/
def refillStage (s : State) : Option (Option (Fin 8)) :=
  match s.engine.routineContext.work with
  | some (.refill x) => some (x.current.map UpkeepWork.stage)
  | _ => none

/-- A REFILL SPARES that flushes a stage begins with it, and one of an UNDEFINED stage has nothing to work. -/
theorem test_refill_begins :
    refillStage (refillSparesOrder (order9 .refillSpares) (planned (asked .refillSpares [3, 1]) .defined)) =
        some (some 0) ∧
      refillStage (refillSparesOrder (order9 .refillSpares) (asked .refillSpares [2, 0])) = some none := by
  decide +kernel

/-! ### Reads, zones, links and the Watch -/

theorem witness_TableReadsDeliver :
    (let s := planned (asked .readChannels (half 255 ++ half 1 ++ [0])) .defined; let o := order9 .readChannels
      s.takes .readChannels false o ∧ s.param o 0 2 = 255 ∧ s.param o 2 2 = 1 ∧
        s.channel 5 = some (channelWith .defined) ∧ s.channel 255 = none) ∧
    (let s := asked .readCensus ([7, 5] ++ half 26991 ++ half 1); let o := order9 .readCensus
      s.takes .readCensus false o ∧ s.param o 0 1 = (7 : Fin 8).val ∧ s.param o 1 1 = (if true then 5 else 3) ∧
        s.param o 4 2 = 1 ∧ s.site.window.has (s.param o 2 2) = true) ∧
    (let s := asked .readSpares [0xFF]; let o := order9 .readSpares
      s.takes .readSpares false o ∧ BitVec.ofNat 8 (s.param o 0 1) ≠ 0 ∧ 3 * o.length < (stagesOf 0xFF).length) :=
  ⟨⟨takes_asked rfl rfl reset_slots, by decide +kernel, by decide +kernel, planned_channel _ _, by decide +kernel⟩,
    ⟨takes_asked rfl rfl reset_slots, by decide +kernel, by decide +kernel, by decide +kernel, by decide +kernel⟩,
    takes_asked rfl rfl reset_slots, by decide +kernel, by decide⟩

theorem witness_ZoneReadsDeliver :
    (let s := asked .readSpectrum ([3, 0] ++ half 18800 ++ half 113); let o := order9 .readSpectrum
      s.takes .readSpectrum false o ∧ s.param o 0 1 = (3 : Fin 4).val ∧ s.param o 4 2 = 113 ∧
        s.site.window.has (s.param o 2 2) = true) ∧
    (let s := asked .readLinks [8, 1]; let o := order9 .readLinks
      s.takes .readLinks false o ∧ zonesOf (s.param o 0 1) = [3] ∧ (s.param o 1 1).testBit 0 = true) ∧
    (let s := asked .readWatch [3]; let o := order9 .readWatch
      s.takes .readWatch false o ∧ s.param o 0 1 = (3 : Fin 4).val) :=
  ⟨⟨takes_asked rfl rfl reset_slots, by decide +kernel, by decide +kernel, by decide +kernel⟩,
    ⟨takes_asked rfl rfl reset_slots, by decide +kernel, by decide +kernel⟩,
    takes_asked rfl rfl reset_slots, by decide +kernel⟩

/-- A probe of link 2 that waits, with its order in cell 10. -/
def probeWork : ProbeWork :=
  { order := { order9 .probe with head := 10 }, probeId := 7, step := 20000, threshold := 50, deadline := 250 }

/-- A state with an order that waits in cell 9 while a probe waits on link 2. -/
def probing (code : OrderCode) (params : List Byte) : State :=
  { asked code params with
    port := { (asked code params).port with cells := (port9 .queued []).cells.set 1 .active }
    links := (Vector.replicate 4 Link.cleared).set 2 { Link.cleared with slot := some probeWork } }

theorem takes_probing (code : OrderCode) (params : List Byte) : (probing code params).takes code false (order9 code) := by
  have hw : (probing code params).waiting = [order9 code] := rfl
  have hk : (probing code params).working = [probeWork.order] := rfl
  have h9 : (probing code params).port.cell 9 = some .queued := by
    simp [probing, asked, port9, Port.cell, poolIndex, index, Config.firstCell]
  have h10 : (probing code params).port.cell 10 = some .active := by
    simp [probing, asked, port9, Port.cell, poolIndex, index, Config.firstCell]
  refine ⟨?_, ⟨?_, ?_, ?_, ?_, fun h => absurd rfl h⟩, port9_memory .queued _, rfl, .inl rfl⟩
  · show (if (order9 code).code = code then some (false, order9 code) else none) = _
    simp [order9]
  · rw [hw, hk]; simp [order9, probeWork, Handed.cells]
  · rw [hw, hk]; simp [order9, probeWork, Handed.cells]
  · rw [hw]
    intro o ho c hc
    simp only [List.mem_singleton] at ho
    subst ho
    simp only [order9, Handed.cells, List.mem_cons, List.not_mem_nil, or_false] at hc
    subst hc
    exact h9
  · rw [hk]
    intro o ho c hc
    simp only [List.mem_singleton] at ho
    subst ho
    simp only [probeWork, order9, Handed.cells, List.mem_cons, List.not_mem_nil, or_false] at hc
    subst hc
    exact h10

/-- Every bound of the refusals of reads and of zone orders, one past its last valid value. -/
theorem witness_ReadAndZoneOrdersRefused :
    let p := fun (code : OrderCode) (l : List Byte) (at' n : Nat) => (asked code l).param (order9 code) at' n
    let h := fun (code : OrderCode) (l : List Byte) =>
      (asked code l).site.window.has ((asked code l).param (order9 code) 2 2)
    p .readChannels (half 256 ++ half 1) 0 2 = 256 ∧ p .readChannels (half 255 ++ half 0) 2 2 = 0 ∧
      p .readCensus [8, 3] 0 1 = 8 ∧ p .readCensus [7, 4] 1 1 = 4 ∧ p .readCensus [7, 5] 4 2 = 0 ∧
      h .readCensus ([0, 3] ++ half 18799 ++ half 1) = false ∧ h .readCensus ([0, 3] ++ half 26992 ++ half 1) = false ∧
      p .readSpares [0] 0 1 = 0 ∧ p .readSpectrum [4] 0 1 = 4 ∧ h .readSpectrum ([3, 0] ++ half 26992) = false ∧
      p .readLinks [0xF0] 0 1 % 16 = 0 ∧ p .readWatch [4] 0 1 = 4 ∧ p .setZone [4] 0 1 = 4 ∧
      p .setZone [3, 0, 0, 0, 0, 0, 2] 6 1 = 2 ∧ p .probe [4] 0 1 = 4 ∧
      validStep (p .probe ([3, 0] ++ half 40960) 2 2) = false ∧ p .armWatch [4] 0 1 = 4 ∧ p .armWatch [3] 4 8 = 0 ∧
      p .forceHit [4] 0 1 = 4 ∧ p .forceHit [3, 64] 1 1 = 64 := by decide +kernel

theorem witness_ReadAndZoneOrdersRefused_states :
    (∀ (code : OrderCode) (l : List Byte), (asked code l).takes code false (order9 code)) ∧
    (let s := probing .probe ([2, 0] ++ half 20000); let o := order9 .probe
      s.takes .probe false o ∧ s.param o 0 1 = (2 : Fin 4).val ∧ validStep (s.param o 2 2) = true ∧
        (s.links[(2 : Fin 4)].slot).isSome = true) ∧
    (let s := { asked .forceHit [0, 63] with site := { Site.powerOn with window := { w0 := 18800, width := 65 } } };
      let o := order9 .forceHit
      s.takes .forceHit false o ∧ s.param o 1 1 = (63 : Fin 64).val ∧ s.site.window.ok = true ∧
        s.site.window.top < s.site.window.segmentLow 63 ∧ s.site.window.segmentFull 32 = true) :=
  ⟨fun _ _ => takes_asked rfl rfl reset_slots,
    ⟨takes_probing _ _, by decide +kernel, by decide +kernel, rfl⟩,
    takes_asked rfl rfl reset_slots, by decide +kernel, by decide +kernel, by decide, by decide⟩

theorem reset_mapsOk : State.reset.mapsOk := by
  intro z
  simp [State.reset, Zone.powerOn, sparseOk]

/-- Settings with every value beyond its limit. -/
def zoneBytes : List Byte := [3, 50, 119, 0, 17, 1, 1, 0x80, 1, 0, 0, 0, 0, 0, 0, 0x80]

/-- A sweep in progress with nothing of it covered beyond a step. -/
def sweepTo (last : Int) (damaged : Bool) : SweepWork :=
  { number := 1, last := last, damaged := damaged, buffer := [] }

/-- A link with a sweep in progress. -/
def sweepingLink (last : Int) (damaged : Bool) : Link := { Link.cleared with sweep := some (sweepTo last damaged) }

theorem witness_SetZoneStoresSettings :
    let o := order9 .setZone
    (let s := asked .setZone zoneBytes;
      s.takes .setZone false o ∧ s.mapsOk ∧ s.param o 0 1 = (3 : Fin 4).val ∧
        watchModeOf (s.param o 6 1) = some .freeRun ∧ s.zones[(3 : Fin 4)].settings.mode = .latching ∧
        s.links[(3 : Fin 4)].sweep = none) ∧
    (let s := { asked .setZone zoneBytes with links := Vector.replicate 4 (sweepingLink 20000 false) };
      s.takes .setZone false o ∧ s.links[(3 : Fin 4)].sweep ≠ none) :=
  ⟨⟨takes_asked rfl rfl reset_slots, reset_mapsOk, by decide +kernel, by decide +kernel, rfl, rfl⟩,
    takes_asked rfl rfl (by decide), by decide⟩

/-- The power-on threshold of 118 is the highest a clear offset can have, and the occupied offset follows it. -/
theorem test_zone_clamps :
    (zoneSettingsOf 50 119 0 17 1 .freeRun (-128) 0).1 =
      { floor := 50, clearOffset := 118, occupiedOffset := 120, period := 16, threshold := 2, mode := .freeRun,
        hostMask := 0, correction := -64 } := by decide

theorem witness_ProbeWaitsAndEnds :
    (let s := asked .probe ([2, 50] ++ half 20000); let o := order9 .probe
      s.takes .probe false o ∧ s.param o 0 1 = (2 : Fin 4).val ∧ validStep (s.param o 2 2) = true ∧
        s.links[(2 : Fin 4)].slot = none) ∧
    (let s := probing .cancel [];
      s.ordersOk ∧ s.memoryOk ∧ s.links[(2 : Fin 4)].slot = some probeWork ∧ probeWork.probeId ≠ 8) ∧
    State.reset.links[(2 : Fin 4)].slot = none :=
  ⟨⟨takes_asked rfl rfl reset_slots, by decide +kernel, by decide +kernel, rfl⟩,
    ⟨(takes_probing _ _).2.1, (takes_probing _ _).2.2, rfl, by decide⟩, rfl⟩

/-- The channel of stage 0 in a zone: its hits reach it. -/
def watched (s : State) : State :=
  { planned s (.live 20000) with site := s.site.setStage 0 { stageRecord with zone := some 3 } }

theorem witness_ArmWatchAndForceHit :
    (let s := asked .armWatch [3, 0, 0, 0, 1, 0, 0, 0, 0, 0, 0, 0x80]; let o := order9 .armWatch
      s.takes .armWatch false o ∧ s.param o 0 1 = (3 : Fin 4).val ∧ s.param o 4 8 = 2 ^ 63 + 1) ∧
    (let s := asked .forceHit [3, 63]; let o := order9 .forceHit
      s.takes .forceHit false o ∧ s.param o 0 1 = (3 : Fin 4).val ∧ s.param o 1 1 = (63 : Fin 64).val ∧
        s.site.window.segmentFull 63 = true ∧ s.hitChannels 3 63 = []) ∧
    (let s := { watched (asked .forceHit [3, 9]) with
        port := { port9 .queued [3, 9] with cells := fullPool .queued } }; let o := order9 .forceHit
      s.takes .forceHit false o ∧ s.heldBack ∧ o.quiet = false ∧
        s.hitChannels 3 9 = [(5, channelWith (.live 20000))]) :=
  ⟨⟨takes_asked rfl rfl reset_slots, by decide +kernel, by decide +kernel⟩,
    ⟨takes_asked rfl rfl reset_slots, by decide +kernel, by decide +kernel, by decide, by decide +kernel⟩,
    takes_of rfl rfl (by decide +kernel) rfl ⟨port9_memory .queued _, rfl, .inl rfl⟩ reset_slots, .inl (by decide +kernel), rfl,
    by decide +kernel⟩

/-- A hit that reaches a LIVE channel with every permission and a spare: it marks the one, queues its move and drops the
other. Segment 9 of the window runs from 19952 to 20079. -/
theorem witness_ArmWatchAndForceHit_routing :
    let s := { watched State.reset with
      port := { Port.powerOn with auto := true, cells := fullPool .held }
      spares := (Vector.replicate 8 []).set 0 [{ step := 20083, score := 9 }, { step := 20084, score := 7 }] }
    s.site.window.segmentLow 9 = 19952 ∧ s.site.window.segmentHigh 9 = 20079 ∧
      s.hitMoves 3 9 = [.autoMove 5 20000] ∧ s.hitSpares 3 9 0 = [{ step := 20083, score := 9 }] ∧
      (s.routeHit 3 9 7).reports.pending = [{ subject := .channel 5, flags := hitFlag, hit := some (9, 7) }] ∧
      s.hitChannels 3 8 = [] ∧ s.hitChannels 2 9 = [] := by decide +kernel

/-- A FORCE HIT that marks a channel, with cells to report it. -/
theorem witness_ArmWatchAndForceHit_emits :
    let s := watched (asked .forceHit [3, 9])
    s.takes .forceHit false (order9 .forceHit) ∧ s.site.window.segmentFull 9 = true ∧
      s.hitChannels 3 9 = [(5, channelWith (.live 20000))] ∧ s.site.params.reserve < s.port.freeCount :=
  ⟨takes_asked rfl rfl reset_slots, by decide, by decide +kernel, by decide +kernel⟩

/-- The code of a segment is the highest of its seen bins; it has none where no bin is seen. -/
theorem test_new_code :
    let z := { Zone.powerOn with
      map := [(20000, { settled := 50, sum := 0, samples := 0, seen := true }),
              (20001, { settled := 51, sum := 0, samples := 0, seen := true }),
              (20002, { settled := 60, sum := 9, samples := 1, seen := false })] }
    let w : Window := { w0 := 18800, width := 8192 }
    sparseOk Bin.cleared z.map = true ∧ z.newCode w 9 = some 51 ∧ z.newCode w 8 = none := by decide

/-- A rise by exactly the threshold to exactly the presence level is a hit; one step less of either is none. -/
theorem witness_PeriodEndComparesSegments :
    let g : Segment := { Segment.cleared with reference := some 40 }
    let z := ZoneSettings.powerOn
    z.threshold + 40 ≤ 52 ∧ z.floor + z.clearOffset ≤ 52 ∧ (g.periodEnd z true false (some 52)).2 = some 12 ∧
      (g.periodEnd z true false (some 51)).2 = none ∧ (g.periodEnd z true false none).1.reference = some 40 ∧
      (g.periodEnd z true true (some 52)).1.reference = some 52 ∧
      (g.periodEnd z false false (some 52)).1.reference = none ∧
      ({ g with frozen := true }.periodEnd z true false (some 52)).1.reference = some 40 := by decide

/-- The forms of a SWEEP frame: it begins a sweep, goes on, overlaps or abandons, on the last and on other frames, within a
period and at its end. -/
theorem witness_SweepAssemblesAndEnds :
    strideOk 4 = true ∧ levelCountOk [60] = true ∧ State.reset.mapsOk ∧
      (0x00#8).getLsbD 0 = false ∧ (0x01#8).getLsbD 0 = true ∧
      State.reset.zones[(0 : Fin 4)].goodSweeps + 1 < State.reset.zones[(0 : Fin 4)].settings.period ∧
      State.reset.links[(0 : Fin 4)].sweep = none ∧
      (let s : State := { State.reset with
          links := Vector.replicate 4 (sweepingLink 20000 false)
          zones := Vector.replicate 4 { Zone.powerOn with goodSweeps := 3 }
          port := { Port.powerOn with cells := fullPool .held } };
        s.mapsOk ∧ s.links[(0 : Fin 4)].sweep = some (sweepTo 20000 false) ∧
          s.zones[(0 : Fin 4)].settings.period ≤ s.zones[(0 : Fin 4)].goodSweeps + 1 ∧ s.heldBack ∧
          s.zones[(0 : Fin 4)].freshness ≠ .fresh ∧ s.site.window.segmentFull 0 = true) :=
  ⟨by decide, by decide, reset_mapsOk, by decide, by decide, by decide, rfl,
    fun z => by simp [Zone.powerOn, sparseOk], rfl, by decide, .inl (by decide +kernel), by decide, by decide⟩

/-- The last step covered is the first and no more: a SWEEP frame that begins on it damages its sweep, one that begins
above it does not. -/
theorem test_sweep_overlap :
    (assemble (some (sweepTo 20000 false)) 1 20000 20003 []).1.damaged = true ∧
      (assemble (some (sweepTo 20000 false)) 1 20001 20004 []).1.damaged = false ∧
      (assemble (some (sweepTo 20000 true)) 2 20000 20003 []).1.damaged = false := by decide

theorem witness_IdleErrorsAndTimeout :
    strideOk 3 = false ∧ levelCountOk [] = false ∧
    (let s : State := { State.reset with
        links := Vector.replicate 4 { sweepingLink 20000 false with lastValid := some 5 }
        zones := Vector.replicate 4 { Zone.powerOn with freshness := .warming }
        port := { Port.powerOn with cells := fullPool .held } };
      s.zones[(0 : Fin 4)].freshness = .warming ∧ s.links[(0 : Fin 4)].lastValid = some 5 ∧ s.mapsOk ∧
        s.links[(0 : Fin 4)].sweep ≠ none ∧ s.heldBack) ∧
    (let s : State := { State.reset with
        links := Vector.replicate 4 { Link.cleared with lastValid := some 5 }
        zones := Vector.replicate 4 { Zone.powerOn with freshness := .fresh } };
      s.zones[(3 : Fin 4)].freshness = .fresh ∧ s.links[(3 : Fin 4)].lastValid = some 5 ∧ s.mapsOk ∧
        s.links[(3 : Fin 4)].sweep = none) :=
  ⟨by decide, by decide, ⟨rfl, rfl, fun z => by simp [Zone.powerOn, sparseOk], by decide, .inl (by decide +kernel)⟩,
    rfl, rfl, fun z => by simp [Zone.powerOn, sparseOk], rfl⟩

/-- Where a receiver stops and hunts on: a length of 0 or above 1,100, a type the scanner does not send, and a length that
its type does not allow. -/
theorem test_receiver_starts :
    receive 0 [0x9B, 0x64, 0x00, 0x00] = (some (.formatError 0), []) ∧
      receive 0 [0x9B, 0x64, 0x04, 0x4C] = (none, [0x9B, 0x64, 0x04, 0x4C]) ∧
      receive 0 [0x9B, 0x64, 0x04, 0x4D] = (some (.formatError 0), []) ∧
      receive 0 [0x9B, 0x64, 0x00, 0x04, 0x02] = (some (.formatError 0), []) ∧
      receive 0 [0x9B, 0x64, 0x00, 0x02, 0x04] = (some (.formatError 0), []) ∧
      receive 0 [0x9B, 0x64, 0x00, 0x9B, 0x9B] = (some (.formatError 0), [0x9B]) := by decide +kernel

/-- A SWEEP frame of one level in which the count agrees, and one in which it does not. -/
theorem test_receiver_sweep :
    receive 3 (frameBytes 0x01 (high 7 ++ high 20000 ++ [4, 1] ++ high 1 ++ [60])) =
        (some (.sweep 3 7 20000 4 1 [60]), []) ∧
      receive 3 (frameBytes 0x01 (high 7 ++ high 20000 ++ [4, 1] ++ high 2 ++ [60])) = (some (.formatError 3), []) := by
  decide +kernel

/-- A state with bytes on the line of link 2, inside a frame or not. -/
def onLine (inside line : List Byte) : State :=
  { State.reset with
    links := (Vector.replicate 4 Link.cleared).set 2 { Link.cleared with receiver := inside, line := line } }

theorem witness_IdleErrorsAndTimeout_line :
    (let s := onLine [] [0x9B];
      s.pending = [] ∧ s.due = none ∧ s.links[(2 : Fin 4)].line = [0x9B] ∧
        (∀ y : Fin 4, y < 2 → s.links[y].line = []) ∧ (receive 2 (feed [] 0x9B)).1 = none) ∧
    (let l := frameBytes 0x04 []; let s := onLine l.dropLast [l.getLast!];
      s.pending = [] ∧ s.due = none ∧ s.links[(2 : Fin 4)].line = [l.getLast!] ∧
        (receive 2 (feed s.links[(2 : Fin 4)].receiver l.getLast!)).1 = some (.idle 2) ∧
        ∃ t, exec (.idle 2) s = .next t) :=
  ⟨by decide +kernel, rfl, rfl, rfl, by decide +kernel, _, rfl⟩

/-! ### CANCEL, resumption, the exchange and the resets -/

/-- An urgent CANCEL in cell 10 of the order in cell 9, whose work is suspended. -/
def cancelling (w : Work) : State :=
  { State.reset with
    engine := { urgent := [.order { order9 .cancel with head := 10, urgent := true }], routine := [],
                urgentContext := .idle, routineContext := .suspended w }
    port := { Port.powerOn with
      run := true, cells := (port9 .active []).cells.set 1 .queued
      memory := Memory.writeAll [] (payloadOffset 10 0) [9, 0] } }

theorem takes_cancelling {w : Work} {code : OrderCode} (hw : w.order = some (order9 code)) :
    (cancelling w).takes .cancel true { order9 .cancel with head := 10, urgent := true } := by
  have h0 : (cancelling w).waiting = [{ order9 .cancel with head := 10, urgent := true }] := rfl
  have hk : (cancelling w).working = [order9 code] := by
    unfold State.working
    simp [cancelling, RoutineContext.work, hw, State.reset, Link.cleared]
  have h9 : (cancelling w).port.cell 9 = some .active := by
    simp [cancelling, port9, Port.cell, poolIndex, index, Config.firstCell]
  have h10 : (cancelling w).port.cell 10 = some .queued := by
    simp [cancelling, port9, Port.cell, poolIndex, index, Config.firstCell]
  refine ⟨rfl, ⟨?_, ?_, ?_, ?_, fun h => absurd rfl h⟩, Memory.writeAll_wf _ _ rfl, rfl, .inl rfl⟩
  · rw [h0, hk]; simp [order9, Handed.cells]
  · rw [h0, hk]; simp [order9, Handed.cells]
  · rw [h0]
    intro o ho c hc
    simp only [List.mem_singleton] at ho
    subst ho
    simp only [order9, Handed.cells, List.mem_cons, List.not_mem_nil, or_false] at hc
    subst hc
    exact h10
  · rw [hk]
    intro o ho c hc
    simp only [List.mem_singleton] at ho
    subst ho
    simp only [order9, Handed.cells, List.mem_cons, List.not_mem_nil, or_false] at hc
    subst hc
    exact h9

theorem witness_CancelStopsTarget :
    (let s := asked .cancel [8, 0]; let o := order9 .cancel
      s.takes .cancel false o ∧ s.param o 0 2 = 8) ∧
    (let s := asked .cancel (half 511); let o := order9 .cancel
      s.takes .cancel false o ∧ s.param o 0 2 = 511 ∧ ∀ p ∈ s.waiting ++ s.working, p.head ≠ 511) ∧
    (let s := probing .cancel [10, 0]; let o := order9 .cancel
      s.takes .cancel false o ∧ s.param o 0 2 = probeWork.order.head ∧ s.param o 0 2 ≠ o.head ∧
        s.links[(2 : Fin 4)].slot = some probeWork) ∧
    (∀ w code, w.order = some (order9 code) →
      let s := cancelling w; let o : Handed := { order9 .cancel with head := 10, urgent := true }
      s.takes .cancel true o ∧ s.engine.routineContext = .suspended w ∧ s.param o 0 2 = (order9 code).head) ∧
    (Work.place (searchOf false 0 [] [])).order = some (order9 .place) ∧
    (Work.check (checkOf [])).order = some (order9 .checkList) ∧
    (Work.rebuild (rebuildAt .add 0)).order = some (order9 .rebuildCensus) ∧
    (Work.refill (refillOf none [])).order = some (order9 .refillSpares) := by
  refine ⟨⟨takes_asked rfl rfl reset_slots, by decide +kernel⟩,
    ⟨takes_asked rfl rfl reset_slots, by decide +kernel, by decide +kernel⟩,
    ⟨takes_probing _ _, by decide +kernel, by decide +kernel, rfl⟩,
    fun w code hw => ⟨takes_cancelling hw, rfl, ?_⟩, rfl, rfl, rfl, rfl⟩
  show ({ cancelling (.single) with engine := (cancelling w).engine } : State).param _ 0 2 = 9
  exact (by decide +kernel : (cancelling .single).param { order9 .cancel with head := 10, urgent := true } 0 2 = 9)

/-- A CANCEL that names an order that waits behind it. -/
theorem witness_CancelStopsTarget_waiting :
    let o := order9 .cancel
    let p : Handed := { order9 .place with head := 10 }
    let s : State := { asked .cancel [10, 0] with
      engine := { Engine.cleared with routine := [.order o, .order p] }
      port := { (asked .cancel [10, 0]).port with cells := (port9 .queued []).cells.set 1 .queued } }
    s.granted .cancel = some (false, o) ∧ s.memoryOk ∧ p ∈ s.waiting ∧ s.working = [] ∧
      (∀ c ∈ [9, 10], s.port.cell c = some .queued) ∧ s.param o 0 2 = p.head ∧ p.head ≠ o.head :=
  ⟨rfl, ⟨port9_memory .queued _, rfl, .inl rfl⟩, by decide, rfl, by decide +kernel, by decide +kernel, by decide⟩

/-- A state with suspended work that may resume. -/
def resting (w : Work) : State :=
  { State.reset with
    engine := { Engine.cleared with routineContext := .suspended w }
    port := { Port.powerOn with run := true } }

theorem witness_ResumptionGoesOn :
    (∀ w, (resting w).arbiter = some (.resume w)) ∧
      (resting .single).plan.epoch = (rebuildAt .add 0).epoch ∧
      (resting .single).site.generation = (rebuildAt .add 0).generation ∧
      (resting .single).plan.epoch ≠ ({ rebuildAt .add 0 with epoch := 1 } : RebuildWork).epoch :=
  ⟨fun _ => rfl, rfl, rfl, by decide⟩

/-- A state in which a reset is in progress. -/
def inReset (k : ResetKind) : State :=
  { State.reset with port := { Port.powerOn with reset := some { kind := k, ends := 1 } } }

/-- A state in which the host holds cell 9, whose head names an order. -/
def holding (head : List Byte) : State :=
  { State.reset with
    port := { Port.powerOn with
      cells := Port.powerOn.cells.set 0 .held
      memory := Memory.writeAll [] (9 * 256) head } }

/-- The head of a chain of one cell with a code and flags. -/
def chainHead (code flags : Byte) : List Byte := [0, 0, 0, 0, 0xFF, 0xFF, code, flags]

theorem witness_ClaimGiveAndMisuse :
    State.reset.port.reset = none ∧ State.reset.port.cell 9 = some .free ∧
      (∀ d, d < 9 → State.reset.port.cell d ≠ some .free) ∧ (inReset .soft).port.reset ≠ none ∧
      (holding []).port.hostSide ((9#32).toNat % 65536) = true ∧ (holding []).memoryOk ∧
      (holding []).reports.pending = [] ∧ (holding []).port.backlog = [] ∧
      (holding []).port.hostSide ((10#32).toNat % 65536) = false ∧
      State.reset.port.hostSide ((512#32).toNat % 65536) = false :=
  ⟨rfl, by decide +kernel, by decide +kernel, by decide, by decide +kernel, ⟨rfl, rfl, .inl rfl⟩, rfl, rfl, by decide +kernel,
    by decide +kernel⟩

/-- A state in which the host holds cell 9, whose entry blocks the next slot of the out list, with a delivery held back. -/
def blockedBy9 : State :=
  { holding (chainHead 0x51 0) with
    port := { (holding (chainHead 0x51 0)).port with
      outList := [(0, { entry := some { cell := 9, report := false, urgent := false }, live := true })]
      backlog := [{ cell := 10, report := true, urgent := false }] } }

/-- GIVE and HAND of the blocking cell let the delivery out. -/
theorem witness_backlog :
    blockedBy9.memoryOk ∧ blockedBy9.port.blocked = true ∧ blockedBy9.port.backlog ≠ [] ∧
      blockedBy9.port.reset = none ∧ blockedBy9.port.hostSide 9 = true ∧
      blockedBy9.port.handed 9 = .ok (order9 .place) :=
  ⟨⟨Memory.writeAll_wf _ _ rfl, rfl, .inr rfl⟩, rfl, by decide, rfl, by decide +kernel, by decide +kernel⟩

/-- The out total after a command. -/
def outTotalAfter (c : Instr) (s : State) : Option Word :=
  match exec c s with
  | .next t => if t.port.backlog = [] then some t.port.outTotal else none
  | .fault _ | .refused _ => none

theorem test_backlog_drains :
    outTotalAfter (.give 9) blockedBy9 = some 1 ∧ outTotalAfter (.hand 9) blockedBy9 = some 1 ∧
      outTotalAfter (.give 8) blockedBy9 = none := by decide +kernel

/-- With RUN 1 a handing takes its order up in the same event: a CANCEL that names no pool cell is over at once. -/
theorem test_hand_takes_up :
    (let s := holding (chainHead 0x91 0)
     cell9After (.hand 9) s = some .queued ∧
       cell9After (.hand 9) { s with port := { s.port with run := true } } = some .delivered) := by decide +kernel

theorem witness_HandChecksChain :
    let p := (holding (chainHead 0x51 2)).port
    p.hostSide 9 = true ∧ p.handed 9 = .ok { order9 .place with quiet := true } ∧
      (holding (chainHead 0x51 1)).port.handed 9 = .error .wrongClass ∧
      (holding (chainHead 0xFF 0)).port.handed 9 = .error .malformed ∧ Machine.orderOf 0xFF = none ∧
      (∀ i c, [9][i]? = some c → p.headField c 4 2 = ([9][i + 1]?).getD 0xFFFF) ∧
      Machine.orderOf (p.headField 9 6 1) = some .place := by
  refine ⟨by decide +kernel, by decide +kernel, by decide +kernel, by decide +kernel, by decide, ?_, by decide +kernel⟩
  intro i c h
  cases i with
  | zero =>
    simp only [List.getElem?_cons_zero, Option.some.injEq] at h
    subst h
    decide +kernel
  | succ n => simp at h

/-- A chain that comes back to its head is MALFORMED, also under URGENT for a routine-only code. -/
theorem witness_HandChecksChain_broken :
    let p := (holding [0, 0, 0, 0, 9, 0, 0x51, 1]).port
    p.hostSide 9 = true ∧ p.headField 9 4 2 = 9 ∧ p.handed 9 = .error .malformed ∧
      OrderCode.urgentPermitted .place = false := by decide +kernel

theorem witness_HandQueuesOrder :
    (let s := holding (chainHead 0x51 0);
      s.port.reset = none ∧ s.port.hostSide ((9#32).toNat % 65536) = true ∧ s.port.handed 9 = .ok (order9 .place) ∧
        s.port.backlog = []) ∧
    (let s := holding (chainHead 0x51 1);
      s.port.reset = none ∧ s.port.handed ((9#32).toNat % 65536) = .error .wrongClass ∧ s.memoryOk) ∧
    State.reset.port.hostSide ((8#32).toNat % 65536) = false :=
  ⟨⟨rfl, by decide +kernel, by decide +kernel, rfl⟩, ⟨rfl, by decide +kernel, Memory.writeAll_wf _ _ rfl, rfl, .inl rfl⟩,
    by decide +kernel⟩

/-- Each kind of reset can be in progress, which is what the statements on the control registers and on the resets tell
apart. -/
theorem witness_ControlAndResets :
    State.reset.port.reset = none ∧
      (∀ k, ∃ r, (inReset k).port.reset = some r ∧ r.kind = k ∧ (inReset k).memoryOk ∧
        (inReset k).reports.pending = []) :=
  ⟨rfl, fun _ => ⟨_, rfl, rfl, ⟨rfl, rfl, .inl rfl⟩, rfl⟩⟩

theorem witness_ExchangeResetBegins :
    (let w := searchOf false 0 [{ item := item 5 20000 2, cursor := 0, chosen := some 20000 }] [];
      let s := planned (working (.place w)) (.tentative 20000);
      s.port.reset = none ∧ s.engine.routineContext.work = some (.place w) ∧
        ∀ e ∈ w.stack, (s.channel e.item.channel).isSome = true) ∧
    (let s := working (.rebuild (rebuildAt .add 0));
      s.port.reset = none ∧ s.engine.routineContext.work = some (.rebuild (rebuildAt .add 0)) ∧
        (rebuildAt .add 0).order = some (order9 .rebuildCensus)) ∧
    (State.reset.port.reset = none ∧ State.reset.engine.routineContext.work = none) :=
  ⟨⟨rfl, rfl, by decide +kernel⟩, ⟨rfl, rfl, rfl⟩, rfl, rfl⟩

/-- The last two bytes of the header area and the first two of cell 9. -/
theorem witness_HostWriteStoresInCells :
    hostRangeOk (0x8FE#18).toNat [1#8, 2#8, 3#8, 4#8].length = true ∧ State.reset.port.memory.wf = true ∧
      hostRangeOk (0x1FFFF#18).toNat [1#8].length = true := by decide

theorem test_host_write_clips :
    Memory.hostWrite [] 0x8FE [1#8, 2#8, 3#8, 4#8] = Memory.writeAll [] 0x900 [3#8, 4#8] := by decide

/-! ### Reports -/

/-- A subject that waits for a report. -/
def marked : Reports := { Reports.cleared with pending := [{ subject := .zone 3, flags := 1, hit := none }] }

/-- Sixteen subjects fill one report and go on in a second. -/
theorem witness_EmissionBuildsReports_two :
    let s : State := { State.reset with
      reports := { Reports.cleared with
        pending := (List.finRange 16).map fun i => { subject := .channel (i.castLE (by decide)), flags := 1, hit := none } } }
    s.reports.pending.length = 16 ∧ s.memoryOk ∧ s.port.reset = none ∧ s.site.params.reserve + 1 < s.port.freeCount ∧
      s.port.blocked = false ∧ s.port.cell 9 = some .free ∧ s.attempt.reports.sequence = 2 ∧
      s.attempt.reports.pending = [] :=
  ⟨rfl, ⟨rfl, rfl, .inl rfl⟩, rfl, by decide +kernel, rfl, by decide +kernel, by decide +kernel, by decide +kernel⟩

theorem witness_EmissionBuildsReports :
    (let s : State := { State.reset with reports := marked };
      s.memoryOk ∧ s.reports.pending ≠ [] ∧ s.port.reset = none ∧ s.site.params.reserve < s.port.freeCount ∧
        s.reports.pending.length ≤ 15 ∧ s.port.cell 9 = some .free ∧ ∀ d, d < 9 → s.port.cell d ≠ some .free) ∧
    (let s : State := { State.reset with
        reports := marked, port := { Port.powerOn with cells := fullPool .held } };
      s.reports.pending ≠ [] ∧ s.port.reset = none ∧ s.port.freeCount ≤ s.site.params.reserve) :=
  ⟨⟨⟨rfl, rfl, .inl rfl⟩, by decide, rfl, by decide +kernel, by decide, by decide +kernel, by decide +kernel⟩,
    by decide, rfl, by decide +kernel⟩

end Sys2Proof.Tests
end

section
/-! The Evaluator's range check, spacing check and score terms: what each function answers, said once, and the statements
O27, O28 and O29 that follow (R55, R58, R62 to R64). -/

namespace Sys2Proof.Machine

/-! ### C1: the window and the cut range (R55) -/

theorem Window.has_iff (w : Window) (n : Nat) : w.has n = true ↔ w.w0 ≤ n ∧ n + 1 ≤ w.w0 + w.width := by
  simp [Window.has]

/-- For a step of the window, the range cut to the window holds the step when the uncut range does (R18). -/
theorem Window.clip_holds_iff {w : Window} {low high n : Nat} (hn : w.has n = true) :
    (∃ l h, w.clip low high = some (l, h) ∧ l ≤ n ∧ n ≤ h) ↔ low ≤ n ∧ n ≤ high := by
  obtain ⟨hlow, hhigh⟩ := w.has_iff n |>.mp hn
  have htop : n ≤ w.top := by unfold Window.top; omega
  constructor
  · rintro ⟨l, h, hclip, hl, hh⟩
    simp only [Window.clip, Option.ite_none_right_eq_some, Option.some.injEq, Prod.mk.injEq] at hclip
    omega
  · rintro ⟨hl, hh⟩
    exact ⟨_, _, if_pos (by omega), by omega, by omega⟩

theorem State.check1_iff (s : State) (c : Candidate) :
    s.check1 c = true ↔
      s.site.window.has c.step = true ∧ (∃ l h, c.range = some (l, h) ∧ l ≤ c.step ∧ c.step ≤ h) ∧
        c.step % c.multiple = 0 := by
  unfold State.check1
  rcases c.range with _ | ⟨low, high⟩
  · simp
  · simp [and_assoc]

/-- C1 for a subject whose range is cut to the window. -/
theorem State.check1_iff_of_clip (s : State) (c : Candidate) {low high : Nat}
    (hrange : c.range = s.site.window.clip low high) :
    s.check1 c = true ↔
      (s.site.window.w0 ≤ c.step ∧ c.step + 1 ≤ s.site.window.w0 + s.site.window.width) ∧
        (low ≤ c.step ∧ c.step ≤ high) ∧ c.step % c.multiple = 0 := by
  rw [s.check1_iff, hrange, ← Window.has_iff]
  exact and_congr_right fun hin => and_congr_left' (Window.clip_holds_iff hin)

/-- Settles O27: a channel's and a spare profile's candidate both carry a range cut to the window. -/
theorem rangeCheck : Obligations.RangeCheck := fun s f =>
  ⟨fun r => s.check1_iff_of_clip (s.site.channelCandidate r f) rfl,
    fun b r => s.check1_iff_of_clip (s.site.spareCandidate b r f) rfl⟩

/-! ### C4: the compared frequencies and their spacing (R58) -/

theorem distance_eq_natAbs (a b : Nat) : distance a b = ((a : Int) - b).natAbs := by
  unfold distance; omega

theorem State.mem_compared {s : State} {c : Candidate} {set : List Transmitter} {a : Transmitter} :
    a ∈ s.compared c set ↔ a ∈ set ∧ s.site.isolation c.stage a.stage < s.site.params.tSp := by
  simp [State.compared, Site.nearSp]

theorem State.check4_iff (s : State) (c : Candidate) (set : List Transmitter) :
    s.check4 c set = true ↔ ∀ a ∈ s.compared c set, s.spacing c a ≤ distance c.step a.step := by
  simp [State.check4]

theorem State.check4_eq_false_iff (s : State) (c : Candidate) (set : List Transmitter) :
    s.check4 c set = false ↔ ∃ a ∈ s.compared c set, distance c.step a.step < s.spacing c a := by
  simp [← Bool.not_eq_true, s.check4_iff]

/-- Settles O28, from the failure of C4 and membership in the compared frequencies. -/
theorem spacingCheck : Obligations.SpacingCheck := fun s c set => by
  simp only [s.check4_eq_false_iff, State.mem_compared, and_assoc, distance_eq_natAbs, State.spacing]

/-! ### The dP term: a search outwards (R62) -/

/-- The least distance from 1 to `k` at which `p` holds, and `k` when there is none. -/
def nearest (k : Nat) (p : Nat → Bool) : Nat := (((List.range k).map (· + 1)).find? p).getD k

/-- What a search outwards answers: a distance in bounds, with nothing before it, and a find unless it is the bound. -/
theorem nearest_spec {k : Nat} (hk : 1 ≤ k) (p : Nat → Bool) :
    (1 ≤ nearest k p ∧ nearest k p ≤ k) ∧ (∀ d, 1 ≤ d → d < nearest k p → p d = false) ∧
      (nearest k p < k → p (nearest k p) = true) := by
  unfold nearest
  rw [List.find?_map]
  cases hfind : (List.range k).find? (p ∘ (· + 1)) with
  | none =>
    have hnone := List.find?_range_eq_none.mp hfind
    refine ⟨⟨hk, le_rfl⟩, fun d h1 hd => ?_, fun h => absurd h (lt_irrefl k)⟩
    simpa [Nat.sub_add_cancel h1] using hnone (d - 1) (by simp at hd; omega)
  | some i =>
    obtain ⟨hi, hmem, hbefore⟩ := List.find?_range_eq_some.mp hfind
    refine ⟨⟨Nat.le_add_left 1 i, List.mem_range.mp hmem⟩, fun d h1 hd => ?_, fun _ => hi⟩
    simpa [Nat.sub_add_cancel h1] using hbefore (d - 1) (by simp at hd; omega)

/-- Whether the dP search finds a count at a bin: in plane3, or in plane5 where fifth-order products count. -/
def State.counted (s : State) (c : Candidate) (set aside : List Transmitter) (n : Nat) : Bool :=
  s.count3 c.stage set aside n ≠ 0 || (s.site.fifthCounted && s.count5 c.stage set aside n ≠ 0)

theorem State.counted_iff {s : State} {c : Candidate} {set aside : List Transmitter} {n : Nat} :
    s.counted c set aside n = true ↔
      s.count3 c.stage set aside n ≠ 0 ∨
        ((s.site.params.imLevel = 2 ∨ s.site.params.imLevel = 3) ∧ s.count5 c.stage set aside n ≠ 0) := by
  simp [State.counted, Site.fifthCounted]

theorem State.termP_eq_nearest (s : State) (c : Candidate) (set aside : List Transmitter) :
    s.termP c set aside =
      nearest 64 fun d => s.counted c set aside (c.step - d) || s.counted c set aside (c.step + d) := rfl

theorem State.termP_bounds (s : State) (c : Candidate) (set aside : List Transmitter) :
    1 ≤ s.termP c set aside ∧ s.termP c set aside ≤ 64 := by
  rw [s.termP_eq_nearest]
  exact (nearest_spec (by decide) _).1

theorem State.not_counted_of_lt_termP {s : State} {c : Candidate} {set aside : List Transmitter} {d : Nat} (h1 : 1 ≤ d)
    (hd : d < s.termP c set aside) :
    ¬ s.counted c set aside (c.step - d) = true ∧ ¬ s.counted c set aside (c.step + d) = true := by
  rw [s.termP_eq_nearest] at hd
  simpa using (nearest_spec (by decide) _).2.1 d h1 hd

theorem State.counted_at_termP {s : State} {c : Candidate} {set aside : List Transmitter}
    (h : s.termP c set aside < 64) :
    s.counted c set aside (c.step - s.termP c set aside) = true ∨
      s.counted c set aside (c.step + s.termP c set aside) = true := by
  rw [s.termP_eq_nearest] at h ⊢
  simpa using (nearest_spec (by decide) _).2.2 h

/-! ### The dC term: the least margin (R63) -/

theorem State.termC_of_compared_nil {s : State} {c : Candidate} {set : List Transmitter}
    (h : s.compared c set = []) : s.termC c set = 100 := by
  simp [State.termC, h]

/-- With a compared frequency, dC is the minimum of the margins. -/
theorem State.termC_eq_min? {s : State} {c : Candidate} {set : List Transmitter} (h : s.compared c set ≠ []) :
    ((s.compared c set).map fun a => distance c.step a.step - s.spacing c a).min? = some (s.termC c set) := by
  obtain ⟨a, rest, hcons⟩ := List.exists_cons_of_ne_nil h
  simp only [State.termC, hcons, List.map_cons, List.min?_cons']

/-- Where C4 passes, dC is the least distance beyond the required spacing: some compared frequency stands exactly so far
away, and none stands nearer. -/
theorem State.termC_least {s : State} {c : Candidate} {set : List Transmitter} (h4 : s.check4 c set = true)
    (h : s.compared c set ≠ []) :
    (∃ a ∈ s.compared c set, distance c.step a.step = s.spacing c a + s.termC c set) ∧
      ∀ a ∈ s.compared c set, s.spacing c a + s.termC c set ≤ distance c.step a.step := by
  have hspaced := (s.check4_iff c set).mp h4
  obtain ⟨hmem, hle⟩ := List.min?_eq_some_iff.mp (State.termC_eq_min? h)
  constructor
  · obtain ⟨a, ha, hmargin⟩ := List.mem_map.mp hmem
    exact ⟨a, ha, by have := hspaced a ha; omega⟩
  · intro a ha
    have hmargin := hle _ (List.mem_map_of_mem ha)
    have := hspaced a ha
    omega

/-! ### The m2 term: the headroom of the worst code (R63) -/

theorem State.termM_of_no_zone {s : State} {c : Candidate} (h : s.site.zoneOf c.stage = none) : s.termM c = 0 := by
  simp [State.termM, h]

/-- The occupied level of a zone. -/
def Zone.occupied (z : Zone) : Nat := z.settings.floor + z.settings.occupiedOffset

/-- The code of a bin as m2 reads it: an unseen bin counts as the occupied level. -/
def Zone.code (z : Zone) (n : Nat) : Nat :=
  let b := sparseGet Bin.cleared z.map n
  if b.seen then b.settled else z.occupied

theorem Zone.code_of_seen {z : Zone} {n : Nat} (h : (sparseGet Bin.cleared z.map n).seen = true) :
    z.code n = (sparseGet Bin.cleared z.map n).settled := by
  simp [Zone.code, h]

theorem Zone.code_of_unseen {z : Zone} {n : Nat} (h : (sparseGet Bin.cleared z.map n).seen = false) :
    z.code n = z.occupied := by
  simp [Zone.code, h]

/-- The bins of the window that a candidate covers. -/
def State.covered (s : State) (c : Candidate) : List Nat :=
  s.site.window.steps (c.step - c.halfWidth) (c.step + c.halfWidth)

/-- The highest code of some bins, 0 of none. -/
def Zone.worst (z : Zone) (bins : List Nat) : Nat := (bins.map z.code).foldl max 0

theorem State.termM_of_zone {s : State} {c : Candidate} {z : Fin 4} (h : s.site.zoneOf c.stage = some z) :
    s.termM c = min (s.zones[z].occupied - s.zones[z].worst (s.covered c)) 60 := by
  unfold State.termM
  rw [h]
  rfl

theorem Zone.worst_spec (z : Zone) (bins : List Nat) :
    z.worst bins ∈ 0 :: bins.map z.code ∧ ∀ x ∈ 0 :: bins.map z.code, x ≤ z.worst bins :=
  List.max?_eq_some_iff.mp List.max?_cons'

theorem Zone.code_le_worst {z : Zone} {bins : List Nat} {n : Nat} (hn : n ∈ bins) : z.code n ≤ z.worst bins :=
  (z.worst_spec bins).2 _ (List.mem_cons_of_mem _ (List.mem_map_of_mem hn))

theorem Zone.exists_code_eq_worst {z : Zone} {bins : List Nat} (h : bins ≠ []) : ∃ n ∈ bins, z.code n = z.worst bins := by
  rcases List.mem_cons.mp (z.worst_spec bins).1 with hzero | hcode
  · obtain ⟨n, hn⟩ := List.exists_mem_of_ne_nil bins h
    exact ⟨n, hn, by have := Zone.code_le_worst (z := z) hn; omega⟩
  · exact List.mem_map.mp hcode

theorem State.termM_of_unseen {s : State} {c : Candidate} {z : Fin 4} (hz : s.site.zoneOf c.stage = some z) {n : Nat}
    (hn : n ∈ s.covered c) (hunseen : (sparseGet Bin.cleared s.zones[z].map n).seen = false) : s.termM c = 0 := by
  have hle := Zone.code_le_worst (z := s.zones[z]) hn
  rw [Zone.code_of_unseen hunseen] at hle
  rw [State.termM_of_zone hz, Nat.sub_eq_zero_of_le hle, Nat.zero_min]

/-- Over seen bins, m2 is the headroom of one of them, 60 at most, and no bin has less headroom. -/
theorem State.termM_of_seen {s : State} {c : Candidate} {z : Fin 4} (hz : s.site.zoneOf c.stage = some z)
    (hne : s.covered c ≠ []) (hseen : ∀ n ∈ s.covered c, (sparseGet Bin.cleared s.zones[z].map n).seen = true) :
    (∃ n ∈ s.covered c,
      s.termM c = min (s.zones[z].occupied - (sparseGet Bin.cleared s.zones[z].map n).settled) 60) ∧
    ∀ n ∈ s.covered c, s.termM c ≤ s.zones[z].occupied - (sparseGet Bin.cleared s.zones[z].map n).settled := by
  rw [State.termM_of_zone hz]
  constructor
  · obtain ⟨n, hn, hworst⟩ := Zone.exists_code_eq_worst (z := s.zones[z]) hne
    exact ⟨n, hn, by rw [← hworst, Zone.code_of_seen (hseen n hn)]⟩
  · intro n hn
    have hle := Zone.code_le_worst (z := s.zones[z]) hn
    rw [Zone.code_of_seen (hseen n hn)] at hle
    omega

/-! ### The score (R64) -/

theorem State.score_bounds (s : State) (c : Candidate) (set aside : List Transmitter) :
    8 ≤ s.score c set aside ∧ s.score c set aside ≤ 1012 := by
  obtain ⟨hP1, hP64⟩ := s.termP_bounds c set aside
  unfold State.score
  omega

/-- The only score an evaluation answers is the one R64 gives. -/
theorem State.evaluate_pass {s : State} {c : Candidate} {set aside : List Transmitter} {strict : Bool} {n : Nat}
    (h : s.evaluate c set aside strict = .pass n) : n = s.score c set aside := by
  unfold State.evaluate at h
  split_ifs at h
  cases h
  rfl

/-- Settles O29: the three terms one by one, then the range of the score. -/
theorem scoreTerms : Obligations.ScoreTerms := by
  intro s c set aside full
  have hfull : ∀ n, full n ↔ s.counted c set aside n = true := fun n => State.counted_iff.symm
  obtain ⟨hP1, hP64⟩ := s.termP_bounds c set aside
  refine ⟨⟨hP1, hP64, fun d h1 hd => ?_, fun h => ?_⟩, fun h4 => ⟨State.termC_of_compared_nil, State.termC_least h4⟩,
    State.termM_of_no_zone, fun z hz => ⟨?_, State.termM_of_seen hz⟩, fun strict n hpass => ?_⟩
  · simpa only [hfull] using State.not_counted_of_lt_termP h1 hd
  · simpa only [hfull] using State.counted_at_termP h
  · rintro ⟨n, hn, hunseen⟩
    exact State.termM_of_unseen hz hn hunseen
  · rw [State.evaluate_pass hpass]
    exact s.score_bounds c set aside

end Sys2Proof.Machine
end


section
/-! Lemmas about the exclusion list, the coupling matrix and the spare lists, and what every event keeps of the
invariants of single blocks: the layer from which O6, O7 and the first four parts of O8 follow. -/

namespace Sys2Proof.Machine

/-! ### The exclusion list (R14 to R16) -/

theorem ExclusionKind.code_inj {a b : ExclusionKind} (h : a.code = b.code) : a = b := by
  cases a <;> cases b <;> simp_all [ExclusionKind.code]

/-- The order of R14 compares the four fields in turn. -/
theorem Exclusion.before_iff (a b : Exclusion) :
    a.before b = true ↔ a.low < b.low ∨ a.low = b.low ∧ (a.high < b.high ∨ a.high = b.high ∧
      (a.mask.toNat < b.mask.toNat ∨ a.mask.toNat = b.mask.toNat ∧ a.kind.code < b.kind.code)) := by
  have hmask : a.mask = b.mask ↔ a.mask.toNat = b.mask.toNat := BitVec.toNat_inj.symm
  unfold Exclusion.before
  simp only [ne_eq, hmask]
  split_ifs <;> simp only [decide_eq_true_eq] <;> omega

theorem Exclusion.before_trans {a b c : Exclusion} (h : a.before b = true) (k : b.before c = true) :
    a.before c = true := by
  rw [Exclusion.before_iff] at *
  omega

/-- Two records that stand in neither order are equal in all four fields. -/
theorem Exclusion.before_total {a b : Exclusion} (h : a.before b = false) (hne : a ≠ b) : b.before a = true := by
  by_contra hb
  rw [← Bool.not_eq_true, Exclusion.before_iff] at h
  rw [Exclusion.before_iff] at hb
  have hlow : a.low = b.low := by omega
  have hhigh : a.high = b.high := by omega
  have hmask : a.mask = b.mask := BitVec.toNat_inj.1 (by omega)
  have hkind : a.kind = b.kind := ExclusionKind.code_inj (by omega)
  cases a; cases b; simp_all

theorem insertExclusion_perm (e : Exclusion) (l : List Exclusion) : (insertExclusion e l).Perm (e :: l) := by
  induction l with
  | nil => exact .refl _
  | cons x t ih =>
    unfold insertExclusion
    split
    · exact .refl _
    · exact (ih.cons x).trans (.swap e x t)

theorem insertExclusion_sorted (e : Exclusion) (l : List Exclusion) (hl : l.Pairwise fun a b => a.before b = true)
    (hn : e ∉ l) : (insertExclusion e l).Pairwise fun a b => a.before b = true := by
  induction l with
  | nil => simp [insertExclusion]
  | cons x t ih =>
    obtain ⟨hx, ht⟩ := List.pairwise_cons.1 hl
    unfold insertExclusion
    split
    · next hb =>
      refine List.pairwise_cons.2 ⟨fun y hy => ?_, hl⟩
      rcases List.mem_cons.1 hy with rfl | hy
      · exact hb
      · exact Exclusion.before_trans hb (hx y hy)
    · next hb =>
      refine List.pairwise_cons.2 ⟨fun y hy => ?_, ih ht fun h => hn (List.mem_cons_of_mem _ h)⟩
      rcases List.mem_cons.1 ((insertExclusion_perm e t).mem_iff.1 hy) with rfl | hy
      · exact Exclusion.before_total (by simpa using hb) fun h => hn (h ▸ List.mem_cons_self)
      · exact hx y hy

/-- An inserted record keeps the rules of the list. -/
theorem Site.exclusionsOk_insert {s t : Site} {e : Exclusion} (h : s.exclusionsOk) (he : e.ok = true)
    (hn : e ∉ s.exclusions) (hlen : s.exclusions.length < 64) (ht : t.exclusions = insertExclusion e s.exclusions) :
    t.exclusionsOk := by
  obtain ⟨-, hok, hsorted⟩ := h
  have hp := insertExclusion_perm e s.exclusions
  unfold Site.exclusionsOk
  rw [ht]
  refine ⟨?_, fun x hx => ?_, insertExclusion_sorted e _ hsorted hn⟩
  · rw [hp.length_eq, List.length_cons]
    omega
  · rcases List.mem_cons.1 (hp.mem_iff.1 hx) with rfl | hx
    · exact he
    · exact hok x hx

/-- A list that loses records keeps its rules. -/
theorem Site.exclusionsOk_sublist {s t : Site} (h : s.exclusionsOk) (ht : t.exclusions.Sublist s.exclusions) :
    t.exclusionsOk :=
  ⟨ht.length_le.trans h.1, fun e he => h.2.1 e (ht.subset he), h.2.2.sublist ht⟩

/-! ### The coupling matrix (R12, R13) -/

/-- A place of a table after one place is stored. -/
theorem vector_set_get {α : Type} {n : Nat} (v : Vector α n) (i j : Fin n) (x : α) :
    (v.set i x)[j] = if j = i then x else v[j] := by
  simp only [Fin.getElem_fin, Vector.getElem_set, Fin.ext_iff, eq_comm]

theorem Site.isolation_setIsolation (s : Site) {a b : Fin 8} (hab : a ≠ b) (n : Nat) (c d : Fin 8) :
    (s.setIsolation a b n).isolation c d = if (c = a ∧ d = b) ∨ (c = b ∧ d = a) then n else s.isolation c d := by
  unfold Site.isolation Site.setIsolation
  simp only [vector_set_get]
  by_cases hca : c = a
  · subst hca
    simp only [true_and, hab, false_and, or_false, if_false, if_true, vector_set_get]
  · by_cases hcb : c = b
    · subst hcb
      simp only [true_and, hca, false_and, false_or, if_true, if_false, vector_set_get]
    · simp only [hca, hcb, false_and, or_self, if_false]

theorem Site.couplingOk_setIsolation {s : Site} (h : s.couplingOk) {a b : Fin 8} (hab : a ≠ b) {n : Nat} (hn : n ≤ 90) :
    (s.setIsolation a b n).couplingOk := by
  intro c d
  obtain ⟨hsymm, hdiag, hle⟩ := h c d
  simp only [Site.isolation_setIsolation s hab]
  refine ⟨?_, ?_, ?_⟩
  · simp only [show ((d = a ∧ c = b) ∨ (d = b ∧ c = a)) ↔ ((c = a ∧ d = b) ∨ (c = b ∧ d = a)) by tauto, hsymm]
  · rw [if_neg (by rintro (⟨rfl, h⟩ | ⟨rfl, h⟩); exacts [hab h, hab h.symm]), hdiag]
  · split <;> assumption

/-- The fields of the site that storing an isolation leaves alone. -/
theorem Site.setIsolation_fields (s : Site) (a b : Fin 8) (n : Nat) :
    s.setIsolation a b n = { s with iso := (s.setIsolation a b n).iso } := rfl

theorem Site.couple_fields (s : Site) (entries : List CouplingEntry) :
    s.couple entries = { s with iso := (s.couple entries).iso } := by
  unfold Site.couple
  induction entries generalizing s with
  | nil => rfl
  | cons e t ih => rw [List.foldl_cons, ih]; rfl

theorem Site.couplingOk_couple {s : Site} (h : s.couplingOk) (entries : List CouplingEntry)
    (hne : ∀ e ∈ entries, e.1 ≠ e.2.1) : (s.couple entries).couplingOk := by
  unfold Site.couple
  induction entries generalizing s with
  | nil => exact h
  | cons e t ih =>
    exact ih (Site.couplingOk_setIsolation h (hne e List.mem_cons_self) (min_le_left 90 e.2.2))
      fun x hx => hne x (List.mem_cons_of_mem _ hx)

theorem allPresent_eq_some {α : Type} {l : List (Option α)} {m : List α} (h : allPresent l = some m) :
    l = m.map some := by
  induction l generalizing m with
  | nil => cases h; rfl
  | cons x t ih =>
    cases x with
    | none => cases h
    | some a =>
      obtain ⟨m', hm', rfl⟩ := Option.map_eq_some_iff.1 h
      rw [ih hm', List.map_cons]

/-- The entries that SET COUPLING accepts name two different stages. -/
theorem State.couplingEntry_ne {s : State} {o : Handed} {i : Nat} {e : CouplingEntry}
    (h : s.couplingEntry o i = some e) : e.1 ≠ e.2.1 := by
  unfold State.couplingEntry at h
  split at h
  · next a b _ _ =>
    split at h
    · cases h
    · next hab => cases h; exact hab
  · cases h

theorem State.couplingEntries_ne {s : State} {o : Handed} {n : Nat} {entries : List CouplingEntry}
    (h : allPresent ((List.range n).map (s.couplingEntry o)) = some entries) : ∀ e ∈ entries, e.1 ≠ e.2.1 := by
  intro e he
  have hmem : some e ∈ (List.range n).map (s.couplingEntry o) := by
    rw [allPresent_eq_some h]
    exact List.mem_map_of_mem he
  obtain ⟨i, -, hi⟩ := List.mem_map.1 hmem
  exact State.couplingEntry_ne hi

/-! ### Spare lists that lose spares -/

/-- Each spare list has only lost spares. -/
def State.Thins (s t : State) : Prop := ∀ b : Fin 8, (t.spares[b]).Sublist s.spares[b]

theorem State.Thins.refl (s : State) : s.Thins s := fun _ => List.Sublist.refl _

theorem State.Thins.trans {s t u : State} (h : s.Thins t) (k : t.Thins u) : s.Thins u := fun b => (k b).trans (h b)

theorem State.thins_of_eq {s t : State} (h : t.spares = s.spares) : s.Thins t := by
  intro b
  rw [h]

theorem State.thins_foldl {α : Type} (f : State → α → State) (hf : ∀ (s : State) (a : α), s.Thins (f s a)) (l : List α)
    (s : State) : s.Thins (l.foldl f s) := by
  induction l generalizing s with
  | nil => exact .refl s
  | cons a t ih => exact (hf s a).trans (ih _)

theorem State.thins_recheck (s : State) (l : List (Fin 8)) : s.Thins (s.recheck l) := fun b => by
  rw [State.recheck_get]
  split
  · exact s.rechecked_sublist b
  · exact .refl _

theorem State.thins_settle (s : State) : s.Thins s.settle := s.thins_recheck allStages

theorem State.thins_added (s : State) (x : Transmitter) : s.Thins (s.added x) := by
  unfold State.added
  split
  · dsimp only
    split
    · exact State.thins_settle _
    · exact State.thins_settle _
  all_goals exact s.thins_settle

theorem State.thins_removed (s : State) (x : Transmitter) : s.Thins (s.removed x) := by
  unfold State.removed
  split
  · exact State.thins_settle _
  all_goals exact s.thins_settle

theorem State.thins_addPrimary (s : State) (c : Fin 256) (r : ChannelRecord) (h : Hold) (f : Nat) :
    s.Thins (s.addPrimary c r h f) := State.thins_added { s with plan := s.plan.setHold c h } _

theorem State.thins_removeStep (s : State) (c : Fin 256) (r : ChannelRecord) (h : Hold) (k : Bool) (f : Nat) :
    s.Thins (s.removeStep c r h k f) := State.thins_removed { s with plan := s.plan.setHold c h } _

theorem State.thins_vacate (s : State) (c : Fin 256) (r : ChannelRecord) : s.Thins (s.vacate c r) := by
  unfold State.vacate
  split
  · exact s.thins_removeStep _ _ _ _ _
  · exact .refl s

theorem State.thins_restore (s : State) (c : Fin 256) (r : ChannelRecord) : s.Thins (s.restore c r) := by
  unfold State.restore
  split
  · exact s.thins_addPrimary _ _ _ _
  · exact .refl s

theorem State.thins_takeSpare (s : State) (b : Fin 8) (f : Nat) : s.Thins (s.takeSpare b f) := fun c => by
  rw [State.takeSpare_spares]
  exact set_sublist _ _ _ _ List.eraseP_sublist

theorem State.thins_applyFound (s : State) (c : Fin 256) (r : ChannelRecord) (f : Nat) (spare : Bool) :
    s.Thins (s.applyFound c r f spare) := by
  unfold State.applyFound
  refine State.Thins.trans ?_ (State.thins_addPrimary _ _ _ _ _)
  split
  · exact s.thins_takeSpare _ _
  · exact .refl s

theorem State.thins_inStageOrder {s t : State} (u : State) (h : s.Thins t) : s.Thins (u.inStageOrder t) := h

theorem State.thins_replace (s : State) (c : Fin 256) (r : ChannelRecord) (f : Nat) (only : Bool) :
    s.Thins (s.replace c r f only).1 := by
  unfold State.replace
  dsimp only
  split
  · exact State.thins_inStageOrder _ ((s.thins_vacate c r).trans (State.thins_applyFound _ _ _ _ _))
  · exact State.thins_inStageOrder _ ((s.thins_vacate c r).trans (State.thins_restore _ _ _))

theorem State.thins_autoMove (s : State) (c : Fin 256) (f : Nat) : s.Thins (s.autoMove c f) := by
  unfold State.autoMove
  split
  · exact .refl s
  · split
    · exact (s.thins_replace c _ f false).trans (State.thins_of_eq (State.mark_spares _ _ _ _))
    · exact .refl s

theorem State.thins_clearTentative (s : State) (e : StackEntry) : s.Thins (s.clearTentative e) := by
  unfold State.clearTentative
  split
  · exact s.thins_removeStep _ _ _ _ _
  · exact .refl s

theorem State.thins_rollback (s : State) (w : PlaceWork) : s.Thins (s.rollback w) :=
  State.thins_foldl State.clearTentative State.thins_clearTentative w.stack s

theorem thins_backtrack (item : PlaceItem) (l : List StackEntry) (x : State × PlaceWork) :
    x.1.Thins (backtrack item l x).1 := by
  induction l generalizing item x with
  | nil => exact .refl _
  | cons e below ih =>
    unfold backtrack
    dsimp only
    split
    · exact (State.thins_clearTentative _ e).trans (ih _ _)
    · exact State.thins_clearTentative _ e

theorem State.thins_flush (s : State) (m : BitVec 8) : s.Thins (s.flush m) := fun b => by
  unfold State.flush
  dsimp only
  rw [mapPlaces_get]
  split
  · exact List.nil_sublist _
  · exact .refl _

theorem State.thins_dropSpares (s : State) (z : Fin 4) (j : Fin 64) : s.Thins (s.dropSpares z j) := fun b => by
  show ((mapPlaces (fun b (l : List Spare) => l.filter fun x => !(s.hitSpares z j b).contains x) s.spares)[b]).Sublist s.spares[b]
  rw [mapPlaces_get]
  exact List.filter_sublist

theorem State.thins_routeHit (s : State) (z : Fin 4) (j : Fin 64) (rise : Nat) : s.Thins (s.routeHit z j rise) := by
  unfold State.routeHit State.markHits
  refine State.Thins.trans ?_ (State.thins_dropSpares _ _ _)
  exact State.thins_foldl _ (fun s _ => State.thins_of_eq (State.mark_spares _ _ _ _)) _ s

theorem State.thins_routeHits (z : Fin 4) (l : List (Fin 64 × Option Nat)) (s : State) : s.Thins (s.routeHits z l) := by
  induction l generalizing s with
  | nil => exact .refl s
  | cons e t ih =>
    obtain ⟨j, rise⟩ := e
    cases rise with
    | none => exact ih s
    | some rise => exact (s.thins_routeHit z j rise).trans (ih _)

theorem State.thins_periodEnd (s : State) (z : Fin 4) : s.Thins (s.periodEnd z) := by
  unfold State.periodEnd State.watchPeriodEnd
  refine State.Thins.trans (t := (s.onZone z Zone.settlePeriod).freshen z) (State.thins_of_eq ?_) ?_
  · unfold State.freshen
    split <;> simp
  · exact State.thins_inStageOrder _ ((State.thins_of_eq rfl).trans (State.thins_routeHits z _ _))

theorem State.thins_sweepEnd (s : State) (z : Fin 4) (w : SweepWork) : s.Thins (s.sweepEnd z w) := by
  unfold State.sweepEnd
  extract_lets t u
  have ht : s.Thins t := State.thins_of_eq (State.onLink_spares _ _ _)
  have hu : s.Thins u := State.thins_of_eq ((State.onZone_spares _ _ _).trans (State.onLink_spares _ _ _))
  split
  · exact ht
  · split
    · exact hu.trans (State.thins_periodEnd u z)
    · exact hu

theorem State.thins_sweepFrame (s : State) (z : Fin 4) (number first : Half) (stride flags : Byte)
    (levels : List Byte) : s.Thins (s.sweepFrame z number first stride flags levels) := by
  unfold State.sweepFrame
  extract_lets f last x t
  have ht : s.Thins t := State.thins_of_eq (State.onLink_spares _ _ _)
  split
  · exact ht.trans (State.thins_sweepEnd t z x.1)
  · exact ht

/-! ### The spacing of spares (R85) -/

/-- A recheck builds its list by keeping each spare at its spacing from those kept above it. -/
theorem State.keepSpares_apart (s : State) (b : Fin 8) (r : StageRecord) (kept l : List Spare)
    (h : kept.Pairwise fun x y => s.site.spareSpacing r ≤ distance x.step y.step) :
    (s.keepSpares b r kept l).Pairwise fun x y => s.site.spareSpacing r ≤ distance x.step y.step := by
  induction l generalizing kept with
  | nil => exact h
  | cons x t ih =>
    unfold State.keepSpares
    split
    · next hk =>
      simp only [Bool.and_eq_true, List.all_eq_true, decide_eq_true_eq] at hk
      refine ih _ (List.pairwise_append.2 ⟨h, List.pairwise_singleton _ _, fun y hy z hz => ?_⟩)
      rw [List.mem_singleton.1 hz]
      exact hk.2 y hy
    · exact ih _ h

/-- Spare lists that have only lost spares keep their spacing. -/
theorem State.sparesApart_thin {s t : State} (stages : t.site.stages = s.site.stages)
    (margin : t.site.params.margin = s.site.params.margin) (h : s.Thins t) : s.sparesApart → t.sparesApart :=
  fun apart b r hr => by
    rw [margin]
    exact (apart b r (by rw [← stages]; exact hr)).sublist (h b)

/-- After a recheck of all stages the spares stand apart, however they stood before. -/
theorem State.sparesApart_recheck (s : State) : (s.recheck allStages).sparesApart := fun b r hr => by
  rw [State.recheck_get, if_pos (mem_allStages b)]
  have hr' : s.site.stages[b] = some r := hr
  unfold State.rechecked
  rw [hr']
  exact s.keepSpares_apart b r [] _ List.Pairwise.nil

theorem State.sparesApart_empty {s : State} (h : s.spares = Vector.replicate 8 []) : s.sparesApart := fun b r _ => by
  simp [h]

theorem State.sparesOk_empty {s : State} (h : s.spares = Vector.replicate 8 []) : s.sparesOk := fun b => by
  simp [h]

theorem distance_comm (a b : Nat) : distance a b = distance b a := by
  unfold distance
  omega

/-- An inserted spare is one more of the list. -/
theorem insertSpare_perm (x : Spare) (l : List Spare) : (insertSpare x l).Perm (x :: l) := by
  induction l with
  | nil => exact .refl _
  | cons y t ih =>
    unfold insertSpare
    split
    · exact .refl _
    · exact (ih.cons y).trans (.swap x y t)

/-- A spare that the fill does not pass over stands at the spacing of the profile. -/
theorem State.sparesApart_fillOne (s : State) (w : UpkeepWork) (r : StageRecord) (x : Spare)
    (hr : s.site.stages[w.stage] = some r) (h : s.sparesApart) : (s.fillOne w r x).1.sparesApart := by
  unfold State.fillOne
  dsimp only
  split
  · exact h
  · next hpass =>
    split
    · next score _ =>
      intro b r' hr'
      have hr'' : s.site.stages[b] = some r' := hr'
      by_cases hb : b = w.stage
      · subst hb
        obtain rfl : r = r' := Option.some.inj (hr.symm.trans hr'')
        have hget : (s.addSpare w.stage { step := x.step, score := score }).spares[w.stage] =
            insertSpare { step := x.step, score := score } s.spares[w.stage] := by
          simp
        rw [hget]
        have hsymm : ∀ {y z : Spare}, 2 * r.bandwidth.halfWidth + s.site.params.margin ≤ distance y.step z.step →
            2 * r.bandwidth.halfWidth + s.site.params.margin ≤ distance z.step y.step := by
          intro y z hyz
          rwa [distance_comm]
        refine ((insertSpare_perm _ _).pairwise_iff hsymm).2 (List.pairwise_cons.2 ⟨fun y hy => ?_, h _ r hr⟩)
        simp only [State.passedOver, Bool.or_eq_true, List.any_eq_true, decide_eq_true_eq, not_or, not_exists,
          not_and, not_lt] at hpass
        rw [distance_comm]
        exact (hpass.1 y hy).2
      · have hval : w.stage.val ≠ b.val := fun e => hb (Fin.ext e.symm)
        have hget : (s.addSpare w.stage { step := x.step, score := score }).spares[b] = s.spares[b] := by
          simp [hval]
        rw [hget]
        exact h b r' hr''
    · exact h

end Sys2Proof.Machine
end


section
/-! The events of the machine: every step is one of them, or passes time. An invariant that the events keep is kept by
every step (`State.Kept`). -/

namespace Sys2Proof.Machine

/-! ### What the arbiter's acts and running work do -/

/-- What takes place when the arbiter hands a context out, before the header is brought up to date. -/
def State.taken (s : State) : Grant → State
  | .takeUrgent e => s.takeEntry true e
  | .takeRoutine e => s.takeEntry false e
  | .resume w => s.resume w

theorem State.handOut_eq (s : State) (g : Grant) : s.handOut g = s.finish (s.taken g) := by
  cases g <;> rfl

/-- One step of the work that runs. -/
def State.workStep (s : State) : Work → State
  | .rebuild w => s.rebuildStep w
  | .check w => s.checkStep w
  | .place w => s.placeStep w
  | .upkeep w => s.upkeepStep w
  | .refill w => s.refillStep w
  | .single => s

/-- The machine after power is applied. -/
def State.powered (s : State) : State :=
  { State.reset with
    links := mapTable (fun l => { Link.cleared with line := l.line }) s.links
    port := Port.poweringOn s.now
    now := s.now
    free := s.free
    pending := s.pending }

/-- The machine at the end of a reset, before the header is written afresh. -/
def State.resetOver (s : State) (r : ResetRun) : State :=
  State.attempt { s with port := s.port.endReset r.kind, now := max s.now r.ends }

/-! ### Events -/

/-- The effects of the events on which the arbiter does not act. -/
inductive State.QuietEvent (s : State) : State → Prop
  | same : s.QuietEvent s
  | misuse : s.QuietEvent s.misuse
  | claim : s.QuietEvent (s.withPort s.port.claimed)
  | give {c : Nat} : s.port.reset = none → s.port.hostSide c = true →
      s.QuietEvent (State.attempt (s.withPort ((s.port.setCell c .free).leave [c])))
  | notices (raw enables : BitVec 5) : s.QuietEvent (s.withPort { s.port with raw := raw, enables := enables })
  | write (offset : Nat) (data : List Byte) :
      s.QuietEvent (s.withPort { s.port with memory := s.port.memory.hostWrite offset data })
  | frame (z : Fin 4) : s.QuietEvent (s.validFrame z)
  | crcError (z : Fin 4) : s.QuietEvent (s.onLink z fun l =>
      { l.damage with receiver := [], crcErrors := min (l.crcErrors + 1) 255 })
  | formatError (z : Fin 4) : s.QuietEvent (s.formatErrorOn z)
  | timeout {z : Fin 4} {t : Nat} : s.timeoutAt z = some t →
      s.QuietEvent (State.goStale { s with now := max s.now t } z)
  | move {c : Fin 256} {f g e : Nat} : s.hold c = some (.moving f g e) →
      s.QuietEvent ((State.setHold { s with now := max s.now e } c (.unresolved f g)).mark (.channel c)
        unresolvedFlag)
  | soft (run auto : Bool) :
      (s.port.reset.map ResetRun.kind = none ∨ s.port.reset.map ResetRun.kind = some .exchange) →
      s.QuietEvent (s.beginSoft run auto)

/-- The effects of the events on which the arbiter acts (R134). -/
inductive State.OpenEvent (s : State) : State → Prop
  | take {g : Grant} : s.arbiter = some g → s.OpenEvent (s.taken g)
  | work {w : Work} : s.running = some w → s.OpenEvent (s.workStep w)
  | sweep (z : Fin 4) (number first : Half) (stride flags : Byte) (levels : List Byte) :
      s.OpenEvent ((s.validFrame z).sweepFrame z number first stride flags levels)
  | answer (z : Fin 4) (probeId level : Byte) : s.OpenEvent ((s.validFrame z).answer z probeId level)
  | deadline {z : Fin 4} {w : ProbeWork} : s.links[z].slot = some w →
      s.OpenEvent (State.endProbe { s with now := max s.now w.deadline } z w .failed .noAnswer none)
  | accept {n : Nat} {o : Handed} : s.port.reset = none → s.port.hostSide n = true → s.port.handed n = .ok o →
      s.OpenEvent (s.accept o)
  | turnAway {n : Nat} {r : Reason} : s.port.reset = none → s.port.hostSide n = true →
      s.port.handed n = .error r → s.OpenEvent (s.turnAway n r)
  | switch (run auto : Bool) : s.port.reset = none → s.OpenEvent (s.withPort (s.port.switches run auto))
  | exchange (run auto : Bool) : s.port.reset = none → s.OpenEvent (s.beginExchange run auto)

/-- What a command comes to: nothing, an event, an event with the arbiter's acts, or the beginning or the end of a
reset. -/
inductive State.Outcomes (s : State) : State → Prop
  | nothing : s.Outcomes s
  | quiet {a : State} : s.QuietEvent a → s.Outcomes (s.finish a)
  | acts {a : State} : s.OpenEvent a → s.Outcomes (s.finish a).arbitrate
  | powered : s.Outcomes s.powered
  | resetEnd {r : ResetRun} : s.port.reset = some r → s.Outcomes (s.resetOver r).finishReset

/-! ### Commands -/

theorem exec_command (code : OrderCode) (s : State) :
    exec code.command s = .next (s.takeUp code code.procedure) := by
  cases code <;> rfl

theorem State.takeUp_none {s : State} {code : OrderCode} (p : Handed → State → State) (h : s.granted code = none) :
    s.takeUp code p = s := by
  unfold State.takeUp
  rw [h]

/-- A take-up is what the arbiter hands out, with the arbiter's further acts. -/
theorem State.takeUp_handOut {s : State} {code : OrderCode} {x : Bool × Handed} (h : s.granted code = some x) :
    ∃ g, s.arbiter = some g ∧ s.takeUp code code.procedure = (s.handOut g).arbitrate := by
  obtain ⟨g, hg, hs⟩ := State.handOut_order (u := x.1) (o := x.2) h
  exact ⟨g, hg, by rw [State.takeUp_eq code.procedure (u := x.1) (o := x.2) h, hs]⟩

theorem State.outcomes_takeUp (s : State) (code : OrderCode) : s.Outcomes (s.takeUp code code.procedure) := by
  cases h : s.granted code with
  | none =>
    rw [State.takeUp_none _ h]
    exact .nothing
  | some x =>
    obtain ⟨g, hg, hs⟩ := State.takeUp_handOut h
    rw [hs, State.handOut_eq]
    exact .acts (.take hg)

theorem State.outcomes_handOut {s : State} {g : Grant} (h : s.arbiter = some g) :
    s.Outcomes (s.handOut g).arbitrate := by
  rw [State.handOut_eq]
  exact .acts (.take h)

/-- The routine context runs after a resumption. -/
theorem State.resume_running (s : State) (w : Work) :
    ∃ v, (s.resume w).engine = { s.engine with routineContext := .running v } := by
  cases w with
  | rebuild w =>
    simp only [State.resume]
    split
    · exact ⟨_, rfl⟩
    · exact ⟨_, rfl⟩
  | single => exact ⟨_, rfl⟩
  | place w => exact ⟨_, rfl⟩
  | check w => exact ⟨_, rfl⟩
  | upkeep w => exact ⟨_, rfl⟩
  | refill w => exact ⟨_, rfl⟩

/-- A resumption is the last of the arbiter's acts. -/
theorem State.arbitrate_resume (s : State) (w : Work) :
    (s.handOut (.resume w)).arbitrate = s.handOut (.resume w) := by
  obtain ⟨v, hv⟩ := s.resume_running w
  exact State.arbitrate_none (State.arbiter_running (w := v) (by
    show (s.resume w).engine.routineContext = _
    rw [hv]))

theorem State.outcomes_ctlWrite (s : State) (run auto : Bool) : s.Outcomes (s.ctlWrite run auto) := by
  unfold State.ctlWrite
  split
  · next h => exact .acts (.switch run auto (Option.map_eq_none_iff.1 h))
  · exact .quiet .same
  · exact .quiet .misuse
  · exact .quiet .misuse

theorem State.outcomes_hand (s : State) (n : Nat) (hr : s.port.reset = none) : s.Outcomes (s.handIn n) := by
  unfold State.handIn
  split
  · exact .quiet .misuse
  · next h =>
    have hn : s.port.hostSide n = true := by simpa using h
    split
    · next o ho => exact .acts (.accept hr hn ho)
    · next r ho => exact .acts (.turnAway hr hn ho)

theorem State.outcomes_give (s : State) (n : Nat) (hr : s.port.reset = none) :
    s.Outcomes (s.finish (s.giveBack n)) := by
  unfold State.giveBack
  split
  · next h => exact .quiet (.give hr h)
  · exact .quiet .misuse

/-- Every command comes to one of the outcomes. -/
theorem State.outcomes_exec {s t : State} {c : Instr} (h : exec c s = .next t) : s.Outcomes t := by
  have hcode : ∀ code : OrderCode, exec code.command s = .next t → s.Outcomes t := fun code h => by
    rw [exec_command] at h
    cases h
    exact s.outcomes_takeUp code
  have hnext : ∀ {a b : State}, s.Outcomes a →
      (Host.Outcome.next a : Host.Outcome State Fault Refusal) = .next b → s.Outcomes b :=
    fun ha hb => by cases hb; exact ha
  cases c with
  | setParameters => exact hcode .setParameters h
  | defineStage => exact hcode .defineStage h
  | setCoupling => exact hcode .setCoupling h
  | addExclusion => exact hcode .addExclusion h
  | dropExclusion => exact hcode .dropExclusion h
  | defineChannel => exact hcode .defineChannel h
  | retireChannel => exact hcode .retireChannel h
  | markLive => exact hcode .markLive h
  | markIdle => exact hcode .markIdle h
  | release => exact hcode .release h
  | confirmMove => exact hcode .confirmMove h
  | declineMove => exact hcode .declineMove h
  | readChannels => exact hcode .readChannels h
  | rebuildCensus => exact hcode .rebuildCensus h
  | readCensus => exact hcode .readCensus h
  | checkList => exact hcode .checkList h
  | place => exact hcode .place h
  | pin => exact hcode .pin h
  | replace => exact hcode .replace h
  | refillSpares => exact hcode .refillSpares h
  | readSpares => exact hcode .readSpares h
  | setZone => exact hcode .setZone h
  | probe => exact hcode .probe h
  | readSpectrum => exact hcode .readSpectrum h
  | readLinks => exact hcode .readLinks h
  | armWatch => exact hcode .armWatch h
  | forceHit => exact hcode .forceHit h
  | readWatch => exact hcode .readWatch h
  | cancel => exact hcode .cancel h
  | rebuild =>
    change execRebuild s = .next t at h
    unfold execRebuild at h
    split at h
    · next hg => exact hnext (State.outcomes_handOut hg) h
    · exact hnext .nothing h
  | autoMove =>
    change execAutoMove s = .next t at h
    unfold execAutoMove at h
    split at h
    · next hg => exact hnext (State.outcomes_handOut hg) h
    · exact hnext .nothing h
  | upkeep =>
    change execUpkeep s = .next t at h
    unfold execUpkeep at h
    split at h
    · next hg => exact hnext (State.outcomes_handOut hg) h
    · exact hnext .nothing h
  | resumption =>
    change execResumption s = .next t at h
    unfold execResumption at h
    split at h
    · next w hg => exact hnext (s.arbitrate_resume w ▸ State.outcomes_handOut hg) h
    · exact hnext .nothing h
  | rebuildStep =>
    change execRebuildStep s = .next t at h
    unfold execRebuildStep at h
    split at h
    · next w hw => exact hnext (.acts (.work hw)) h
    · exact hnext .nothing h
  | checkListEntry =>
    change execCheckListEntry s = .next t at h
    unfold execCheckListEntry at h
    split at h
    · next w hw => exact hnext (.acts (.work hw)) h
    · exact hnext .nothing h
  | placeStep =>
    change execPlaceStep s = .next t at h
    unfold execPlaceStep at h
    split at h
    · next w hw => exact hnext (.acts (.work hw)) h
    · exact hnext .nothing h
  | upkeepStep =>
    change execUpkeepStep s = .next t at h
    unfold execUpkeepStep at h
    split at h
    · next w hw => exact hnext (.acts (.work hw)) h
    · exact hnext .nothing h
  | refillSparesStep =>
    change execRefillSparesStep s = .next t at h
    unfold execRefillSparesStep at h
    split at h
    · next w hw => exact hnext (.acts (.work hw)) h
    · exact hnext .nothing h
  | probeDeadline z =>
    change execProbeDeadline z s = .next t at h
    unfold execProbeDeadline at h
    split at h
    · exact hnext .nothing h
    · next w hw => exact hnext (.acts (.deadline hw)) h
  | claim => exact hnext (.quiet .claim) h
  | hand v =>
    change execHand v s = .next t at h
    unfold execHand at h
    split at h
    · exact hnext (.quiet .misuse) h
    · next hr => exact hnext (s.outcomes_hand _ (by simpa using hr)) h
  | give v =>
    change execGive v s = .next t at h
    unfold execGive at h
    split at h
    · exact hnext (.quiet .misuse) h
    · next hr => exact hnext (s.outcomes_give _ (by simpa using hr)) h
  | fault r v => exact hnext (.quiet .misuse) h
  | note v => exact hnext (.quiet (.notices _ s.port.enables)) h
  | noteOn v => exact hnext (.quiet (.notices s.port.raw _)) h
  | noteOff v => exact hnext (.quiet (.notices s.port.raw _)) h
  | ctlRun run auto => exact hnext (s.outcomes_ctlWrite run auto) h
  | ctlAuto run auto => exact hnext (s.outcomes_ctlWrite run auto) h
  | softReset run auto x =>
    change execSoftReset run auto x s = .next t at h
    unfold execSoftReset at h
    split at h
    · next hr => exact hnext (.quiet (.soft run auto (.inl hr))) h
    · next hr => exact hnext (.quiet (.soft run auto (.inr hr))) h
    · exact hnext (.quiet .misuse) h
    · exact hnext .nothing h
  | exchangeReset run auto =>
    change execExchangeReset run auto s = .next t at h
    unfold execExchangeReset at h
    split at h
    · next hr => exact hnext (.acts (.exchange run auto (Option.map_eq_none_iff.1 hr))) h
    · exact hnext (.quiet .misuse) h
    · exact hnext (.quiet .misuse) h
    · exact hnext .nothing h
  | powerOnReset => exact hnext .powered h
  | resetEnd =>
    change execResetEnd s = .next t at h
    unfold execResetEnd at h
    split at h
    · exact hnext .nothing h
    · next r hr => exact hnext (.resetEnd hr) h
  | sweep z number first stride flags levels =>
    change execSweep z number first stride flags levels s = .next t at h
    unfold execSweep at h
    split at h
    · exact hnext (.acts (.sweep z number first stride flags levels)) h
    · exact hnext (.quiet (.formatError z)) h
  | probeAnswer z i l => exact hnext (.acts (.answer z i l)) h
  | idle z => exact hnext (.quiet (.frame z)) h
  | crcError z => exact hnext (.quiet (.crcError z)) h
  | formatError z => exact hnext (.quiet (.formatError z)) h
  | linkTimeout z =>
    change execLinkTimeout z s = .next t at h
    unfold execLinkTimeout at h
    split at h
    · exact hnext .nothing h
    · next t ht => exact hnext (.quiet (.timeout ht)) h
  | moveTimerExpiry c =>
    change execMoveTimerExpiry c s = .next t at h
    unfold execMoveTimerExpiry at h
    split at h
    · next f g e he => exact hnext (.quiet (.move he)) h
    · exact hnext .nothing h
  | hostCellWrite a l =>
    change execHostCellWrite a l s = .next t at h
    unfold execHostCellWrite at h
    split at h
    · exact hnext (.quiet (.write _ _)) h
    · exact hnext .nothing h

/-! ### Invariants -/

/-- A property that the outcome of every command keeps, and that depends neither on the queue nor on the clock nor on the
bytes on the lines. -/
structure State.Steady (P : State → Prop) : Prop where
  pending : ∀ (s : State) (l : List Instr), P s → P { s with pending := l }
  idle : ∀ s : State, P s → P s.idle
  byte : ∀ (s : State) (z : Fin 4) (b : Byte) (l : List Byte), P s → P (s.takeByte z b l)
  receiver : ∀ (s : State) (z : Fin 4) (l : List Byte), P s → P (s.withReceiver z l)
  outcomes : ∀ s t : State, s.Outcomes t → P s → P t

theorem State.Steady.exec {P : State → Prop} (k : State.Steady P) {s t : State} {c : Instr} (hs : P s)
    (h : exec c s = .next t) : P t :=
  k.outcomes s t (State.outcomes_exec h) hs

theorem State.Steady.stepByte {P : State → Prop} (k : State.Steady P) {s t : State} {z : Fin 4} {b : Byte}
    {l : List Byte} (hs : P s) (h : stepByte z b l s = .next t) : P t := by
  unfold Machine.stepByte at h
  dsimp only at h
  split at h
  · cases h
    exact k.byte s z b l hs
  · next c after hc =>
    split at h
    · next u hu =>
      cases h
      exact k.receiver u z after (k.exec (k.byte s z b l hs) hu)
    · cases h
    · cases h

/-- A property that the outcome of every command keeps is kept by every step. -/
theorem State.Steady.step {P : State → Prop} (k : State.Steady P) {s t : State} (hs : P s) (h : step s = .next t) :
    P t := by
  unfold Machine.step at h
  split at h
  · exact k.exec (k.pending s _ hs) h
  · unfold tick at h
    split at h
    · exact k.exec hs h
    · split at h
      · exact k.stepByte hs h
      · cases h
        exact k.idle s hs

/-- A property that every event keeps. -/
structure State.Kept (P : State → Prop) : Prop where
  pending : ∀ (s : State) (l : List Instr), P s → P { s with pending := l }
  idle : ∀ s : State, P s → P s.idle
  byte : ∀ (s : State) (z : Fin 4) (b : Byte) (l : List Byte), P s → P (s.takeByte z b l)
  receiver : ∀ (s : State) (z : Fin 4) (l : List Byte), P s → P (s.withReceiver z l)
  quiet : ∀ s a : State, s.QuietEvent a → P s → P (s.finish a)
  acts : ∀ s a : State, s.OpenEvent a → P s → P (s.finish a)
  powered : ∀ s : State, P s → P s.powered
  resetEnd : ∀ (s : State) (r : ResetRun), s.port.reset = some r → P s → P (s.resetOver r).finishReset

theorem State.Kept.handOut {P : State → Prop} (k : State.Kept P) {s : State} {g : Grant} (hs : P s)
    (hg : s.arbiter = some g) : P (s.handOut g) := by
  rw [State.handOut_eq]
  exact k.acts s _ (.take hg) hs

theorem State.Kept.arbitrate {P : State → Prop} (k : State.Kept P) {s : State} (hs : P s) : P s.arbitrate :=
  State.arbitrate_induct (fun _ _ ht hg => k.handOut ht hg) s hs

theorem State.Kept.outcomes {P : State → Prop} (k : State.Kept P) {s t : State} (h : s.Outcomes t) (hs : P s) :
    P t := by
  cases h with
  | nothing => exact hs
  | quiet ha => exact k.quiet s _ ha hs
  | acts ha => exact k.arbitrate (k.acts s _ ha hs)
  | powered => exact k.powered s hs
  | resetEnd hr => exact k.resetEnd s _ hr hs

/-- An invariant that every event keeps, with what the arbiter does after it, is kept by every step. -/
theorem State.Kept.step {P : State → Prop} (k : State.Kept P) {s t : State} (hs : P s) (h : step s = .next t) : P t :=
  State.Steady.step ⟨k.pending, k.idle, k.byte, k.receiver, fun _ _ => k.outcomes⟩ hs h

end Sys2Proof.Machine
end


section
/-! What every event keeps of the invariants of single blocks (`State.Fares`), order by order and event by event. -/

namespace Sys2Proof.Machine

/-- The invariants of single blocks go over from one state to another, and a power-on reset in progress goes on. -/
structure State.Fares (s t : State) : Prop where
  power : s.port.reset.map ResetRun.kind = some .powerOn → t.port.reset.map ResetRun.kind = some .powerOn
  memory : s.memoryOk → t.memoryOk
  planes : s.census.planesOk → t.census.planesOk
  maps : s.mapsOk → t.mapsOk
  cause : s.census.causeOk → t.census.causeOk
  subjects : s.reports.subjectsOnce → t.reports.subjectsOnce
  site : s.site.sound → t.site.sound
  spares : s.sparesOk → t.sparesOk
  apart : s.sparesApart → t.sparesApart

theorem Census.planesOk_empty {c : Census} (h3 : c.plane3 = Vector.replicate 8 [])
    (h5 : c.plane5 = Vector.replicate 8 []) : c.planesOk := by
  refine ⟨fun b => by simp [h3, h5, sparseOk], fun i => ?_⟩
  unfold Census.count
  split <;> simp [h3, h5, sparseGet]

theorem Census.causeOk_cleared : Census.cleared.causeOk := ⟨fun _ => rfl, nofun⟩

/-! ### DEFINE STAGE -/

theorem State.storeStage_site (s : State) (b : Fin 8) (r : StageRecord) :
    (s.storeStage b r).site = (s.site.setStage b r).bump := by
  unfold State.storeStage
  dsimp only
  split <;> rfl

theorem State.storeStage_target (s : State) (b : Fin 8) (r : StageRecord) (c : Fin 8) :
    (s.storeStage b r).site.target c = if c = b then r.target else s.site.target c := by
  rw [State.storeStage_site]
  show ((((s.site.stages.set b (some r))[c]).map StageRecord.target).getD 0) = _
  rw [vector_set_get]
  split <;> rfl

theorem State.storeStage_spares (s : State) (b : Fin 8) (r : StageRecord) (c : Fin 8) :
    (s.storeStage b r).spares[c] =
      if c = b ∧ spareFieldsChange s.site.stages[b] r = true then spareListAfter s.site.stages[b] r s.spares[b]
      else s.spares[c] := by
  unfold State.storeStage
  dsimp only
  by_cases hchange : spareFieldsChange s.site.stages[b] r = true
  · simp only [hchange, if_true, State.queueUpkeep_spares, vector_set_get, and_true]
  · simp only [hchange, if_false, and_false, Bool.false_eq_true]

theorem spareListAfter_sublist (old : Option StageRecord) (r : StageRecord) (l : List Spare) :
    (spareListAfter old r l).Sublist l := by
  unfold spareListAfter
  split
  · split
    · exact List.take_sublist _ _
    · exact List.nil_sublist _
  · exact List.nil_sublist _

theorem State.storeStage_sublist (s : State) (b : Fin 8) (r : StageRecord) : s.Thins (s.storeStage b r) := fun c => by
  rw [State.storeStage_spares]
  split
  · next h =>
    obtain ⟨rfl, -⟩ := h
    exact spareListAfter_sublist _ _ _
  · exact .refl _

/-- The list of the stage stays within its new target. -/
theorem State.storeStage_length (s : State) (b : Fin 8) (r : StageRecord)
    (h : (s.spares[b]).length ≤ s.site.target b) : ((s.storeStage b r).spares[b]).length ≤ r.target := by
  rw [State.storeStage_spares]
  unfold Site.target at h
  cases hold : s.site.stages[b] with
  | none => simp [spareFieldsChange, spareListAfter]
  | some old =>
    rw [hold] at h
    simp only [true_and, spareFieldsChange, spareListAfter, Bool.or_eq_true, Bool.not_eq_eq_eq_not, Bool.not_true,
      decide_eq_true_eq]
    by_cases hp : old.sameProfile r = true
    · by_cases ht : old.target = r.target
      · simpa [hp, ht] using h
      · simp [hp, ht]
    · simp [hp]

/-- A list that is not emptied is one of the same profile. -/
theorem State.storeStage_kept (s : State) (b : Fin 8) (r : StageRecord) :
    (s.storeStage b r).spares[b] = [] ∨ ∃ old, s.site.stages[b] = some old ∧ old.bandwidth = r.bandwidth := by
  rw [State.storeStage_spares]
  cases hold : s.site.stages[b] with
  | none => simp [spareFieldsChange, spareListAfter]
  | some old =>
    by_cases hp : old.sameProfile r = true
    · simp only [StageRecord.sameProfile, decide_eq_true_eq] at hp
      obtain ⟨-, -, -, hb⟩ := hp
      exact .inr ⟨old, rfl, hb⟩
    · exact .inl (by simp [spareFieldsChange, spareListAfter, hp])

namespace State.Fares

theorem refl (s : State) : s.Fares s := ⟨id, id, id, id, id, id, id, id, id⟩

theorem trans {s t u : State} (h : s.Fares t) (k : t.Fares u) : s.Fares u :=
  ⟨k.power ∘ h.power, k.memory ∘ h.memory, k.planes ∘ h.planes, k.maps ∘ h.maps, k.cause ∘ h.cause,
    k.subjects ∘ h.subjects, k.site ∘ h.site, k.spares ∘ h.spares, k.apart ∘ h.apart⟩

/-- Where the spare lists have only lost spares and the site model is the same, the spacing is kept as well. -/
theorem of_holds {s t : State} (h : s.Holds t) (k : s.Thins t) : s.Fares t where
  power := by
    obtain ⟨hreset, -⟩ := h.port
    rw [hreset]
    exact id
  memory := fun ⟨wf, out, held⟩ => ⟨h.port.wf wf, h.port.out out, h.port.held held⟩
  planes := h.planes
  maps := h.maps
  cause := h.cause
  subjects := h.subjects
  site := by rw [h.site]; exact id
  spares := h.spares
  apart := State.sparesApart_thin (by rw [h.site]) (by rw [h.site]) k

theorem of_keeps {s t : State} (h : s.Keeps t) (k : s.Thins t) : s.Fares t := of_holds h.holds k

/-- An update of the engine, the plan, the links, the clock, the queue or the free values alone. -/
theorem of_eq {s t : State} (site : t.site = s.site) (port : t.port = s.port) (reports : t.reports = s.reports)
    (census : t.census = s.census) (zones : t.zones = s.zones) (spares : t.spares = s.spares) : s.Fares t := by
  refine ⟨?_, ?_, ?_, ?_, ?_, ?_, ?_, ?_, ?_⟩
  · rw [port]; exact id
  · unfold State.memoryOk; rw [port]; exact id
  · rw [census]; exact id
  · unfold State.mapsOk; rw [zones]; exact id
  · rw [census]; exact id
  · rw [reports]; exact id
  · rw [site]; exact id
  · unfold State.sparesOk; rw [spares, site]; exact id
  · unfold State.sparesApart; rw [spares, site]; exact id

/-! ### The ends of orders -/

theorem begin (s : State) (u : Bool) (o : Handed) : s.Fares (s.begin u o) :=
  of_holds (s.holds_begin u o) (State.thins_of_eq rfl)

theorem beginEntry (s : State) (u : Bool) : s.Fares (s.beginEntry u) := of_eq rfl rfl rfl rfl rfl rfl

theorem release {s t : State} (h : s.Fares t) : s.Fares t.release := h.trans (of_eq rfl rfl rfl rfl rfl rfl)

theorem draw {s t : State} (h : s.Fares t) (n : Nat) : s.Fares (t.draw n) := h.trans (of_eq rfl rfl rfl rfl rfl rfl)

theorem runWith {s t : State} (h : s.Fares t) (w : Work) : s.Fares (t.runWith w) :=
  h.trans (of_eq rfl rfl rfl rfl rfl rfl)

theorem yieldWith {s t : State} (h : s.Fares t) (w : Work) : s.Fares (t.yieldWith w) :=
  h.trans (of_eq rfl rfl rfl rfl rfl rfl)

theorem idleRoutine {s t : State} (h : s.Fares t) : s.Fares t.idleRoutine := h.trans (of_eq rfl rfl rfl rfl rfl rfl)

theorem close {s t : State} (h : s.Fares t) (o : Handed) (x : OrderOutcome) (r : Reason) (a : Word)
    (l : List (List Byte)) : s.Fares (t.close o x r a l) :=
  h.trans (of_holds (t.holds_close o x r a l) (State.thins_of_eq (State.close_spares _ _ _ _ _ _)))

theorem conclude {s t : State} (h : s.Fares t) (o : Handed) (x : OrderOutcome) (r : Reason) (a : Word)
    (l : List (List Byte)) : s.Fares (t.conclude o x r a l) := (h.close o x r a l).release

theorem done {s t : State} (h : s.Fares t) (o : Handed) (a : Word) (l : List Byte) : s.Fares (t.done o a l) :=
  h.conclude o .done .none a [l]

theorem refuse (s : State) (o : Handed) (r : Reason) : s.Fares (s.refuse o r) :=
  (refl s).conclude o .refused r 0 []

theorem doneOrShort {s t : State} (h : s.Fares t) (o : Handed) (short : Bool) (a : Word) (l : List (List Byte)) :
    s.Fares (t.doneOrShort o short a l) := by
  unfold State.doneOrShort
  split
  · exact h.conclude _ _ _ _ _
  · exact h.conclude _ _ _ _ _

theorem mark {s t : State} (h : s.Fares t) (x : Subject) (f : Byte) (k : Option (Nat × Nat) := none) :
    s.Fares (t.mark x f k) :=
  h.trans (of_keeps (t.keeps_mark x f k) (State.thins_of_eq (State.mark_spares _ _ _ _)))

theorem attempt {s t : State} (h : s.Fares t) : s.Fares t.attempt :=
  h.trans (of_keeps t.keeps_attempt (State.thins_of_eq (State.attempt_spares _)))

theorem plan {s t : State} (h : s.Fares t) (p : Plan) : s.Fares { t with plan := p } :=
  h.trans (of_eq rfl rfl rfl rfl rfl rfl)

theorem recheck {s t : State} (h : s.Fares t) (l : List (Fin 8)) : s.Fares (t.recheck l) :=
  h.trans (of_keeps (t.keeps_recheck l) (t.thins_recheck l))

theorem stale {s t : State} (h : s.Fares t) {k : CensusCause} (hk : k ≠ .none) : s.Fares (t.stale k) :=
  h.trans (of_keeps (t.keeps_stale k hk) (State.thins_of_eq (State.stale_spares _ _)))

theorem inStageOrder {s t : State} (u : State) (h : s.Fares t) : s.Fares (u.inStageOrder t) :=
  h.trans (of_eq rfl rfl rfl rfl rfl rfl)

theorem removeStep {s t : State} (h : s.Fares t) (c : Fin 256) (r : ChannelRecord) (x : Hold) (k : Bool) (f : Nat) :
    s.Fares (t.removeStep c r x k f) :=
  h.trans (of_keeps (t.keeps_removeStep c r x k f) (t.thins_removeStep c r x k f))

theorem addPrimary {s t : State} (h : s.Fares t) (c : Fin 256) (r : ChannelRecord) (x : Hold) (f : Nat) :
    s.Fares (t.addPrimary c r x f) :=
  h.trans (of_keeps (t.keeps_addPrimary c r x f) (t.thins_addPrimary c r x f))

/-! ### The site orders -/

/-- A window change empties the planes, the spare lists and the maps. -/
theorem holds_windowChanged (s : State) : s.Holds s.windowChanged where
  site := rfl
  now := rfl
  pending := rfl
  port := Port.Keeps.refl _
  subjects := id
  cause := fun _ => Census.causeOk_cleared
  planes := fun _ => Census.planesOk_empty rfl rfl
  maps := fun _ y => by
    obtain ⟨hmap, -⟩ := s.windowChanged_zone y
    rw [hmap]
    rfl
  spares := fun _ => State.sparesOk_empty rfl

/-- An effect that comes about under a condition. -/
theorem holds_ite {s t u : State} {p : Prop} [Decidable p] (h : s.Holds t) (k : t.Holds u) :
    s.Holds (if p then u else t) := by
  split
  · exact h.trans k
  · exact h

/-- What follows the storing of the parameters leaves the invariants that do not speak of the margin. -/
theorem holds_storeParameters (s : State) (w : Window) (p : Params) :
    State.Holds { s with site := s.site.store w p } (s.storeParameters w p) :=
  holds_ite (holds_ite (holds_ite (holds_ite (State.Keeps.refl _).holds (holds_windowChanged _))
    (State.modelChanged_keeps _).holds) (State.keeps_attempt _).holds) (foldl_timeout_keeps allZones _).holds

/-- What the four effects leave of the spare lists: rechecked where a check parameter changed, otherwise emptied or as they
were. -/
theorem apart_storeParameters {s : State} (w : Window) (p : Params) (h : s.sparesApart) :
    (s.storeParameters w p).sparesApart := by
  have hattempt : ∀ {t : State} (q : Prop) [Decidable q], t.sparesApart →
      State.sparesApart (if q then t.attempt else t) := fun q _ ht => by
    split
    · exact State.sparesApart_thin rfl rfl (State.thins_of_eq (State.attempt_spares _)) ht
    · exact ht
  have hlowered : ∀ {t : State} (q : Prop) [Decidable q], t.sparesApart →
      State.sparesApart (if q then t.timeoutLowered else t) := fun {t} q _ ht => by
    split
    · obtain ⟨-, -, -, hspares⟩ := t.timeoutLowered_same
      have hsite : t.timeoutLowered.site = t.site := (foldl_timeout_keeps allZones t).site
      exact State.sparesApart_thin (by rw [hsite]) (by rw [hsite]) (State.thins_of_eq hspares) ht
    · exact ht
  refine hlowered _ (hattempt _ ?_)
  split
  · exact State.sparesApart_recheck _
  · next hsame =>
    split
    · exact State.sparesApart_empty rfl
    · have hmargin : p.margin = s.site.params.margin := by
        simp only [Params.checkChange, decide_eq_true_eq, not_or, not_not] at hsame
        obtain ⟨-, -, hm, -⟩ := hsame
        exact hm.symm
      exact State.sparesApart_thin (s := s) rfl hmargin (.refl s) h

theorem storeParameters (s : State) {w : Window} {p : Params} (hw : w.ok = true) (hp : p.ok) :
    s.Fares (s.storeParameters w p) := by
  have k := holds_storeParameters s w p
  refine ⟨?_, fun ⟨wf, out, held⟩ => ⟨k.port.wf wf, k.port.out out, k.port.held held⟩, k.planes, k.maps, k.cause,
    k.subjects, fun ⟨_, _, hc, he⟩ => ?_, k.spares, apart_storeParameters w p⟩
  · obtain ⟨hreset, -⟩ := k.port
    rw [hreset]
    exact id
  · rw [k.site]
    exact ⟨hw, hp, hc, he⟩

theorem setParametersOrder (o : Handed) (s : State) : s.Fares (setParametersOrder o s) := by
  unfold Machine.setParametersOrder
  dsimp only
  split
  · exact refuse s o _
  · next hw =>
    split
    · exact refuse s o _
    · next hl =>
      split
      · exact refuse s o _
      · exact (storeParameters s (by simpa using hw)
          (Params.clamped_ok _ (by omega) (by omega))).done o _ _

/-- The list of a stage whose record changes stays in its order, within the new target and spaced for the new profile. -/
theorem storeStage (s : State) (b : Fin 8) (r : StageRecord) : s.Fares (s.storeStage b r) := by
  have hk : State.Holds s { s.storeStage b r with site := s.site, spares := s.spares } := by
    unfold State.storeStage
    dsimp only
    split <;> exact State.holds_of_eq rfl rfl rfl (Port.Keeps.refl _) rfl rfl rfl rfl
  refine ⟨?_, fun ⟨wf, out, held⟩ => ⟨hk.port.wf wf, hk.port.out out, hk.port.held held⟩, hk.planes, hk.maps, hk.cause,
    hk.subjects, fun h => ?_, fun h c => ?_, fun h c q hq => ?_⟩
  · obtain ⟨hreset, -⟩ := hk.port
    exact fun h => by
      rw [← h]
      exact congrArg _ hreset
  · rw [State.storeStage_site]
    exact h
  · obtain ⟨hsorted, hlen⟩ := h c
    rw [State.storeStage_target]
    have hsub := s.storeStage_sublist b r c
    refine ⟨hsorted.sublist hsub, ?_⟩
    split
    · next hc => subst hc; exact s.storeStage_length _ r hlen
    · exact hsub.length_le.trans hlen
  · rw [State.storeStage_site] at hq ⊢
    by_cases hc : c = b
    · subst hc
      obtain rfl : q = r := by
        rw [show (s.site.setStage c r).bump.stages[c] = some r from (vector_set_get _ c c _).trans (if_pos rfl)] at hq
        exact (Option.some.inj hq).symm
      rcases s.storeStage_kept c q with hnil | ⟨old, hold, hprofile⟩
      · rw [hnil]
        exact List.Pairwise.nil
      · rw [← hprofile]
        exact (h c old hold).sublist (s.storeStage_sublist c q c)
    · rw [show (s.site.setStage b r).bump.stages[c] = s.site.stages[c] from
        (vector_set_get _ b c _).trans (if_neg hc)] at hq
      exact (h c q hq).sublist (s.storeStage_sublist b r c)

/-- A site model that differs in its exclusion list alone. -/
theorem exclusions (s : State) (l : List Exclusion)
    (hl : s.site.exclusionsOk → Site.exclusionsOk { s.site with exclusions := l }) :
    s.Fares { s with site := { s.site with exclusions := l }.bump } :=
  ⟨id, id, id, id, id, id, fun ⟨hw, hp, hc, he⟩ => ⟨hw, hp, hc, hl he⟩, id, id⟩

theorem addExclusionRecord (s : State) {e : Exclusion} (he : e.ok = true) (hn : e ∉ s.site.exclusions)
    (hlen : s.site.exclusions.length < 64) : s.Fares (s.addExclusionRecord e) := by
  refine (trans (exclusions s _ fun h => Site.exclusionsOk_insert h he hn hlen rfl) ?_).recheck _
  exact of_keeps (State.keeps_foldl _ (fun t c => t.keeps_mark _ _ _) _ _)
    (State.thins_foldl _ (fun t c => State.thins_of_eq (State.mark_spares _ _ _ _)) _ _)

theorem couple (s : State) (entries : List CouplingEntry) (hne : ∀ e ∈ entries, e.1 ≠ e.2.1) :
    s.Fares (State.modelChanged { s with site := (s.site.couple entries).bump }) := by
  refine trans (t := { s with site := (s.site.couple entries).bump }) ?_ ?_
  · refine ⟨id, id, id, id, id, id, fun ⟨hw, hp, hc, he⟩ => ?_, ?_, ?_⟩
    · rw [Site.couple_fields]
      exact ⟨hw, hp, Site.couplingOk_couple hc entries hne, he⟩
    · unfold State.sparesOk
      rw [Site.couple_fields]
      exact id
    · unfold State.sparesApart
      rw [Site.couple_fields]
      exact id
  · refine of_keeps (State.modelChanged_keeps _) ?_
    unfold State.modelChanged
    refine State.Thins.trans ?_ (State.thins_recheck _ _)
    split
    · exact State.thins_of_eq (by simp)
    · exact .refl _

theorem defineStageOrder (o : Handed) (s : State) : s.Fares (defineStageOrder o s) := by
  unfold Machine.defineStageOrder
  dsimp only
  split
  · split
    · exact (refl s).done o _ _
    · exact (storeStage s _ _).done o _ _
  · exact refuse s o _

theorem setCouplingOrder (o : Handed) (s : State) : s.Fares (setCouplingOrder o s) := by
  unfold Machine.setCouplingOrder
  dsimp only
  split
  · exact refuse s o _
  · split
    · exact refuse s o _
    · next entries hentries =>
      split
      · exact (refl s).done o _ _
      · exact (couple s _ (State.couplingEntries_ne hentries)).done o _ _

theorem addExclusionOrder (o : Handed) (s : State) : s.Fares (addExclusionOrder o s) := by
  unfold Machine.addExclusionOrder
  split
  · exact refuse s o _
  · next e _ =>
    split
    · exact refuse s o _
    · next hok =>
      split
      · exact refuse s o _
      · next hn =>
        split
        · exact refuse s o _
        · next hlen =>
          exact (addExclusionRecord s (by simpa using hok) (by simpa using hn) (by omega)).done o _ _

theorem dropExclusionOrder (o : Handed) (s : State) : s.Fares (dropExclusionOrder o s) := by
  unfold Machine.dropExclusionOrder
  split
  · exact refuse s o _
  · split
    · exact refuse s o _
    · split
      · exact ((exclusions s _ fun h => Site.exclusionsOk_sublist h List.erase_sublist).recheck _).done o _ _
      · exact refuse s o _

end State.Fares
end Sys2Proof.Machine
end


section
/-! What the orders on channels, the searches, the reads and the zone orders keep of the invariants of single blocks. -/

namespace Sys2Proof.Machine

namespace State.Fares

/-! ### The orders on channels -/

theorem defined (s : State) (o : Handed) (c : Fin 256) (f : ChannelFields) (h : Hold) : s.Fares (s.defined o c f h) :=
  conclude (t := s.storeChannel c f h) ((refl s).plan _) _ _ _ _ _

theorem defineChannelOrder (o : Handed) (s : State) : s.Fares (defineChannelOrder o s) := by
  unfold Machine.defineChannelOrder
  split
  · next c f _ _ =>
    split
    · split
      · exact defined s o c f _
      · exact refuse s o _
    · split
      · split
        · exact defined s o c f _
        · exact refuse s o _
      · split
        · exact refuse s o _
        · split
          · exact defined s o c f _
          · exact refuse s o _
  · exact refuse s o _

theorem setHold (s : State) (c : Fin 256) (h : Hold) : s.Fares (s.setHold c h) := (refl s).plan _

theorem retireChannelOrder (o : Handed) (s : State) : s.Fares (retireChannelOrder o s) := by
  unfold Machine.retireChannelOrder
  split
  · exact refuse s o _
  · split
    · exact refuse s o _
    · exact ((refl s).plan _).done o _ _
    · exact refuse s o _

theorem markLiveOrder (o : Handed) (s : State) : s.Fares (markLiveOrder o s) := by
  unfold Machine.markLiveOrder
  split
  · exact refuse s o _
  · split
    · exact (setHold s _ _).done o _ _
    · exact (refl s).done o _ _
    · exact refuse s o _

theorem markIdleOrder (o : Handed) (s : State) : s.Fares (markIdleOrder o s) := by
  unfold Machine.markIdleOrder
  split
  · exact refuse s o _
  · split
    · exact (setHold s _ _).done o _ _
    · exact (refl s).done o _ _
    · exact refuse s o _

theorem releaseOrder (o : Handed) (s : State) : s.Fares (releaseOrder o s) := by
  unfold Machine.releaseOrder
  split
  · exact refuse s o _
  · split
    · exact refuse s o _
    · split
      · exact refuse s o _
      · split
        · exact ((refl s).removeStep _ _ _ _ _).done o _ _
        · exact ((refl s).removeStep _ _ _ _ _).done o _ _
        · exact (refl s).done o _ _
        · exact refuse s o _
        · exact refuse s o _
        · exact refuse s o _

theorem confirmMoveOrder (o : Handed) (s : State) : s.Fares (confirmMoveOrder o s) := by
  unfold Machine.confirmMoveOrder
  split
  · exact refuse s o _
  · split
    · exact refuse s o _
    · split
      · exact refuse s o _
      · exact ((refl s).removeStep _ _ _ _ _).done o _ _

theorem declineMoveOrder (o : Handed) (s : State) : s.Fares (declineMoveOrder o s) := by
  unfold Machine.declineMoveOrder
  split
  · exact refuse s o _
  · split
    · exact refuse s o _
    · split
      · exact refuse s o _
      · exact ((refl s).removeStep _ _ _ _ _).done o _ _

/-! ### Reads -/

theorem readChannelsOrder (o : Handed) (s : State) : s.Fares (readChannelsOrder o s) := by
  unfold Machine.readChannelsOrder
  dsimp only
  split
  · exact refuse s o _
  · exact ((refl s).draw _).doneOrShort o _ _ _

theorem readCensusOrder (o : Handed) (s : State) : s.Fares (readCensusOrder o s) := by
  unfold Machine.readCensusOrder
  dsimp only
  split
  · split
    · exact refuse s o _
    · exact (refl s).doneOrShort o _ _ _
  · exact refuse s o _

theorem readSparesOrder (o : Handed) (s : State) : s.Fares (readSparesOrder o s) := by
  unfold Machine.readSparesOrder
  dsimp only
  split
  · exact refuse s o _
  · exact ((refl s).draw _).doneOrShort o _ _ _

theorem readSpectrumOrder (o : Handed) (s : State) : s.Fares (readSpectrumOrder o s) := by
  unfold Machine.readSpectrumOrder
  dsimp only
  split
  · exact refuse s o _
  · split
    · exact refuse s o _
    · exact (refl s).doneOrShort o _ _ _

theorem readWatchOrder (o : Handed) (s : State) : s.Fares (readWatchOrder o s) := by
  unfold Machine.readWatchOrder
  split
  · exact refuse s o _
  · exact ((refl s).draw _).done o _ _

theorem onLink {s t : State} (h : s.Fares t) (z : Fin 4) (f : Link → Link) : s.Fares (t.onLink z f) :=
  h.trans (of_eq rfl rfl rfl rfl rfl rfl)

theorem foldl {α : Type} (f : State → α → State) (hf : ∀ (s : State) (a : α), s.Fares (f s a)) (l : List α)
    (s : State) : s.Fares (l.foldl f s) := by
  induction l generalizing s with
  | nil => exact refl s
  | cons a t ih => exact (hf s a).trans (ih _)

theorem readLinksOrder (o : Handed) (s : State) : s.Fares (readLinksOrder o s) := by
  unfold Machine.readLinksOrder
  dsimp only
  split
  · exact refuse s o _
  · refine (draw ?_ 4).done o _ _
    split
    · exact foldl _ (fun t z => (refl t).onLink z _) _ s
    · exact refl s

/-! ### The census -/

/-- The planes cleared for a REBUILD. -/
theorem startCensus (s : State) : s.Fares { s with census := s.census.startRebuild } :=
  ⟨id, id, fun _ => Census.planesOk_empty rfl rfl, id, fun _ => ⟨nofun, nofun⟩, id, id, id, id⟩

theorem startRebuild (s : State) (order : Option Handed) : s.Fares (s.startRebuild order) :=
  (startCensus s).yieldWith _

theorem endRebuild {s t : State} (h : s.Fares t) (w : RebuildWork) (outcome : OrderOutcome) (reason : Reason) :
    s.Fares (t.endRebuild w outcome reason) := by
  unfold State.endRebuild
  split
  · exact h.conclude _ _ _ _ _
  · exact h.release

theorem rebuildComplete {s t : State} (h : s.Fares t) (w : RebuildWork) : s.Fares (t.rebuildComplete w) :=
  endRebuild (t := { t with census := { t.census with state := .valid, cause := .none } })
    (h.trans ⟨id, id, id, id, fun _ => ⟨fun _ => rfl, nofun⟩, id, id, id, id⟩) w .done .none

theorem rebuildAdd (s : State) (w : RebuildWork) (x : Transmitter) : s.Fares (s.rebuildAdd w x) := by
  obtain ⟨hstate, hcause, hplanes⟩ :=
    Census.addAll_keeps (s.site.increments x (s.plan.transmitters.take w.position)) s.census
  have hcensus := of_keeps (s.keeps_census _ hstate hcause hplanes) (.refl s)
  unfold State.rebuildAdd
  dsimp only
  split
  · exact (hcensus.stale (by decide)).endRebuild _ _ _
  · exact hcensus.yieldWith _

theorem rebuildJudge (s : State) (w : RebuildWork) (x : Transmitter) : s.Fares (s.rebuildJudge w x).1 := by
  unfold State.rebuildJudge
  split
  · exact refl s
  · exact (refl s).mark _ _

theorem rebuildStep (s : State) (w : RebuildWork) : s.Fares (s.rebuildStep w) := by
  unfold State.rebuildStep
  split
  · exact (refl s).rebuildComplete w
  · split
    · exact rebuildAdd s w _
    · unfold State.rebuildSweep
      dsimp only
      split
      · exact (rebuildJudge s w _).yieldWith _
      · exact (rebuildJudge s w _).rebuildComplete _

/-! ### CHECK LIST -/

theorem checkStep (s : State) (w : CheckWork) : s.Fares (s.checkStep w) := by
  unfold State.checkStep
  split
  · exact (refl s).conclude _ _ _ _ _
  · dsimp only
    split
    · exact (refl s).conclude _ _ _ _ _
    · exact (refl s).yieldWith _

theorem checkListOrder (o : Handed) (s : State) : s.Fares (checkListOrder o s) := by
  unfold Machine.checkListOrder
  dsimp only
  split
  · exact refuse s o _
  · exact (refl s).runWith _

/-! ### PLACE -/

theorem rollback (s : State) (w : PlaceWork) : s.Fares (s.rollback w) :=
  of_keeps (s.keeps_rollback w) (s.thins_rollback w)

theorem commit (s : State) (w : PlaceWork) : s.Fares (s.commit w) := of_keeps (s.keeps_commit w) (.refl s)

theorem endPlace {s t : State} (h : s.Fares t) (w : PlaceWork) (k : Bool) (x : OrderOutcome) (r : Reason) (n : Nat) :
    s.Fares (t.endPlace w k x r n) := h.conclude _ _ _ _ _

theorem bestEffortEnd (s : State) (w : PlaceWork) : s.Fares (s.bestEffortEnd w) := by
  unfold State.bestEffortEnd
  dsimp only
  split
  · exact (commit s w).endPlace _ _ _ _ _
  · split
    · exact (commit s w).endPlace _ _ _ _ _
    · exact (commit s w).endPlace _ _ _ _ _

theorem budgetEnd (s : State) (w : PlaceWork) (e : StackEntry) : s.Fares (s.budgetEnd w e) := by
  unfold State.budgetEnd
  split
  · exact bestEffortEnd s _
  · exact (rollback s w).endPlace _ _ _ _ _

theorem afterEvaluation (s : State) (w : PlaceWork) : s.Fares (s.afterEvaluation w) := by
  unfold State.afterEvaluation
  split
  · exact (refl s).yieldWith _
  · split
    · exact bestEffortEnd s w
    · split
      · exact endPlace (t := s.clearMarks) ((refl s).plan _) _ _ _ _ _
      · exact (commit s w).endPlace _ _ _ _ _

theorem placeFail (s : State) (w : PlaceWork) (e : StackEntry) : s.Fares (s.placeFail w e) := by
  unfold State.placeFail
  dsimp only
  split
  · exact afterEvaluation s _
  · split
    · exact afterEvaluation s _
    · refine trans (inStageOrder s ?_) (afterEvaluation _ _)
      exact of_keeps (keeps_backtrack _ _ (s, _)) (thins_backtrack _ _ (s, _))

theorem placeEvaluate (s : State) (w : PlaceWork) (e : StackEntry) : s.Fares (s.placeEvaluate w e) := by
  unfold State.placeEvaluate
  dsimp only
  split
  · exact placeFail s _ e
  · split
    · exact ((refl s).addPrimary _ _ _ _).trans (afterEvaluation _ _)
    · exact placeFail s _ e

theorem placeStep (s : State) (w : PlaceWork) : s.Fares (s.placeStep w) := by
  unfold State.placeStep
  dsimp only
  split
  · exact afterEvaluation s _
  · split
    · exact budgetEnd s _ _
    · exact placeEvaluate s _ _

theorem startPlace (s : State) (w : PlaceWork) (items : List PlaceItem) : s.Fares (s.startPlace w items) :=
  runWith (t := { s with plan := s.plan.setMarks w.order.head items }) ((refl s).plan _) _

theorem placeOrder (o : Handed) (s : State) : s.Fares (placeOrder o s) := by
  unfold Machine.placeOrder
  dsimp only
  split
  · exact refuse s o _
  · split
    · exact ((refl s).draw 1).conclude _ _ _ _ _
    · split
      · split
        · exact startPlace s _ _
        · exact (refl s).endPlace _ _ _ _ _
      · exact startPlace s _ _

/-! ### PIN, REPLACE and the auto-move -/

theorem vacate (s : State) (c : Fin 256) (r : ChannelRecord) : s.Fares (s.vacate c r) :=
  of_keeps (s.keeps_vacate c r) (s.thins_vacate c r)

theorem pinned (s : State) (c : Fin 256) (r : ChannelRecord) (f : Nat) : s.Fares (s.pinned c r f) :=
  inStageOrder s ((vacate s c r).addPrimary _ _ _ _)

theorem pinOrder (o : Handed) (s : State) : s.Fares (pinOrder o s) := by
  have hend : ∀ c r f force v, s.Fares (s.pinEnd o c r f force v) := fun c r f force v => by
    unfold State.pinEnd
    split
    · exact (pinned s c r f).done o _ _
    · split
      · exact (pinned s c r f).done o _ _
      · split
        · exact (pinned s c r _).conclude _ _ _ _ _
        · exact (refl s).conclude _ _ _ _ _
  have hpin : ∀ c r f force strict, s.Fares (s.pin o c r f force strict) := fun c r f force strict => by
    unfold State.pin
    split
    · exact refuse s o _
    · exact hend _ _ _ _ _
  unfold Machine.pinOrder
  dsimp only
  split
  · exact refuse s o _
  · split
    · exact refuse s o _
    · split
      · exact refuse s o _
      · split
        · exact refuse s o _
        · split
          · exact hpin _ _ _ _ _
          · exact hpin _ _ _ _ _
          · exact refuse s o _

theorem replace (s : State) (c : Fin 256) (r : ChannelRecord) (f : Nat) (only : Bool) :
    s.Fares (s.replace c r f only).1 := of_keeps (s.keeps_replace c r f only) (s.thins_replace c r f only)

theorem replaceEnd {s t : State} (h : s.Fares t) (o : Handed) (c : Fin 256) (f : Nat) (found : Found) :
    s.Fares (t.replaceEnd o c f found) := by
  unfold State.replaceEnd
  dsimp only
  split
  · exact h.done _ _ _
  · exact (h.draw 1).conclude _ _ _ _ _

theorem replaceOrder (o : Handed) (s : State) : s.Fares (replaceOrder o s) := by
  unfold Machine.replaceOrder
  dsimp only
  split
  · exact refuse s o _
  · split
    · exact refuse s o _
    · split
      · exact refuse s o _
      · split
        · exact refuse s o _
        · split
          · exact (replace s _ _ _ _).replaceEnd _ _ _ _
          · exact (replace s _ _ _ _).replaceEnd _ _ _ _
          · exact refuse s o _

/-! ### The work on spare lists -/

theorem upkeepUnit (s : State) (w : UpkeepWork) : s.Fares (s.upkeepUnit w).1 := by
  have hk := s.keeps_upkeepUnit w
  have happart : s.sparesApart → (s.upkeepUnit w).1.sparesApart := fun h => by
    unfold State.upkeepUnit
    split
    · exact h
    · next r hr =>
      split
      · exact h
      · split
        · split
          · exact h
          · exact s.sparesApart_fillOne w r _ hr h
        · exact h
  refine ⟨?_, fun ⟨wf, out, held⟩ => ⟨hk.port.wf wf, hk.port.out out, hk.port.held held⟩, hk.planes, hk.maps, hk.cause,
    hk.subjects, ?_, hk.spares, happart⟩
  · obtain ⟨hreset, -⟩ := hk.port
    rw [hreset]
    exact id
  · rw [hk.site]
    exact id

theorem markShort {s t : State} (h : s.Fares t) (b : Fin 8) : s.Fares (t.markShort b) := by
  unfold State.markShort
  split
  · exact h
  · exact h.mark _ _

theorem upkeepStep (s : State) (w : UpkeepWork) : s.Fares (s.upkeepStep w) := by
  unfold State.upkeepStep
  dsimp only
  split
  · exact ((upkeepUnit s w).markShort _).release
  · exact (upkeepUnit s w).yieldWith _

theorem startUpkeep (s : State) (b : Fin 8) : s.Fares (s.startUpkeep b) := by
  unfold State.startUpkeep
  split
  · exact (refl s).release
  · split
    · exact (refl s).release
    · exact (refl s).runWith _

theorem endRefill {s t : State} (h : s.Fares t) (w : RefillWork) : s.Fares (t.endRefill w) := by
  unfold State.endRefill
  dsimp only
  split
  · exact (h.draw 8).conclude _ _ _ _ _
  · exact (h.draw 8).conclude _ _ _ _ _

theorem refillOn {s t : State} (h : s.Fares t) (w : RefillWork) : s.Fares (t.refillOn w) := by
  unfold State.refillOn
  split
  · exact h.endRefill w
  · exact h.yieldWith _

theorem refillStep (s : State) (w : RefillWork) : s.Fares (s.refillStep w) := by
  unfold State.refillStep
  split
  · exact (refl s).endRefill w
  · dsimp only
    split
    · exact ((upkeepUnit s _).markShort _).refillOn _
    · exact (upkeepUnit s _).refillOn _

theorem refillSparesOrder (o : Handed) (s : State) : s.Fares (refillSparesOrder o s) := by
  unfold Machine.refillSparesOrder
  dsimp only
  split
  · exact refuse s o _
  · refine runWith ?_ _
    split
    · exact of_keeps (s.keeps_flush _) (s.thins_flush _)
    · exact refl s

/-! ### Zones and links -/

theorem onZone {s t : State} (h : s.Fares t) (z : Fin 4) (f : Zone → Zone)
    (hf : sparseOk Bin.cleared t.zones[z].map = true → sparseOk Bin.cleared (f t.zones[z]).map = true) :
    s.Fares (t.onZone z f) := h.trans (of_keeps (t.keeps_onZone z f hf) (.refl t))

theorem setZoneOrder (o : Handed) (s : State) : s.Fares (setZoneOrder o s) := by
  unfold Machine.setZoneOrder
  dsimp only
  split
  · exact (((refl s).onLink _ _).onZone _ _ fun h => sparseMap_ok _ _ _ h).done o _ _
  · exact refuse s o _

theorem probeOrder (o : Handed) (s : State) : s.Fares (probeOrder o s) := by
  unfold Machine.probeOrder
  dsimp only
  split
  · exact refuse s o _
  · split
    · exact refuse s o _
    · split
      · exact refuse s o _
      · exact ((refl s).onLink _ _).release

theorem endProbe {s t : State} (h : s.Fares t) (z : Fin 4) (w : ProbeWork) (x : OrderOutcome) (r : Reason)
    (l : Option Byte) : s.Fares (t.endProbe z w x r l) := (h.onLink z _).close _ _ _ _ _

theorem answer {s t : State} (h : s.Fares t) (z : Fin 4) (i l : Byte) : s.Fares (t.answer z i l) := by
  unfold State.answer
  split
  · split
    · exact h.endProbe _ _ _ _ _
    · exact h.onLink _ _
  · exact h.onLink _ _

theorem armWatchOrder (o : Handed) (s : State) : s.Fares (armWatchOrder o s) := by
  unfold Machine.armWatchOrder
  dsimp only
  split
  · exact refuse s o _
  · split
    · exact refuse s o _
    · exact ((refl s).onZone _ _ id).done o _ _

theorem routeHit (s : State) (z : Fin 4) (j : Fin 64) (rise : Nat) : s.Fares (s.routeHit z j rise) :=
  of_keeps (s.keeps_routeHit z j rise) (s.thins_routeHit z j rise)

theorem forceHitOrder (o : Handed) (s : State) : s.Fares (forceHitOrder o s) := by
  unfold Machine.forceHitOrder
  split
  · split
    · exact refuse s o _
    · exact (((refl s).onZone _ _ id).trans (routeHit _ _ _ _)).done o _ _
  · exact refuse s o _

theorem validFrame (s : State) (z : Fin 4) : s.Fares (s.validFrame z) :=
  of_keeps (s.keeps_validFrame z) (State.thins_of_eq rfl)

theorem goStale (s : State) (z : Fin 4) : s.Fares (s.goStale z) := of_keeps (s.keeps_goStale z) (State.thins_of_eq rfl)

/-! ### CANCEL and the resumption -/

theorem cancelWork (s : State) (w : Work) : s.Fares (s.cancelWork w) := by
  cases w with
  | place w => exact (rollback s w).close _ _ _ _ _
  | check w => exact (refl s).close _ _ _ _ _
  | rebuild w =>
    simp only [State.cancelWork]
    split
    · exact ((refl s).stale (by decide)).close _ _ _ _ _
    · exact refl s
  | refill w => exact ((refl s).draw 8).close _ _ _ _ _
  | upkeep w => exact refl s
  | single => exact refl s

theorem cancelTarget {s t : State} {n : Nat} (h : s.cancelTarget n = some t) : s.Fares t := by
  unfold State.cancelTarget at h
  split at h
  · cases h
    exact close (s := s) (t := { s with engine := s.engine.remove n }) (of_eq rfl rfl rfl rfl rfl rfl) _ _ _ _ _
  · cases h
    exact (cancelWork s _).idleRoutine
  · cases h
    exact (refl s).endProbe _ _ _ _ _
  · cases h

theorem cancelOrder (o : Handed) (s : State) : s.Fares (cancelOrder o s) := by
  unfold Machine.cancelOrder
  dsimp only
  split
  · exact refuse s o _
  · split
    · next t ht => exact (cancelTarget ht).done o _ _
    · exact refuse s o _

theorem resume (s : State) (w : Work) : s.Fares (s.resume w) := by
  cases w with
  | rebuild w =>
    simp only [State.resume]
    split
    · exact (refl s).runWith _
    · exact (startCensus s).runWith _
  | place w => exact (refl s).runWith _
  | check w => exact (refl s).runWith _
  | upkeep w => exact (refl s).runWith _
  | refill w => exact (refl s).runWith _
  | single => exact (refl s).runWith _

/-! ### Take-ups -/

theorem procedure (code : OrderCode) (o : Handed) (s : State) : s.Fares (code.procedure o s) := by
  cases code with
  | setParameters => exact setParametersOrder o s
  | defineStage => exact defineStageOrder o s
  | setCoupling => exact setCouplingOrder o s
  | addExclusion => exact addExclusionOrder o s
  | dropExclusion => exact dropExclusionOrder o s
  | defineChannel => exact defineChannelOrder o s
  | retireChannel => exact retireChannelOrder o s
  | markLive => exact markLiveOrder o s
  | markIdle => exact markIdleOrder o s
  | release => exact releaseOrder o s
  | readChannels => exact readChannelsOrder o s
  | rebuildCensus => exact startRebuild s _
  | readCensus => exact readCensusOrder o s
  | checkList => exact checkListOrder o s
  | place => exact placeOrder o s
  | pin => exact pinOrder o s
  | replace => exact replaceOrder o s
  | confirmMove => exact confirmMoveOrder o s
  | declineMove => exact declineMoveOrder o s
  | refillSpares => exact refillSparesOrder o s
  | readSpares => exact readSparesOrder o s
  | setZone => exact setZoneOrder o s
  | probe => exact probeOrder o s
  | readSpectrum => exact readSpectrumOrder o s
  | readLinks => exact readLinksOrder o s
  | armWatch => exact armWatchOrder o s
  | forceHit => exact forceHitOrder o s
  | readWatch => exact readWatchOrder o s
  | cancel => exact cancelOrder o s

theorem takeEntry (s : State) (u : Bool) (e : Entry) : s.Fares (s.takeEntry u e) := by
  cases e with
  | order o => exact (begin s u o).trans (procedure _ o _)
  | autoMove c f =>
    exact ((beginEntry s u).trans (of_keeps (State.keeps_autoMove _ c f) (State.thins_autoMove _ c f))).release
  | rebuild =>
    refine (beginEntry s u).trans (?_ : State.Fares _ (s.beginEntry u).takeRebuild)
    unfold State.takeRebuild
    split
    · exact (refl _).release
    · exact startRebuild _ _
  | upkeep b => exact (beginEntry s u).trans (startUpkeep _ b)

theorem taken (s : State) (g : Grant) : s.Fares (s.taken g) := by
  cases g with
  | takeUrgent e => exact takeEntry s true e
  | takeRoutine e => exact takeEntry s false e
  | resume w => exact resume s w

theorem workStep (s : State) (w : Work) : s.Fares (s.workStep w) := by
  cases w with
  | rebuild w => exact rebuildStep s w
  | check w => exact checkStep s w
  | place w => exact placeStep s w
  | upkeep w => exact upkeepStep s w
  | refill w => exact refillStep s w
  | single => exact refl s

end State.Fares
end Sys2Proof.Machine
end


section
/-! Every event keeps the invariants of single blocks; so does every step: O6, O7 and the first four parts of O8. -/

namespace Sys2Proof.Machine

/-- The parameters, the coupling and the exclusion list after power-on (spec 1.8). -/
theorem Site.sound_powerOn : Site.powerOn.sound := by
  refine ⟨by decide, ?_, fun a b => ?_, Nat.zero_le _, nofun, List.Pairwise.nil⟩
  · unfold Params.ok
    decide
  · simp [Site.isolation, Site.powerOn]

namespace State.Fares

/-! ### The events -/

/-- A port that keeps its tables. -/
theorem withPort (s : State) (p : Port) (k : s.port.Keeps p) : s.Fares (s.withPort p) :=
  of_holds (State.holds_of_eq rfl rfl rfl k rfl rfl rfl rfl) (State.thins_of_eq rfl)

theorem misuse (s : State) : s.Fares s.misuse := withPort s _ (Port.keeps_raise _ _)

theorem claim (s : State) : s.Fares (s.withPort s.port.claimed) := by
  unfold Port.claimed
  have hread : ∀ (p : Port) (v : Word), s.port.Keeps p → s.Fares (s.withPort { p with readData := v }) :=
    fun p v ⟨hreset, _, _, _, _, _, _, hwf, hout, hheld⟩ =>
      ⟨fun h => by rw [← h]; exact congrArg _ hreset, fun ⟨wf, out, held⟩ => ⟨hwf wf, hout out, hheld held⟩,
        id, id, id, id, id, id, id⟩
  split
  · exact hread _ _ (Port.keeps_setCell _ _ _)
  · exact hread _ _ (.refl _)

theorem notices (s : State) (raw enables : BitVec 5) :
    s.Fares (s.withPort { s.port with raw := raw, enables := enables }) := ⟨id, id, id, id, id, id, id, id, id⟩

/-- The clock of an event of its own. -/
theorem atTime (s : State) (n : Nat) : s.Fares { s with now := n } := of_eq rfl rfl rfl rfl rfl rfl

theorem hostWrite_wf {m : Memory} (a : Nat) (l : List Byte) (h : m.wf = true) : (m.hostWrite a l).wf = true := by
  induction l generalizing m a with
  | nil => exact h
  | cons b t ih =>
    unfold Memory.hostWrite
    split
    · exact ih _ (Memory.write_wf a b h)
    · exact ih _ h

theorem write (s : State) (a : Nat) (l : List Byte) :
    s.Fares (s.withPort { s.port with memory := s.port.memory.hostWrite a l }) :=
  withPort s _ (Port.keeps_memory _ _ fun h => hostWrite_wf a l h)

theorem give (s : State) (c : Nat) :
    s.Fares (State.attempt (s.withPort ((s.port.setCell c .free).leave [c]))) :=
  (withPort s _ ((Port.keeps_setCell _ _ _).trans (Port.keeps_leave _ _))).attempt

/-- The cleared planes, reports and zones of a soft reset. -/
theorem soft (s : State) (run auto : Bool)
    (h : s.port.reset.map ResetRun.kind = none ∨ s.port.reset.map ResetRun.kind = some .exchange) :
    s.Fares (s.beginSoft run auto) where
  power := fun hp => by rw [hp] at h; simp at h
  memory := fun ⟨wf, out, _⟩ => ⟨wf, out, .inl rfl⟩
  planes := fun _ => Census.planesOk_empty rfl rfl
  maps := fun _ z => by
    show sparseOk Bin.cleared ((mapTable Zone.softReset s.zones)[z]).map = true
    rw [mapTable_get]
    rfl
  cause := fun _ => Census.causeOk_cleared
  subjects := fun _ => List.nodup_nil
  site := id
  spares := fun _ => State.sparesOk_empty rfl
  apart := fun _ => State.sparesApart_empty rfl

theorem quiet {s a : State} (h : s.QuietEvent a) : s.Fares a := by
  cases h with
  | same => exact refl s
  | misuse => exact misuse s
  | claim => exact claim s
  | give _ _ => exact give s _
  | notices raw enables => exact notices s raw enables
  | write a l => exact write s a l
  | frame z => exact validFrame s z
  | crcError z => exact (refl s).onLink z _
  | formatError z => exact (refl s).onLink z _
  | timeout _ => exact (atTime s _).trans (goStale _ _)
  | move _ => exact ((atTime s _).trans (setHold _ _ _)).mark _ _
  | soft run auto hr => exact soft s run auto hr

theorem abandonWork (s : State) : s.Fares s.abandonWork := by
  unfold State.abandonWork
  split
  · exact (rollback s _).idleRoutine
  · split
    · exact ((refl s).stale (k := .abandoned) (by decide)).idleRoutine
    · exact refl s
  · exact (refl s).idleRoutine
  · exact (refl s).idleRoutine
  · exact refl s
  · exact refl s
  · exact refl s

theorem exchange (s : State) (run auto : Bool) (hr : s.port.reset = none) : s.Fares (s.beginExchange run auto) := by
  have k := abandonWork s
  refine ⟨fun h => (by rw [hr] at h; cases h), fun h => ?_, k.planes, k.maps, k.cause, k.subjects, k.site, k.spares,
    k.apart⟩
  obtain ⟨wf, out, -⟩ := k.memory h
  exact ⟨wf, out, .inl rfl⟩

theorem acts {s a : State} (h : s.OpenEvent a) : s.Fares a := by
  cases h with
  | take _ => exact taken s _
  | work _ => exact workStep s _
  | sweep z number first stride flags levels =>
    exact (validFrame s z).trans (of_keeps (State.keeps_sweepFrame _ _ _ _ _ _ _) (State.thins_sweepFrame _ _ _ _ _ _ _))
  | answer z i l => exact (validFrame s z).answer z i l
  | deadline _ => exact (atTime s _).endProbe _ _ _ _ _
  | accept _ _ _ =>
    exact of_holds (State.holds_of_eq rfl rfl rfl ((Port.keeps_setCells _ _ _).trans (Port.keeps_leave _ _)) rfl rfl
      rfl rfl) (State.thins_of_eq rfl)
  | turnAway _ _ _ => exact withPort s _ ((Port.keeps_leave _ _).trans (Port.keeps_deliver _ _ _ _ _ _ _ _))
  | switch run auto _ => exact ⟨id, id, id, id, id, id, id, id, id⟩
  | exchange run auto hr => exact exchange s run auto hr

theorem finish {s t : State} (u : State) (h : s.Fares t) : s.Fares (u.finish t) :=
  h.trans ⟨id, id, id, id, id, id, id, id, id⟩

theorem finishReset (s : State) : s.Fares s.finishReset := ⟨id, id, id, id, id, id, id, id, id⟩

theorem powered (s : State) : s.Fares s.powered where
  power := fun _ => rfl
  memory := fun _ => ⟨rfl, rfl, .inl rfl⟩
  planes := fun _ => Census.planesOk_empty rfl rfl
  maps := fun _ z => by
    show sparseOk Bin.cleared ((Vector.replicate 4 Zone.powerOn)[z]).map = true
    simp [Zone.powerOn, sparseOk]
  cause := fun _ => Census.causeOk_cleared
  subjects := fun _ => List.nodup_nil
  site := fun _ => Site.sound_powerOn
  spares := fun _ => State.sparesOk_empty rfl
  apart := fun _ => State.sparesApart_empty rfl

end State.Fares

/-- The port of a reset that ends is in order, its memory kept or cleared. -/
theorem Port.endReset_ok (p : Port) (k : ResetKind) (h : p.memory.wf = true) :
    (p.endReset k).memory.wf = true ∧ sparseOk OutSlot.zero (p.endReset k).outList = true ∧
      (p.endReset k).heldRightly := by
  refine ⟨?_, rfl, .inl rfl⟩
  unfold Port.endReset
  dsimp only
  split
  · rfl
  · exact h

/-! ### Steps -/

/-- A property that goes over with the invariants of single blocks, and is kept by the port of a reset that ends, is kept by
every event. -/
theorem State.Kept.of_fares {P : State → Prop} (go : ∀ s t : State, s.Fares t → P s → P t)
    (ends : ∀ (s : State) (r : ResetRun), P s →
      P { s with port := s.port.endReset r.kind, now := max s.now r.ends }) : State.Kept P where
  pending := fun _ _ => go _ _ (.of_eq rfl rfl rfl rfl rfl rfl)
  idle := fun _ => go _ _ (.of_eq rfl rfl rfl rfl rfl rfl)
  byte := fun _ _ _ _ => go _ _ (.of_eq rfl rfl rfl rfl rfl rfl)
  receiver := fun _ _ _ => go _ _ (.of_eq rfl rfl rfl rfl rfl rfl)
  quiet := fun s _ h => go _ _ (.finish s (.quiet h))
  acts := fun s _ h => go _ _ (.finish s (.acts h))
  powered := fun s => go _ _ (.powered s)
  resetEnd := fun s r _ hs => go _ _
    ((State.Fares.refl _).attempt.trans (.finishReset _)) (ends s r hs)

theorem kept_tablesOk : State.Kept State.tablesOk :=
  .of_fares (fun _ _ k ⟨hm, hp, hz⟩ => ⟨k.memory hm, k.planes hp, k.maps hz⟩)
    fun s r ⟨⟨wf, _, _⟩, hp, hz⟩ => ⟨s.port.endReset_ok r.kind wf, hp, hz⟩

theorem kept_site : State.Kept fun s => s.site.sound := .of_fares (fun _ _ k => k.site) fun _ _ => id

theorem kept_cause : State.Kept fun s => s.census.causeOk := .of_fares (fun _ _ k => k.cause) fun _ _ => id

theorem kept_subjects : State.Kept fun s => s.reports.subjectsOnce :=
  .of_fares (fun _ _ k => k.subjects) fun _ _ => id

theorem kept_sparesOk : State.Kept State.sparesOk := .of_fares (fun _ _ k => k.spares) fun _ _ => id

theorem kept_sparesApart : State.Kept State.sparesApart := .of_fares (fun _ _ k => k.apart) fun _ _ => id

/-! ### The notice line and the header -/

/-- Every event ends with the notice line following the raw flags. -/
theorem kept_lineTrue : State.Kept State.lineTrue where
  pending := fun _ _ => id
  idle := fun _ => id
  byte := fun _ _ _ _ => id
  receiver := fun _ _ _ => id
  quiet := fun _ _ _ _ => rfl
  acts := fun _ _ _ _ => rfl
  powered := fun _ _ => by
    show false = Port.asserted (Port.poweringOn _)
    simp [Port.asserted, Port.poweringOn, Port.powerOn]
  resetEnd := fun _ _ _ _ => rfl

theorem rewrite_self {α : Type} [DecidableEq α] (before after : α) : rewrite before before after = after := by
  unfold rewrite
  split
  · assumption
  · rfl

/-- A header that mirrored the blocks before an event mirrors them after it, since it is rewritten where they changed. -/
theorem Header.rewritten_mirror (s t : State) : s.mirror.rewritten s.mirror t.mirror = t.mirror := by
  simp only [Header.rewritten, rewrite_self]
  rfl

theorem State.headerTrue_finish {s t : State} (k : s.Fares t) (h : s.headerTrue) : (s.finish t).headerTrue := by
  rcases h with h | h
  · refine .inl ?_
    show s.port.header.rewritten s.mirror t.mirror = t.mirror
    rw [h, Header.rewritten_mirror]
  · exact .inr (k.power h)

theorem kept_headerTrue : State.Kept State.headerTrue where
  pending := fun _ _ => id
  idle := fun _ => id
  byte := fun _ _ _ _ => id
  receiver := fun _ _ _ => id
  quiet := fun _ _ h => State.headerTrue_finish (.quiet h)
  acts := fun _ _ h => State.headerTrue_finish (.acts h)
  powered := fun _ _ => .inr rfl
  resetEnd := fun _ _ _ _ => .inl rfl

end Sys2Proof.Machine

open Sys2Proof Sys2Proof.Machine

/-- Settles O6: every event ends with the line and the header brought up to date. -/
theorem stepKeepsLineAndHeader : Obligations.StepKeepsLineAndHeader :=
  ⟨fun _ _ => kept_lineTrue.step, fun _ _ => kept_headerTrue.step⟩

/-- Settles O7: every event keeps each table in its canonical form. -/
theorem stepKeepsTables : Obligations.StepKeepsTables := fun _ _ => kept_tablesOk.step

end


section
/-! The queue, the events that do not occur, and the state that a power-on reset leaves. -/

namespace Sys2Proof.Machine

/-! ### Sites without a channel or a coupling -/

theorem vector_replicate_get {α : Type} {n : Nat} (x : α) (i : Fin n) : (Vector.replicate n x)[i] = x :=
  Vector.getElem_replicate _

theorem Plan.cleared_channel (c : Fin 256) : Plan.cleared.channels[c] = none := vector_replicate_get _ _

theorem Plan.cleared_transmitters : Plan.cleared.transmitters = [] := by decide +kernel

theorem State.reset_exact : State.reset.exactFor State.reset.plan.transmitters := by
  intro b n
  have none_held : State.reset.plan.transmitters = [] := Plan.cleared_transmitters
  have count3 : State.reset.census.count (b, false, n) = 0 := by
    show sparseGet 0 (Vector.replicate 8 [])[b] n = 0
    rw [vector_replicate_get]
    rfl
  have count5 : State.reset.census.count (b, true, n) = 0 := by
    show sparseGet 0 (Vector.replicate 8 [])[b] n = 0
    rw [vector_replicate_get]
    rfl
  rw [none_held, count3, count5]
  simp [Site.thirdOf, Site.fifthOf, landing]

theorem State.reset_memoryOk : State.reset.memoryOk := ⟨rfl, rfl, .inl rfl⟩

theorem State.reset_ordersOk : State.reset.ordersOk := by
  have waiting : State.reset.waiting = [] := rfl
  have working : State.reset.working = [] := by decide
  unfold State.ordersOk
  rw [waiting, working]
  exact ⟨List.nodup_nil, nofun, nofun, nofun, fun h => absurd rfl h⟩

theorem State.reset_engineOk : State.reset.engineOk :=
  ⟨State.reset_ordersOk, rfl, by decide, nofun, nofun⟩

theorem State.reset_spares (b : Fin 8) : State.reset.spares[b] = [] := vector_replicate_get _ _

theorem State.reset_stages (b : Fin 8) : State.reset.site.stages[b] = none := vector_replicate_get _ _

theorem State.reset_zones (z : Fin 4) : State.reset.zones[z] = Zone.powerOn := vector_replicate_get _ _

theorem State.reset_links (z : Fin 4) : State.reset.links[z] = Link.cleared := vector_replicate_get _ _

theorem State.reset_mirror : State.reset.mirror = Header.powerOn := by decide +kernel

theorem Port.powerOn_cell {c : Nat} (low : 9 ≤ c) (high : c ≤ 511) : Port.powerOn.cell c = some .free := by
  unfold Port.cell
  rw [poolIndex_eq, dif_pos ⟨low, high⟩, Option.map_some]
  exact congrArg some (vector_replicate_get _ _)

end Sys2Proof.Machine

open Sys2Proof Sys2Proof.Machine

/-- Settles O1. -/
theorem stepRunsFrontCommand : Obligations.StepRunsFrontCommand := by
  intro s c rest h
  unfold step
  rw [h]

/-- Settles O2: each command looks for its condition first. -/
theorem absentEventsChangeNothing : Obligations.AbsentEventsChangeNothing := by
  intro s
  refine ⟨fun code h => ?_, fun h => ?_, fun h => ?_, fun h => ?_, fun h => ?_, fun h => ?_, fun h => ?_, fun h => ?_,
    fun h => ?_, fun h => ?_, fun z h => ?_, fun z h => ?_, fun c h => ?_, fun h => ?_, fun a l h => ?_⟩
  · rw [exec_command, State.takeUp_none _ h]
  · show execAutoMove s = _
    unfold execAutoMove
    split
    · next c f e => exact absurd e (h c f)
    · rfl
  · show execRebuild s = _
    unfold execRebuild
    split
    · next e => exact absurd e h
    · rfl
  · show execUpkeep s = _
    unfold execUpkeep
    split
    · next b e => exact absurd e (h b)
    · rfl
  · show execResumption s = _
    unfold execResumption
    split
    · next w e => exact absurd e (h w)
    · rfl
  · show execRebuildStep s = _
    unfold execRebuildStep
    split
    · next w e => exact absurd e (h w)
    · rfl
  · show execCheckListEntry s = _
    unfold execCheckListEntry
    split
    · next w e => exact absurd e (h w)
    · rfl
  · show execPlaceStep s = _
    unfold execPlaceStep
    split
    · next w e => exact absurd e (h w)
    · rfl
  · show execUpkeepStep s = _
    unfold execUpkeepStep
    split
    · next w e => exact absurd e (h w)
    · rfl
  · show execRefillSparesStep s = _
    unfold execRefillSparesStep
    split
    · next w e => exact absurd e (h w)
    · rfl
  · show execProbeDeadline z s = _
    unfold execProbeDeadline
    rw [h]
  · show execLinkTimeout z s = _
    have silent : s.timeoutAt z = none := by
      unfold State.timeoutAt
      rcases h with h | h <;> rw [h] <;> rfl
    unfold execLinkTimeout
    rw [silent]
  · show execMoveTimerExpiry c s = _
    unfold execMoveTimerExpiry
    split
    · next f g e he => exact absurd he (h f g e)
    · rfl
  · show execResetEnd s = _
    unfold execResetEnd
    rw [h]
  · show execHostCellWrite a l s = _
    unfold execHostCellWrite
    rw [h]
    rfl

/-- Settles O4. -/
theorem resetValues : Obligations.ResetValues := by
  refine ⟨⟨rfl, rfl, rfl, State.reset_stages, fun a b => ?_, rfl⟩, ⟨Plan.cleared_channel, rfl⟩, ⟨rfl, rfl, fun i => ?_⟩,
    State.reset_spares, fun z => ?_, fun z => ?_, rfl,
    ⟨fun _ => Port.powerOn_cell, fun _ => rfl, fun _ => rfl, rfl, rfl, rfl, rfl, rfl, rfl, rfl, rfl,
      State.reset_mirror.symm⟩, rfl⟩
  · show ((Vector.replicate 8 (Vector.replicate 8 0))[a])[b] = 0
    rw [vector_replicate_get, vector_replicate_get]
  · obtain ⟨b, fifth, n⟩ := i
    have exact := State.reset_exact b n
    rw [show State.reset.plan.transmitters = [] from Plan.cleared_transmitters] at exact
    cases fifth with
    | false => simpa [Site.thirdOf, landing] using exact.1
    | true => simpa [Site.fifthOf, landing] using exact.2
  · rw [State.reset_links]
    exact ⟨rfl, rfl, rfl, rfl, rfl, rfl, rfl, rfl, rfl, rfl, rfl⟩
  · rw [State.reset_zones]
    exact ⟨rfl, rfl, rfl, fun _ => rfl, vector_replicate_get _, rfl⟩

/-- Settles O5. -/
theorem resetMeetsInvariants : Obligations.ResetMeetsInvariants := by
  refine ⟨rfl, .inl State.reset_mirror.symm, ⟨State.reset_memoryOk, Census.planesOk_empty rfl rfl, fun z => ?_⟩,
    Site.sound_powerOn, Census.causeOk_cleared, List.nodup_nil, fun b => ?_, fun b r h => ?_, fun c r h => ?_,
    State.reset_engineOk, nofun, State.reset_exact, ⟨fun _ => State.reset_exact, nofun⟩, fun b r h => ?_, rfl⟩
  · rw [State.reset_zones]
    rfl
  · rw [State.reset_spares]
    exact ⟨.nil, Nat.zero_le _⟩
  · rw [State.reset_stages] at h
    cases h
  · rw [show State.reset.channel c = none from Plan.cleared_channel c] at h
    cases h
  · rw [State.reset_stages] at h
    cases h

end


section
/-! The notice registers, CTL and host writes: what they do to the Exchange Port. -/

namespace Sys2Proof.Machine

theorem State.finish_withPort_onlyPort (s : State) (p : Port) : s.onlyPort (s.finish (s.withPort p)) :=
  ⟨⟨⟨rfl, rfl, rfl, rfl⟩, ⟨rfl, rfl⟩, rfl, rfl⟩, rfl, rfl, rfl⟩

theorem State.finish_onlyPort (s : State) : s.onlyPort (s.finish s) :=
  ⟨⟨⟨rfl, rfl, rfl, rfl⟩, ⟨rfl, rfl⟩, rfl, rfl⟩, rfl, rfl, rfl⟩

theorem State.finish_misuse (s : State) :
    s.onlyPort (s.finish s.misuse) ∧ (s.finish s.misuse).port =
      { s.port with
        raw := s.port.raw ||| faultBit
        header := (s.finish s.misuse).port.header
        line := (s.finish s.misuse).port.line } :=
  ⟨s.finish_withPort_onlyPort _, rfl⟩

/-! ### Notice bits -/

theorem noticeBits_getLsbD (v : Word) (i : Fin 5) : (noticeBits v).getLsbD i = v.getLsbD i := by
  simp [noticeBits]

/-- The notice line follows the raw flags and their enables, bit by bit. -/
theorem Port.asserted_eq (p : Port) :
    p.asserted = decide (∃ i : Fin 5, p.raw.getLsbD i = true ∧ p.enables.getLsbD i = true) := by
  unfold Port.asserted
  refine decide_eq_decide.2 ⟨fun h => ?_, fun ⟨i, hr, he⟩ h => ?_⟩
  · by_contra none
    refine h (BitVec.eq_of_getLsbD_eq fun i hi => ?_)
    have := fun j => not_exists.1 none j
    have bit := this ⟨i, hi⟩
    rw [BitVec.getLsbD_and]
    simpa using bit
  · have bit : (p.raw &&& p.enables).getLsbD i = false := by
      rw [h]
      exact BitVec.getLsbD_zero
    rw [BitVec.getLsbD_and, hr, he] at bit
    cases bit

/-! ### CTL without a reset request -/

theorem exec_ctl {c : Instr} {run auto : Bool} (h : c = .ctlRun run auto ∨ c = .ctlAuto run auto) (s : State) :
    exec c s = .next (s.ctlWrite run auto) := by
  rcases h with h | h <;> subst h <;> rfl

theorem State.ctlWrite_none {s : State} (run auto : Bool) (h : s.port.reset = none) :
    s.ctlWrite run auto = (s.finish (s.withPort (s.port.switches run auto))).arbitrate := by
  unfold State.ctlWrite
  rw [h]
  rfl

theorem State.ctlWrite_reset {s : State} {r : ResetRun} (run auto : Bool) (h : s.port.reset = some r)
    (k : r.kind ≠ .powerOn) : s.ctlWrite run auto = s.finish s.misuse := by
  unfold State.ctlWrite
  rw [h, Option.map_some]
  cases hk : r.kind with
  | powerOn => exact absurd hk k
  | soft => rfl
  | exchange => rfl

theorem State.ctlWrite_powerOn {s : State} {r : ResetRun} (run auto : Bool) (h : s.port.reset = some r)
    (k : r.kind = .powerOn) : s.ctlWrite run auto = s.finish s := by
  unfold State.ctlWrite
  rw [h, Option.map_some, k]

/-! ### Writes to the window -/

theorem Memory.hostWrite_wf (l : List Byte) : ∀ (m : Memory) (a : Nat), Memory.wf m = true →
    Memory.wf (m.hostWrite a l) = true := by
  induction l with
  | nil => exact fun _ _ h => h
  | cons b t ih =>
    intro m a h
    unfold Memory.hostWrite
    refine ih _ _ ?_
    split
    · exact Memory.write_wf a b h
    · exact h

/-- A host write stores the bytes that fall in pool cells. -/
theorem Memory.read_hostWrite (l : List Byte) : ∀ (m : Memory) (a i : Nat), Memory.wf m = true →
    (m.hostWrite a l).read i =
      if a ≤ i ∧ i < a + l.length ∧ 0x900 ≤ i ∧ i < 0x20000 then l.getD (i - a) 0#8 else m.read i := by
  induction l with
  | nil =>
    intro m a i _
    rw [if_neg (by simp; omega)]
    rfl
  | cons b t ih =>
    intro m a i h
    have wf : Memory.wf (if poolOffset a then m.write a b else m) = true := by
      split
      · exact Memory.write_wf a b h
      · exact h
    have first : Memory.read (if poolOffset a then m.write a b else m) i =
        if i = a ∧ 0x900 ≤ i ∧ i < 0x20000 then b else m.read i := by
      by_cases pool : poolOffset a = true
      · rw [if_pos pool, Memory.read_write _ _ _ h]
        simp only [poolOffset, decide_eq_true_eq] at pool
        by_cases e : i = a
        · rw [if_pos e, if_pos ⟨e, by omega⟩]
        · rw [if_neg e, if_neg fun k => e k.1]
      · rw [if_neg pool, if_neg]
        rintro ⟨e, k⟩
        subst e
        simp [poolOffset, k] at pool
    show (Memory.hostWrite (if poolOffset a then m.write a b else m) (a + 1) t).read i = _
    rw [ih _ _ _ wf, first, List.length_cons]
    by_cases e : i = a
    · subst e
      rw [if_neg (by omega), Nat.sub_self, List.getD_cons_zero]
      congr 1
      exact propext ⟨fun h => ⟨by omega, by omega, h.2⟩, fun h => ⟨rfl, h.2.2⟩⟩
    · rw [if_neg (fun k => e k.1 : ¬ (i = a ∧ 0x900 ≤ i ∧ i < 0x20000))]
      by_cases inside : a + 1 ≤ i ∧ i < a + 1 + t.length ∧ 0x900 ≤ i ∧ i < 0x20000
      · rw [if_pos inside, if_pos (by omega), show i - a = (i - (a + 1)) + 1 by omega, List.getD_cons_succ]
      · rw [if_neg inside, if_neg (by omega)]

end Sys2Proof.Machine

open Sys2Proof Sys2Proof.Machine

/-- Settles O55. -/
theorem noticeAndControlRegisters : Obligations.NoticeAndControlRegisters := by
  refine ⟨fun s v => ⟨⟨_, rfl, s.finish_withPort_onlyPort _, Port.asserted_eq _, rfl, fun i => ?_⟩,
      ⟨_, rfl, s.finish_withPort_onlyPort _, Port.asserted_eq _, rfl, fun i => ?_⟩,
      ⟨_, rfl, s.finish_withPort_onlyPort _, Port.asserted_eq _, rfl, fun i => ?_⟩⟩,
    fun s run auto c hc => ⟨fun h => ?_, fun r h k => ?_, fun r h k => ?_⟩⟩
  · show (s.port.raw &&& ~~~(noticeBits v)).getLsbD i = _
    rw [BitVec.getLsbD_and, BitVec.getLsbD_not, noticeBits_getLsbD, decide_eq_true i.isLt, Bool.true_and]
  · show (s.port.enables ||| noticeBits v).getLsbD i = _
    rw [BitVec.getLsbD_or, noticeBits_getLsbD]
  · show (s.port.enables &&& ~~~(noticeBits v)).getLsbD i = _
    rw [BitVec.getLsbD_and, BitVec.getLsbD_not, noticeBits_getLsbD, decide_eq_true i.isLt, Bool.true_and]
  · rw [exec_ctl hc, State.ctlWrite_none run auto h]
    exact ⟨_, rfl, s.finish_withPort_onlyPort _, rfl⟩
  · rw [exec_ctl hc, State.ctlWrite_reset run auto h k]
    exact ⟨_, rfl, s.finish_misuse⟩
  · rw [exec_ctl hc, State.ctlWrite_powerOn run auto h k]
    exact ⟨_, rfl, s.finish_onlyPort, rfl⟩

/-- Settles O59, by induction on the bytes written. -/
theorem hostWriteStoresInCells : Obligations.HostWriteStoresInCells := by
  intro s offset data range wf
  refine ⟨s.finish (s.withPort { s.port with memory := s.port.memory.hostWrite offset.toNat data }), ?_,
    s.finish_withPort_onlyPort _, rfl, fun a => Memory.read_hostWrite data _ _ a wf⟩
  show execHostCellWrite offset data s = _
  unfold execHostCellWrite
  rw [if_pos range]

end


section
/-! The soft and the power-on reset, and the end of any reset. -/

namespace Sys2Proof.Machine

/-! ### Cells at the beginning of a reset -/

theorem Port.cell_mapTable {p q : Port} (f : CellState → CellState) (h : q.cells = mapTable f p.cells) (c : Nat) :
    q.cell c = (p.cell c).map f := by
  unfold Port.cell
  rw [Option.map_map]
  congr 1
  funext i
  rw [h, mapTable_get]
  rfl

/-- The QUEUED and the ACTIVE cells become FREE, and no other cell changes. -/
theorem Port.cell_freed {p q : Port}
    (h : q.cells = mapTable (fun st => if st = .queued ∨ st = .active then .free else st) p.cells) (c : Nat) :
    q.cell c = if p.cell c = some .queued ∨ p.cell c = some .active then some .free else p.cell c := by
  rw [Port.cell_mapTable _ h]
  cases p.cell c with
  | none => simp
  | some st =>
    simp only [Option.map_some, Option.some.injEq]
    split
    · rfl
    · rfl

theorem Port.cell_replicate {p : Port} {st : CellState} (h : p.cells = Vector.replicate 503 st) {c : Nat}
    (low : 9 ≤ c) (high : c ≤ 511) : p.cell c = some st := by
  unfold Port.cell
  rw [h, poolIndex_eq, dif_pos ⟨low, high⟩, Option.map_some, vector_replicate_get]

theorem exec_softReset_begins {s : State} (run auto xreset : Bool)
    (h : s.port.reset = none ∨ ∃ r, s.port.reset = some r ∧ r.kind = .exchange) :
    exec (.softReset run auto xreset) s = .next (s.finish (s.beginSoft run auto)) := by
  show execSoftReset run auto xreset s = _
  unfold execSoftReset
  rcases h with h | ⟨r, h, k⟩
  · rw [h]
    rfl
  · rw [h, Option.map_some, k]

/-! ### The end of a reset -/

/-- A state that an attempt to emit from `x` leads to, the header being written afresh. -/
theorem State.tries_finishReset (x : State) : x.tries x.attempt.finishReset := ⟨rfl, rfl⟩

theorem State.attempt_port_only (x : State) :
    x.attempt = { x with port := x.attempt.port, reports := x.attempt.reports } := rfl

/-- Raising further flags leaves a flag raised. -/
theorem raised_or {w b : BitVec 5} (c : BitVec 5) (h : w &&& b = b) : (w ||| c) &&& b = b := by
  refine BitVec.eq_of_getLsbD_eq fun i _ => ?_
  have bit : (w &&& b).getLsbD i = b.getLsbD i := by rw [h]
  rw [BitVec.getLsbD_and] at bit
  rw [BitVec.getLsbD_and, BitVec.getLsbD_or]
  revert bit
  cases w.getLsbD i <;> cases b.getLsbD i <;> simp

theorem or_raised (w b : BitVec 5) : (w ||| b) &&& b = b := by
  rw [BitVec.or_comm]
  exact raised_or w BitVec.and_self

theorem Port.announce_raises (p : Port) (a : Announcement) (b : BitVec 5) (h : p.raw &&& b = b) :
    (p.announce a).raw &&& b = b := by
  unfold Port.announce Port.writeEntry
  split
  · exact h
  · exact raised_or outBit h

/-- An emission lowers no notice. -/
theorem emitOne_raises (item : PendingSubject → List Byte) (x : Port × Reports) (b : BitVec 5)
    (h : x.1.raw &&& b = b) : (emitOne item x).1.raw &&& b = b := by
  unfold emitOne
  split
  · exact h
  · refine Port.announce_raises _ _ _ ?_
    have raw : ∀ (p : Port) (c : Nat) (st : CellState), (p.setCell c st).raw = p.raw := fun p c st =>
      Port.setCells_raw p [c] st
    rw [raw, raw]
    exact h

theorem emitLoop_raises (item : PendingSubject → List Byte) (reserve n : Nat) (b : BitVec 5) (x : Port × Reports)
    (h : x.1.raw &&& b = b) : (emitLoop item reserve n x).1.raw &&& b = b := by
  induction n generalizing x with
  | zero => exact h
  | succ n ih =>
    unfold emitLoop
    split
    · exact h
    · exact ih _ (emitOne_raises item x b h)

theorem State.attempt_raises (s : State) (b : BitVec 5) (h : s.port.raw &&& b = b) :
    s.attempt.port.raw &&& b = b := by
  show (emitAttempt s.item s.site.params.reserve (s.port, s.reports)).1.raw &&& b = b
  unfold emitAttempt
  split
  · exact h
  · split
    · exact raised_or starvedBit h
    · exact emitLoop_raises _ _ _ _ _ h

end Sys2Proof.Machine

open Sys2Proof Sys2Proof.Machine

/-- Settles O56. -/
theorem softResetBegins : Obligations.SoftResetBegins := by
  refine fun s run auto xreset => ⟨fun h => ?_, fun r h k => ?_, fun r h k => ?_⟩
  · rw [exec_softReset_begins run auto xreset h]
    exact ⟨_, rfl, rfl, rfl, rfl, vector_replicate_get _, fun z => ⟨mapTable_get _ _ _, mapTable_get _ _ _⟩, rfl, rfl,
      rfl, rfl, rfl, Port.cell_freed rfl, rfl⟩
  · refine ⟨s.finish s.misuse, ?_, s.finish_misuse⟩
    show execSoftReset run auto xreset s = _
    unfold execSoftReset
    rw [h, Option.map_some, k]
  · show execSoftReset run auto xreset s = _
    unfold execSoftReset
    rw [h, Option.map_some, k]

/-- Settles O58. -/
theorem powerOnResetAndResetEnd : Obligations.PowerOnResetAndResetEnd := by
  refine ⟨fun s => ⟨s.powered, rfl, rfl, rfl, rfl, rfl, rfl, fun z => mapTable_get _ _ _, rfl, rfl, rfl, rfl, rfl,
    fun _ => rfl, ?_, rfl, rfl, rfl, rfl, rfl, rfl⟩, fun s r h => ?_⟩
  · show ∀ b ∈ Header.zeroed.bytes, b = 0#8
    decide +kernel
  · let x : State := { s with port := s.port.endReset r.kind, now := max s.now r.ends }
    have keeps : x.port.Keeps x.attempt.port := x.attempt_keeps
    obtain ⟨reset, run, auto, enables, data, -⟩ := keeps
    have free : ∀ c, 9 ≤ c → c ≤ 511 → x.port.cell c = some .free := fun c => Port.cell_replicate rfl
    refine ⟨x.attempt.finishReset, ?_, ⟨rfl, rfl, rfl, rfl⟩, ⟨rfl, rfl⟩, rfl, rfl, rfl, rfl, reset, rfl, data,
      x.attempt_raises _ (or_raised _ _), run, auto, enables, fun mem c low high => ?_, x, rfl, x.tries_finishReset,
      rfl, free, rfl, fun _ => rfl, rfl, rfl, ?_⟩
    · show execResetEnd s = _
      unfold execResetEnd
      rw [h]
    · have wf : x.port.memory.wf = true := by
        show Memory.wf (if r.kind = .powerOn then [] else s.port.memory) = true
        split
        · rfl
        · exact mem.1
      obtain ⟨-, -, reports⟩ := x.attempt_reports
      exact (reports c (free c low high)).imp id fun ⟨cell, code⟩ => ⟨cell, code wf⟩
    · show (if r.kind = .exchange then s.port.raw else 0) ||| resetDoneBit = _
      split
      · rfl
      · exact BitVec.zero_or

end


section
/-! What a mark does to the pending set, and what a report cell holds (R158 to R163). -/

namespace Sys2Proof.Machine

/-! ### Marks (R158, R159) -/

theorem addMark_absent (x : Subject) (f : Byte) (h : Option (Nat × Nat)) (l : List PendingSubject)
    (none : ∀ q ∈ l, q.subject ≠ x) : addMark x f h l = l ++ [{ subject := x, flags := f, hit := h }] := by
  induction l with
  | nil => rfl
  | cons q t ih =>
    unfold addMark
    rw [if_neg (none q (.head _)), ih fun y hy => none y (.tail _ hy)]
    rfl

theorem addMark_present (x : Subject) (f : Byte) (h : Option (Nat × Nat)) (a : List PendingSubject)
    (q : PendingSubject) (b : List PendingSubject) (hq : q.subject = x) (none : ∀ y ∈ a, y.subject ≠ x) :
    addMark x f h (a ++ q :: b) = a ++ { q with flags := q.flags ||| f, hit := h.or q.hit } :: b := by
  induction a with
  | nil =>
    show addMark x f h (q :: b) = _
    unfold addMark
    rw [if_pos hq]
    rfl
  | cons y t ih =>
    show addMark x f h (y :: (t ++ q :: b)) = _
    unfold addMark
    rw [if_neg (none y (.head _)), ih fun z hz => none z (.tail _ hz)]
    rfl

/-! ### One report -/

theorem Port.announce_only (p : Port) (a : Announcement) :
    p.announce a =
      { p with
        outList := (p.announce a).outList
        outTotal := (p.announce a).outTotal
        backlog := (p.announce a).backlog
        raw := (p.announce a).raw } := by
  unfold Port.announce Port.writeEntry
  split <;> rfl

theorem Port.announce_rest {p q : Port} (h : p = { q with memory := p.memory, cells := p.cells }) (a : Announcement) :
    p.announce a =
      { q with
        cells := (p.announce a).cells
        memory := (p.announce a).memory
        outList := (p.announce a).outList
        outTotal := (p.announce a).outTotal
        backlog := (p.announce a).backlog
        raw := (p.announce a).raw } := by
  rw [Port.announce_cells, Port.announce_memory]
  refine (p.announce_only a).trans ?_
  generalize p.announce a = r
  rw [h]

/-- The memory after a report is written to a cell. -/
@[irreducible] def reportMemory (item : PendingSubject → List Byte) (x : Port × Reports) (c : Nat) : Memory :=
  (x.1.memory.writeAll (payloadOffset c 0) ((x.2.pending.take 15).flatMap item)).writeAll (cellOffset c 0)
    (reportHead (x.2.pending.take 15).length x.2.sequence)

/-- The port with a report in a cell, before it is announced. -/
@[irreducible] def reportPort (item : PendingSubject → List Byte) (x : Port × Reports) (c : Nat) : Port :=
  Port.setCells { x.1 with memory := reportMemory item x c } [c] .delivered

theorem emitOne_eq (item : PendingSubject → List Byte) (x : Port × Reports) {c : Nat}
    (h : x.1.lowestFree = some c) :
    emitOne item x = ((reportPort item x c).announce { cell := c, report := true, urgent := false },
      { x.2 with pending := x.2.pending.drop 15, sequence := x.2.sequence + 1 }) := by
  have twice := Port.setCells_twice { x.1 with memory := reportMemory item x c } [c] .building .delivered
  unfold emitOne
  rw [h]
  unfold reportPort
  rw [← twice]
  unfold reportMemory
  rfl

theorem reportPort_only (item : PendingSubject → List Byte) (x : Port × Reports) (c : Nat) :
    reportPort item x c =
      { x.1 with memory := reportMemory item x c, cells := (reportPort item x c).cells } := by
  unfold reportPort
  exact Port.setCells_only _ _ _

theorem reportPort_cell (item : PendingSubject → List Byte) (x : Port × Reports) {c : Nat}
    (h : x.1.cell c = some .free) (d : Nat) :
    (reportPort item x c).cell d = if d = c then some .delivered else x.1.cell d := by
  unfold reportPort
  rw [Port.cell_setCells]
  by_cases e : d = c
  · subst e
    rw [if_pos (List.mem_singleton.2 rfl), if_pos rfl]
    show (x.1.cell d).map _ = _
    rw [h]
    rfl
  · rw [if_neg (fun k => e (List.mem_singleton.1 k)), if_neg e]
    rfl

theorem read_reportMemory (item : PendingSubject → List Byte) (hi : ∀ q, (item q).length = 16) (x : Port × Reports)
    (c : Nat) (wf : x.1.memory.wf = true) (a : Nat) :
    (reportMemory item x c).read a =
      if c * 256 ≤ a ∧ a < c * 256 + 16 then
        (reportHead (x.2.pending.take 15).length x.2.sequence).getD (a - c * 256) 0#8
      else if c * 256 + 16 ≤ a ∧ a < c * 256 + 16 + 16 * (x.2.pending.take 15).length then
        ((x.2.pending.take 15).flatMap item).getD (a - (c * 256 + 16)) 0#8
      else x.1.memory.read a := by
  unfold reportMemory
  rw [Memory.read_writeAll _ _ _ (Memory.writeAll_wf _ _ wf), Memory.read_writeAll _ _ _ wf, cellOffset_zero,
    payloadOffset_zero, flatMap_length_le item 16 _ hi]
  rfl

/-- The bytes of a report head, read back. -/
theorem readAll_reportHead (item : PendingSubject → List Byte) (hi : ∀ q, (item q).length = 16)
    (x : Port × Reports) (c : Nat) (wf : x.1.memory.wf = true) (i n : Nat) (h : i + n ≤ 16) :
    (reportMemory item x c).readAll (cellOffset c i) n =
      ((reportHead (x.2.pending.take 15).length x.2.sequence).drop i).take n := by
  have len : (((reportHead (x.2.pending.take 15).length x.2.sequence).drop i).take n).length = n := by
    rw [List.length_take, List.length_drop]
    show min n (16 - i) = n
    omega
  have read := Memory.readAll_of (m := reportMemory item x c) (cellOffset c i)
    (((reportHead (x.2.pending.take 15).length x.2.sequence).drop i).take n) fun j hj => by
      rw [len] at hj
      rw [read_reportMemory item hi x c wf, if_pos (by simp only [cellOffset]; omega), List.getD_eq_getElem?_getD,
        List.getD_eq_getElem?_getD, List.getElem?_take_of_lt hj, List.getElem?_drop]
      congr 2
      simp only [cellOffset]
      omega
  rw [len] at read
  exact read

theorem readAll_reportItems (item : PendingSubject → List Byte) (hi : ∀ q, (item q).length = 16)
    (x : Port × Reports) (c : Nat) (wf : x.1.memory.wf = true) :
    (reportMemory item x c).readAll (payloadOffset c 0) (16 * (x.2.pending.take 15).length) =
      (x.2.pending.take 15).flatMap item := by
  have len := flatMap_length_le item 16 (x.2.pending.take 15) hi
  have read := Memory.readAll_of (m := reportMemory item x c) (payloadOffset c 0)
    ((x.2.pending.take 15).flatMap item) fun j hj => by
      rw [len] at hj
      rw [payloadOffset_zero, read_reportMemory item hi x c wf, if_neg (by omega), if_pos (by omega),
        Nat.add_sub_cancel_left]
  rw [len] at read
  exact read

theorem littleEndian_half (n : Nat) : littleEndian (half n) = n % 65536 := by
  simp only [half, littleEndian, byte_toNat]
  omega

/-! ### Several reports -/

theorem emitOne_pending (item : PendingSubject → List Byte) (x : Port × Reports) (h : x.1.freeCount ≠ 0) :
    (emitOne item x).2.pending = x.2.pending.drop 15 := by
  obtain ⟨c, hc⟩ := Option.isSome_iff_exists.1 (Port.lowestFree_isSome h)
  rw [emitOne_eq item x hc]

/-- The number of reports allowed does not matter once it reaches the number of pending subjects. -/
theorem emitLoop_fuel (item : PendingSubject → List Byte) (reserve n m : Nat) (x : Port × Reports)
    (hn : x.2.pending.length ≤ n) (hm : x.2.pending.length ≤ m) :
    emitLoop item reserve n x = emitLoop item reserve m x := by
  induction n generalizing m x with
  | zero =>
    have none : x.2.pending = [] := List.eq_nil_of_length_eq_zero (by omega)
    cases m with
    | zero => rfl
    | succ m =>
      unfold emitLoop
      rw [if_pos (.inl none)]
  | succ n ih =>
    cases m with
    | zero =>
      have none : x.2.pending = [] := List.eq_nil_of_length_eq_zero (by omega)
      unfold emitLoop
      rw [if_pos (.inl none)]
    | succ m =>
      unfold emitLoop
      by_cases stop : x.2.pending = [] ∨ x.1.freeCount ≤ reserve
      · rw [if_pos stop, if_pos stop]
      · rw [if_neg stop, if_neg stop]
        have some : x.2.pending.length ≠ 0 := fun e => stop (.inl (List.eq_nil_of_length_eq_zero e))
        have shorter := congrArg List.length (emitOne_pending item x fun e => stop (.inr (by omega)))
        rw [List.length_drop] at shorter
        exact ih m _ (by omega) (by omega)

/-- Above the reserve an attempt emits one report, and goes on as long as subjects and cells are left. -/
theorem State.attempt_emits (s : State) (pending : s.reports.pending ≠ []) (reset : s.port.reset = none)
    (above : s.site.params.reserve < s.port.freeCount) :
    let y := emitOne s.item (s.port, s.reports)
    let t : State := { s with port := y.1, reports := y.2 }
    s.attempt = if t.reports.pending ≠ [] ∧ s.site.params.reserve < t.port.freeCount then t.attempt else t := by
  intro y t
  obtain ⟨n, hn⟩ := Nat.exists_eq_succ_of_ne_zero fun e => pending (List.eq_nil_of_length_eq_zero e)
  have first : emitAttempt s.item s.site.params.reserve (s.port, s.reports) =
      emitLoop s.item s.site.params.reserve n y := by
    unfold emitAttempt
    rw [if_neg (by simp [pending, reset]), if_neg (Nat.not_le.2 above), hn, emitLoop,
      if_neg (by simp [pending, above])]
  have attempt : s.attempt = { s with
      port := (emitLoop s.item s.site.params.reserve n y).1
      reports := (emitLoop s.item s.site.params.reserve n y).2 } := by
    show ({ s with
      port := (emitAttempt s.item s.site.params.reserve (s.port, s.reports)).1
      reports := (emitAttempt s.item s.site.params.reserve (s.port, s.reports)).2 } : State) = _
    rw [first]
  have shorter : y.2.pending.length ≤ n := by
    rw [emitOne_pending _ _ (by show s.port.freeCount ≠ 0; omega), List.length_drop]
    show s.reports.pending.length - 15 ≤ n
    omega
  rw [attempt]
  split
  · next more =>
    have kept : y.1.reset = none := ((emitOne_keeps s.item (s.port, s.reports)).1.1).trans reset
    have again : emitAttempt s.item s.site.params.reserve y =
        emitLoop s.item s.site.params.reserve y.2.pending.length y := by
      unfold emitAttempt
      rw [if_neg (not_or.2 ⟨more.1, fun k => k kept⟩), if_neg (Nat.not_le.2 more.2)]
    have fuel := emitLoop_fuel s.item s.site.params.reserve n y.2.pending.length y shorter le_rfl
    show _ = ({ s with
      port := (emitAttempt s.item s.site.params.reserve y).1
      reports := (emitAttempt s.item s.site.params.reserve y).2 } : State)
    rw [again, fuel]
  · next stop =>
    have stays : emitLoop s.item s.site.params.reserve n y = y := by
      cases n with
      | zero => rfl
      | succ n =>
        rw [emitLoop, if_pos]
        by_contra k
        exact stop ⟨fun e => k (.inl e), Nat.not_le.1 fun e => k (.inr e)⟩
    rw [stays]

end Sys2Proof.Machine

open Sys2Proof Sys2Proof.Machine

/-- Settles O60: one report at a time, the reports that follow by the same rule. -/
theorem emissionBuildsReports : Obligations.EmissionBuildsReports := by
  refine fun s => ⟨fun x f h => ⟨addMark x f h s.reports.pending, rfl, fun a q b hp hq none => ?_, fun none => ?_⟩,
    fun h => ?_, fun pending reset below => ?_, fun c mem pending reset above free lowest => ?_⟩
  · rw [hp, addMark_present x f h a q b hq none, ← hq]
    cases h <;> rfl
  · exact addMark_absent x f h _ none
  · rcases h with h | h
    · exact s.attempt_empty h
    · exact congrArg (fun x : Port × Reports => ({ s with port := x.1, reports := x.2 } : State))
        (emitAttempt_in_reset s.item s.site.params.reserve (s.port, s.reports) h)
  · have held : emitAttempt s.item s.site.params.reserve (s.port, s.reports) =
        (s.port.raise starvedBit, { s.reports with starved := min (s.reports.starved + 1) 65535 }) := by
      unfold emitAttempt
      rw [if_neg (by simp [pending, reset]), if_pos below]
    exact congrArg (fun x : Port × Reports => ({ s with port := x.1, reports := x.2 } : State)) held
  · obtain ⟨d, hd⟩ := Option.isSome_iff_exists.1 (Port.lowestFree_isSome (p := s.port) (by omega))
    obtain ⟨dfree, dlowest⟩ := Port.lowestFree_some hd
    have same : d = c := Nat.le_antisymm (Nat.le_of_not_lt fun l => dlowest c l free)
      (Nat.le_of_not_lt fun l => lowest d l dfree)
    subst same
    have one := emitOne_eq s.item (s.port, s.reports) hd
    have items : (s.reports.pending.take 15).length ≤ 15 := List.length_take_le _ _
    obtain ⟨wf, out, -⟩ := mem
    have field : ∀ i n, i + n ≤ 16 → ((reportPort s.item (s.port, s.reports) d).announce
        { cell := d, report := true, urgent := false }).headField d i n =
        littleEndian (((reportHead (s.reports.pending.take 15).length s.reports.sequence).drop i).take n) :=
      fun i n h => by
        unfold Port.headField
        rw [Port.announce_memory, reportPort_only]
        exact congrArg littleEndian (readAll_reportHead s.item s.item_length (s.port, s.reports) d wf i n h)
    refine ⟨{ s with
      port := (reportPort s.item (s.port, s.reports) d).announce { cell := d, report := true, urgent := false }
      reports := { s.reports with pending := s.reports.pending.drop 15, sequence := s.reports.sequence + 1 } },
      ?_, rfl, rfl, rfl, rfl, fun c => ?_, field 0 1 (by decide), field 1 1 (by decide),
      (field 2 2 (by decide)).trans ?_, (field 4 2 (by decide)).trans (littleEndian_half 0xFFFF), field 6 1 (by decide), field 7 1 (by decide),
      (field 8 4 (by decide)).trans (littleEndian_word _), (field 12 4 (by decide)).trans ?_, ?_, fun a ha => ?_, ?_,
      ?_, ?_⟩
    · have emits := s.attempt_emits pending reset above
      rw [one] at emits
      exact emits
    · rw [Port.announce_cell]
      exact reportPort_cell s.item (s.port, s.reports) free c
    · refine (littleEndian_half _).trans ?_
      omega
    · refine (littleEndian_word _).trans ?_
      rw [BitVec.toNat_ofNat]
      omega
    · show Memory.readAll (Port.announce _ _).memory _ _ = _
      rw [Port.announce_memory, reportPort_only]
      exact readAll_reportItems s.item s.item_length (s.port, s.reports) d wf
    · show Memory.read (Port.announce _ _).memory a = _
      rw [Port.announce_memory, reportPort_only]
      refine (read_reportMemory s.item s.item_length (s.port, s.reports) d wf a).trans ?_
      rw [if_neg (by omega), if_neg (by dsimp only; omega)]
    · refine Port.announces_congr (p := reportPort s.item (s.port, s.reports) d) ?_ ?_ ⟨rfl, rfl, rfl⟩ rfl
        (Port.announce_announces _ _ ?_) <;> rw [reportPort_only]
      · exact ⟨rfl, rfl, rfl⟩
      · exact out
    · refine Port.announce_rest (q := s.port) ?_ _
      rw [reportPort_only]
    · refine (Port.announce_raw _ _).trans ?_
      rw [reportPort_only]

end


section
/-! CLAIM, GIVE and HAND: the cells that pass between the host and the device, and the out list (R148 to R152). -/

namespace Sys2Proof.Machine

/-! ### The end of the life of out-list entries -/

/-- A slot of the out list after some cells have left the host's side. -/
def OutSlot.without (x : OutSlot) (cs : List Nat) : OutSlot :=
  { x with live := x.live && !(x.entry.map fun a => cs.contains a.cell).getD false }

theorem OutSlot.without_nil (x : OutSlot) : x.without [] = x := by
  unfold OutSlot.without
  cases x with
  | mk entry live => cases entry <;> simp

theorem OutSlot.without_cons (x : OutSlot) (c : Nat) (cs : List Nat) :
    (x.without [c]).without cs = x.without (c :: cs) := by
  unfold OutSlot.without
  cases x with
  | mk entry live =>
    cases entry with
    | none => simp
    | some a =>
      simp only [Option.map_some, Option.getD_some, List.contains_cons, List.contains_nil, Bool.or_false,
        Bool.not_or, Bool.and_assoc]

theorem OutSlot.without_singleton (x : OutSlot) (c : Nat) :
    (if x.entry.map Announcement.cell = some c then { x with live := false } else x) = x.without [c] := by
  unfold OutSlot.without
  cases x with
  | mk entry live =>
    cases entry with
    | none => simp
    | some a =>
      by_cases e : a.cell = c <;> simp [e]

theorem OutSlot.zero_without (cs : List Nat) : OutSlot.zero.without cs = OutSlot.zero := rfl

theorem sparseGet_map {α : Type} (d : α) (f : α → α) (h : f d = d) (l : Sparse α) (i : Nat) :
    sparseGet d (l.map fun e => (e.1, f e.2)) i = f (sparseGet d l i) := by
  induction l with
  | nil => exact h.symm
  | cons e t ih =>
    obtain ⟨k, v⟩ := e
    show (if k = i then f v else _) = f (if k = i then v else _)
    split
    · rfl
    · exact ih

theorem Port.slot_forget (p : Port) (c i : Nat) :
    sparseGet OutSlot.zero (p.forget c).outList i = (sparseGet OutSlot.zero p.outList i).without [c] := by
  show sparseGet OutSlot.zero (p.outList.map _) i = _
  simp only [OutSlot.without_singleton]
  exact sparseGet_map _ (fun x : OutSlot => x.without [c]) (OutSlot.zero_without _) _ _

theorem Port.slot_forgets (cs : List Nat) (p : Port) (i : Nat) :
    sparseGet OutSlot.zero (cs.foldl Port.forget p).outList i = (sparseGet OutSlot.zero p.outList i).without cs := by
  induction cs generalizing p with
  | nil => exact (OutSlot.without_nil _).symm
  | cons c t ih => rw [List.foldl_cons, ih, Port.slot_forget, OutSlot.without_cons]

theorem Port.forgets_backlog (cs : List Nat) (p : Port) :
    (cs.foldl Port.forget p).backlog = p.backlog.filter fun a => !cs.contains a.cell := by
  induction cs generalizing p with
  | nil =>
    show p.backlog = _
    simp
  | cons c t ih =>
    rw [List.foldl_cons, ih]
    show (p.backlog.filter _).filter _ = _
    rw [List.filter_filter]
    congr 1
    funext a
    rw [Bool.and_comm]
    simp

theorem Port.forgets_total (cs : List Nat) (p : Port) :
    (cs.foldl Port.forget p).outTotal = p.outTotal ∧ (cs.foldl Port.forget p).raw = p.raw := by
  induction cs generalizing p with
  | nil => exact ⟨rfl, rfl⟩
  | cons c t ih => exact ih (p.forget c)

/-! ### Held deliveries written out -/

theorem word_add_one_slot (w : Word) (k : Nat) : ((w + 1).toNat + k) % 512 = (w.toNat + (k + 1)) % 512 := by
  rw [BitVec.toNat_add]
  show ((w.toNat + 1) % 4294967296 + k) % 512 = _
  omega

/-- What a drain writes: deliveries from the head of the backlog, each to the next slot, none of which was live, until the
next slot is live. A slot written is live, so at most 512 are. -/
theorem Port.drain_written (l : List Announcement) (q : Port) (ok : sparseOk OutSlot.zero q.outList = true) :
    ∃ written : List Announcement, written.length ≤ 512 ∧ l = written ++ (Port.drain l q).backlog ∧
      (Port.drain l q).outTotal = q.outTotal + BitVec.ofNat 32 written.length ∧
      (Port.drain l q).raw = (if written = [] then q.raw else q.raw ||| outBit) ∧
      ((Port.drain l q).backlog ≠ [] → (Port.drain l q).blocked = true) ∧
      (∀ (k : Nat) (a : Announcement), written[k]? = some a →
        sparseGet OutSlot.zero (Port.drain l q).outList ((q.outTotal.toNat + k) % 512) =
          { entry := some a, live := true }) ∧
      ∀ i, ((∃ k, k < written.length ∧ i = (q.outTotal.toNat + k) % 512) →
          (sparseGet OutSlot.zero q.outList i).live = false) ∧
        ((∀ k, k < written.length → i ≠ (q.outTotal.toNat + k) % 512) →
          sparseGet OutSlot.zero (Port.drain l q).outList i = sparseGet OutSlot.zero q.outList i) := by
  induction l generalizing q with
  | nil =>
    exact ⟨[], by simp, rfl, (BitVec.add_zero _).symm, rfl, fun h => absurd rfl h, by simp,
      fun i => ⟨fun ⟨_, h, _⟩ => absurd h (Nat.not_lt_zero _), fun _ => rfl⟩⟩
  | cons a t ih =>
    by_cases blocked : q.blocked = true
    · have stop : Port.drain (a :: t) q = { q with backlog := a :: t } := by
        rw [Port.drain, if_pos blocked]
      rw [stop]
      exact ⟨[], by simp, rfl, (BitVec.add_zero _).symm, rfl, fun _ => blocked, by simp,
        fun i => ⟨fun ⟨_, h, _⟩ => absurd h (Nat.not_lt_zero _), fun _ => rfl⟩⟩
    · have go : Port.drain (a :: t) q = Port.drain t (q.writeEntry a) := by
        rw [Port.drain, if_neg blocked]
      have slot : ∀ i, sparseGet OutSlot.zero (q.writeEntry a).outList i =
          if i = q.nextSlot then { entry := some a, live := true } else sparseGet OutSlot.zero q.outList i :=
        fun i => sparseGet_set _ _ _ ok
      have open' : (sparseGet OutSlot.zero q.outList q.nextSlot).live = false := by
        simpa [Port.blocked] using blocked
      obtain ⟨written, len, split, total, raw, held, entries, slots⟩ := ih (q.writeEntry a) (sparseSet_ok _ _ ok)
      have next : ∀ k, ((q.writeEntry a).outTotal.toNat + k) % 512 = (q.outTotal.toNat + (k + 1)) % 512 :=
        word_add_one_slot q.outTotal
      simp only [next] at entries slots
      have kept : ∀ k, k < written.length → q.nextSlot ≠ (q.outTotal.toNat + (k + 1)) % 512 := fun k hk e => by
        have dead := (slots q.nextSlot).1 ⟨k, hk, e⟩
        rw [slot, if_pos rfl] at dead
        cases dead
      have short : written.length ≤ 511 := by
        by_contra long
        exact kept 511 (by omega) (by show q.outTotal.toNat % 512 = _; omega)
      rw [go]
      refine ⟨a :: written, by rw [List.length_cons]; omega, by rw [List.cons_append, ← split], ?_, ?_, held, ?_,
        fun i => ⟨?_, fun other => ?_⟩⟩
      · rw [total]
        show q.outTotal + 1 + _ = _
        rw [List.length_cons, BitVec.add_assoc]
        congr 1
        exact BitVec.eq_of_toNat_eq (by simp [BitVec.toNat_add, Nat.add_comm])
      · rw [raw, if_neg (List.cons_ne_nil _ _)]
        show (if written = [] then q.raw ||| outBit else q.raw ||| outBit ||| outBit) = _
        rw [BitVec.or_assoc, BitVec.or_self, ite_self]
      · intro k b hb
        cases k with
        | zero =>
          obtain rfl : a = b := by simpa using hb
          have last := (slots q.nextSlot).2 kept
          rw [slot, if_pos rfl] at last
          exact last
        | succ k => exact entries k b (by simpa using hb)
      · rintro ⟨k, hk, e⟩
        cases k with
        | zero =>
          rw [e]
          exact open'
        | succ k =>
          have ne : i ≠ q.nextSlot := fun h => kept k (by simpa using hk) (h ▸ e)
          have dead := (slots i).1 ⟨k, by simpa using hk, e⟩
          rw [slot, if_neg ne] at dead
          exact dead
      · have ne : i ≠ q.nextSlot := other 0 (by simp)
        have same := (slots i).2 fun k hk => other (k + 1) (by simpa using hk)
        rw [slot, if_neg ne] at same
        exact same

/-- Cells that leave the host's side end the life of their entries and let held deliveries out (R152). -/
theorem Port.leave_drains (p : Port) (cs : List Nat) (ok : sparseOk OutSlot.zero p.outList = true) :
    p.drains (p.leave cs) cs := by
  have okq : sparseOk OutSlot.zero (cs.foldl Port.forget p).outList = true := by
    obtain ⟨-, -, -, -, -, -, -, -, h⟩ := p.stays_forgets cs
    exact h ok
  obtain ⟨written, len, split, total, raw, held, entries, slots⟩ :=
    Port.drain_written (cs.foldl Port.forget p).backlog (cs.foldl Port.forget p) okq
  obtain ⟨sameTotal, sameRaw⟩ := Port.forgets_total cs p
  have filtered := Port.forgets_backlog cs p
  rw [sameTotal] at total entries slots
  rw [sameRaw] at raw
  simp only [Port.slot_forgets] at slots
  refine ⟨written, len, filtered.symm.trans split, total, raw, held, entries, fun i => ?_⟩
  obtain ⟨dead, rest⟩ := slots i
  refine ⟨fun h => ?_, rest⟩
  have off : ((sparseGet OutSlot.zero p.outList i).live &&
    !((sparseGet OutSlot.zero p.outList i).entry.map fun a => cs.contains a.cell).getD false) = false := dead h
  exact (Bool.and_eq_false_iff.1 off).imp id fun e => by simpa using e

/-- With no delivery held, the out list changes by the end of the entries' lives alone. -/
theorem Port.leave_empty {p : Port} (cs : List Nat) (empty : p.backlog = []) :
    (p.leave cs).backlog = [] ∧ (p.leave cs).raw = p.raw ∧ (p.leave cs).outTotal = p.outTotal ∧
      ∀ i, sparseGet OutSlot.zero (p.leave cs).outList i = (sparseGet OutSlot.zero p.outList i).without cs := by
  have filtered := Port.forgets_backlog cs p
  rw [empty, List.filter_nil] at filtered
  have leave : p.leave cs = { cs.foldl Port.forget p with backlog := [] } := by
    unfold Port.leave
    dsimp only
    rw [filtered]
    rfl
  obtain ⟨total, raw⟩ := Port.forgets_total cs p
  rw [leave]
  exact ⟨rfl, raw, total, Port.slot_forgets cs p⟩

theorem OutSlot.without_one (x : OutSlot) (n : Nat) :
    x.without [n] = { x with live := x.live && !(x.entry.map fun a => decide (a.cell = n)).getD false } := by
  unfold OutSlot.without
  cases x.entry with
  | none => rfl
  | some a => simp

/-! ### CLAIM and GIVE -/

theorem lowHalf_eq (v : Word) : lowHalf v = v.toNat % 65536 := by
  simp [lowHalf, BitVec.extractLsb'_toNat]

theorem Port.lowestFree_eq {p : Port} {c : Nat} (free : p.cell c = some .free)
    (lowest : ∀ d, d < c → p.cell d ≠ some .free) : p.lowestFree = some c := by
  have some : p.lowestFree ≠ none := fun e => by
    unfold Port.lowestFree at e
    rw [Option.map_eq_none_iff, List.findIdx?_eq_none_iff] at e
    unfold Port.cell at free
    obtain ⟨i, -, hi⟩ := Option.map_eq_some_iff.1 free
    have := e p.cells[i] (by simp)
    simp [hi] at this
  obtain ⟨d, hd⟩ := Option.ne_none_iff_exists'.1 some
  obtain ⟨dfree, dlowest⟩ := Port.lowestFree_some hd
  rw [hd, Nat.le_antisymm (Nat.le_of_not_lt fun l => dlowest c l free) (Nat.le_of_not_lt fun l => lowest d l dfree)]

theorem Port.setCell_only (p : Port) (c : Nat) (st : CellState) :
    p.setCell c st = { p with cells := (p.setCell c st).cells } := Port.setCells_only p [c] st

theorem Port.claimed_some {p : Port} {c : Nat} (reset : p.reset = none) (h : p.lowestFree = some c) :
    p.claimed = { p with cells := (p.setCell c .held).cells, readData := BitVec.ofNat 32 c } := by
  have some : (if p.reset.isSome then none else p.lowestFree) = some c := by
    rw [reset]
    exact h
  unfold Port.claimed
  rw [some]
  exact congrArg (fun q : Port => { q with readData := BitVec.ofNat 32 c }) (Port.setCell_only p c .held)

theorem exec_claim (s : State) : exec .claim s = .next (s.finish (s.withPort s.port.claimed)) := rfl

theorem Port.claimed_none {p : Port} (h : p.reset ≠ none ∨ p.lowestFree = none) :
    p.claimed = { p with readData := 0xFFFF#32 } := by
  unfold Port.claimed
  have none : (if p.reset.isSome then none else p.lowestFree) = none := by
    split
    · rfl
    · next e => exact h.resolve_left fun k => e (Option.isSome_iff_ne_none.2 k)
  rw [none]

/-- The port after a cell the host holds is given back. -/
def Port.given (p : Port) (n : Nat) : Port := (p.setCell n .free).leave [n]

theorem Port.given_memory (p : Port) (n : Nat) : (p.given n).memory = p.memory := by
  unfold Port.given
  rw [Port.leave_memory, Port.setCell_memory]

theorem Port.hostSide_not_free {p : Port} {n : Nat} (h : p.hostSide n = true) :
    ∃ st, p.cell n = some st ∧ st ≠ .free := by
  unfold Port.hostSide at h
  rcases of_decide_eq_true h with e | e <;> exact ⟨_, e, by decide⟩

theorem Port.given_cell {p : Port} {n : Nat} (h : p.hostSide n = true) (c : Nat) :
    (p.given n).cell c = if c = n then some .free else p.cell c := by
  unfold Port.given
  rw [Port.cell_congr (Port.leave_cells _ _), Port.cell_setCell]
  by_cases e : c = n
  · subst e
    obtain ⟨st, hst, -⟩ := Port.hostSide_not_free h
    rw [if_pos rfl, if_pos rfl, hst, Option.map_some]
  · rw [if_neg e, if_neg e]

theorem Port.given_drains (p : Port) (n : Nat) (ok : sparseOk OutSlot.zero p.outList = true) :
    p.drains (p.given n) [n] := by
  unfold Port.given
  have drains := Port.leave_drains (p.setCell n .free) [n] (by rw [Port.setCell_only]; exact ok)
  rw [Port.setCell_only] at drains ⊢
  exact drains

theorem Port.given_keeps (p : Port) (n : Nat) : p.Keeps (p.given n) :=
  (p.keeps_setCell n .free).trans (Port.keeps_leave _ _)

theorem exec_give {s : State} {v : Word} (reset : s.port.reset = none) (host : s.port.hostSide (lowHalf v) = true) :
    exec (.give v) s = .next (s.finish (State.attempt (s.withPort (s.port.given (lowHalf v))))) := by
  show execGive v s = _
  unfold execGive State.giveBack
  rw [reset, if_pos host]
  rfl

end Sys2Proof.Machine

open Sys2Proof Sys2Proof.Machine

/-- Settles O52. -/
theorem claimGiveAndMisuse : Obligations.ClaimGiveAndMisuse := by
  refine ⟨fun s => ⟨fun c reset free lowest => ?_, fun h => ?_⟩, fun s v => ⟨fun reset host => ?_, fun h => ?_,
    fun register => ⟨s.finish s.misuse, rfl, s.finish_misuse⟩⟩⟩
  · have claimed := Port.claimed_some reset (Port.lowestFree_eq free lowest)
    rw [exec_claim, claimed]
    refine ⟨_, rfl, rfl, fun d => ?_, rfl, s.finish_withPort_onlyPort _⟩
    show (s.port.setCell c .held).cell d = _
    rw [Port.cell_setCell]
    by_cases e : d = c
    · subst e
      rw [if_pos rfl, if_pos rfl, free, Option.map_some]
    · rw [if_neg e, if_neg e]
  · have none : s.port.reset ≠ none ∨ s.port.lowestFree = none := h.imp id fun free => by
      by_contra some
      obtain ⟨c, hc⟩ := Option.ne_none_iff_exists'.1 some
      exact free c (Port.lowestFree_some hc).1
    rw [exec_claim, Port.claimed_none none]
    exact ⟨_, rfl, rfl, s.finish_withPort_onlyPort _⟩
  · rw [← lowHalf_eq] at host
    simp only [← lowHalf_eq]
    rw [exec_give reset host]
    generalize lowHalf v = n at host
    have cell := Port.given_cell host
    have memory := Port.given_memory s.port n
    obtain ⟨st, hst, held⟩ := Port.hostSide_not_free host
    let x := s.withPort (s.port.given n)
    have keeps : s.port.Keeps x.attempt.port := (s.port.given_keeps n).trans x.attempt_keeps
    obtain ⟨resets, run, auto, enables, data, -⟩ := keeps
    obtain ⟨cells, bytes, reports⟩ := x.attempt_reports
    refine ⟨s.finish x.attempt, rfl, ⟨⟨rfl, rfl, rfl, rfl⟩, ⟨rfl, rfl⟩, rfl, rfl⟩, rfl, rfl,
      ⟨run, auto, enables, resets, data, rfl, rfl⟩,
      ⟨x, rfl, ⟨rfl, rfl⟩, memory, cell, fun mem => s.port.given_drains n mem.2.1⟩, fun c ne hc => ?_,
      fun mem c hc => ?_, fun mem a ne ha => ?_, fun none => ?_⟩
    · refine (cells c ?_).trans ?_
      · show (s.port.given n).cell c ≠ _
        rw [cell, if_neg ne]
        exact hc
      · show (s.port.given n).cell c = _
        rw [cell, if_neg ne]
    · have free : x.port.cell c = some .free := by
        show (s.port.given n).cell c = _
        rw [cell]
        split
        · rfl
        · next ne => exact hc.resolve_left ne
      exact (reports c free).imp id fun ⟨h, code⟩ => ⟨h, code (memory ▸ mem.1)⟩
    · have wf : x.port.memory.wf = true := by
        show (s.port.given n).memory.wf = true
        rw [memory]
        exact mem.1
      refine (bytes wf a ?_).trans ?_
      · show (s.port.given n).cell _ ≠ _
        rw [cell, if_neg ne]
        exact ha
      · show (s.port.given n).memory.read a = _
        rw [memory]
    · have still : x.attempt = x := x.attempt_empty none
      rw [still]
      refine ⟨rfl, memory, cell, fun empty => ?_⟩
      obtain ⟨backlog, raw, total, slots⟩ := Port.leave_empty (p := s.port.setCell n .free) [n]
        ((Port.setCells_backlog _ [n] _).trans empty)
      refine ⟨backlog, raw.trans (Port.setCells_raw _ [n] _), total.trans (Port.setCells_outTotal _ [n] _), fun i => ?_⟩
      rw [← OutSlot.without_one]
      refine (slots i).trans ?_
      rw [Port.setCell_only]
  · refine ⟨s.finish s.misuse, ?_, s.finish_misuse⟩
    show execGive v s = _
    unfold execGive
    split
    · rfl
    · next reset =>
      rcases h with h | h
      · exact absurd (Option.isSome_iff_ne_none.2 h) reset
      · unfold State.giveBack
        rw [lowHalf_eq, if_neg (by rw [h]; decide)]

end


section
/-! The checks of a handing, and what HAND does with a chain (R149). -/

namespace Sys2Proof.Machine

/-! ### Chains -/

/-- The cells after a cell are linked behind it, and the last one ends the chain. -/
def Port.linked (p : Port) : Nat → List Nat → Prop
  | c, [] => p.headField c 4 2 = 0xFFFF
  | c, d :: t => p.headField c 4 2 = d ∧ p.linked d t

theorem Port.linked_iff (p : Port) (l : List Nat) : ∀ c : Nat,
    p.linked c l ↔ ∀ i d, (c :: l)[i]? = some d → p.headField d 4 2 = ((c :: l)[i + 1]?).getD 0xFFFF := by
  induction l with
  | nil =>
    intro c
    refine ⟨fun h i d hd => ?_, fun h => h 0 c rfl⟩
    cases i with
    | zero =>
      cases hd
      exact h
    | succ i => cases hd
  | cons e t ih =>
    intro c
    refine ⟨fun ⟨h, k⟩ i d hd => ?_, fun h => ⟨h 0 c rfl, (ih e).2 fun i d hd => h (i + 1) d hd⟩⟩
    cases i with
    | zero =>
      cases hd
      exact h
    | succ i => exact (ih e).1 k i d hd

theorem Port.hostSide_pool {p : Port} {c : Nat} (h : p.hostSide c = true) : 9 ≤ c ∧ c ≤ 511 := by
  obtain ⟨st, hst, -⟩ := Port.hostSide_not_free h
  unfold Port.cell at hst
  obtain ⟨i, hi, -⟩ := Option.map_eq_some_iff.1 hst
  exact (poolIndex_isSome c).1 (by rw [hi]; rfl)

/-- The walk along a chain finds exactly the cells linked behind one another, each of them the host's, none twice and eight
at most. -/
theorem Port.chainAfter_iff (p : Port) (fuel : Nat) : ∀ (seen : List Nat) (c : Nat) (l : List Nat),
    seen.length ≤ 8 → 9 ≤ fuel + seen.length →
    (p.chainAfter fuel seen c = some l ↔
      p.linked c l ∧ (∀ d ∈ l, p.hostSide d = true) ∧ (l.Nodup ∧ ∀ d ∈ l, d ∉ seen) ∧ l.length + seen.length ≤ 8) := by
  induction fuel with
  | zero =>
    intro seen c l short long
    omega
  | succ fuel ih =>
    intro seen c l short long
    unfold Port.chainAfter
    dsimp only
    by_cases last : p.headField c 4 2 = 0xFFFF
    · rw [if_pos last]
      cases l with
      | nil => exact ⟨fun _ => ⟨last, nofun, ⟨.nil, nofun⟩, by simpa using short⟩, fun _ => rfl⟩
      | cons d t =>
        refine ⟨nofun, fun ⟨⟨link, _⟩, host, _⟩ => ?_⟩
        have pool := Port.hostSide_pool (host d (.head _))
        omega
    · rw [if_neg last]
      cases l with
      | nil =>
        refine ⟨fun h => ?_, fun ⟨link, _⟩ => absurd link last⟩
        split at h
        · obtain ⟨t, -, ht⟩ := Option.map_eq_some_iff.1 h
          cases ht
        · cases h
      | cons d t =>
        by_cases go : (p.hostSide (p.headField c 4 2) && !seen.contains (p.headField c 4 2) &&
            decide (seen.length < 8)) = true
        · rw [if_pos go]
          simp only [Bool.and_eq_true, Bool.not_eq_true', List.contains_eq_mem, decide_eq_false_iff_not,
            decide_eq_true_eq] at go
          obtain ⟨⟨host, new⟩, room⟩ := go
          have rest := ih (p.headField c 4 2 :: seen) (p.headField c 4 2) t (by rw [List.length_cons]; omega)
            (by rw [List.length_cons]; omega)
          have cut : Option.map (fun x => p.headField c 4 2 :: x)
              (p.chainAfter fuel (p.headField c 4 2 :: seen) (p.headField c 4 2)) = some (d :: t) ↔
              p.headField c 4 2 = d ∧
                p.chainAfter fuel (p.headField c 4 2 :: seen) (p.headField c 4 2) = some t := by
            rw [Option.map_eq_some_iff]
            refine ⟨fun ⟨a, ha, e⟩ => ?_, fun ⟨e, ht⟩ => ⟨t, ht, by rw [e]⟩⟩
            obtain ⟨e, k⟩ := List.cons.inj e
            exact ⟨e, k ▸ ha⟩
          rw [cut, rest, List.length_cons, List.length_cons]
          refine ⟨fun ⟨e, link, hosts, ⟨nodup, fresh⟩, len⟩ => ?_, fun ⟨⟨e, link⟩, hosts, ⟨nodup, fresh⟩, len⟩ => ?_⟩
          · subst e
            refine ⟨⟨rfl, link⟩, List.forall_mem_cons.2 ⟨host, hosts⟩, ⟨List.nodup_cons.2 ⟨fun m => ?_, nodup⟩,
              List.forall_mem_cons.2 ⟨new, fun x hx m => fresh x hx (.tail _ m)⟩⟩, by omega⟩
            exact fresh _ m (.head _)
          · subst e
            obtain ⟨notin, nodup⟩ := List.nodup_cons.1 nodup
            refine ⟨rfl, link, fun x hx => hosts x (.tail _ hx), ⟨nodup, fun x hx m => ?_⟩, by omega⟩
            rcases List.mem_cons.1 m with m | m
            · exact notin (m ▸ hx)
            · exact fresh x (.tail _ hx) m
        · rw [if_neg go]
          refine ⟨nofun, fun ⟨⟨link, _⟩, hosts, ⟨_, fresh⟩, len⟩ => absurd ?_ go⟩
          rw [link]
          rw [List.length_cons] at len
          simp only [Bool.and_eq_true, Bool.not_eq_true', List.contains_eq_mem, decide_eq_false_iff_not,
            decide_eq_true_eq]
          exact ⟨⟨hosts d (.head _), fresh d (.head _)⟩, by omega⟩

/-- What a chain has to be, from its head on (R149). -/
def Port.soundChain (p : Port) (n : Nat) (l : List Nat) : Prop :=
  l.head? = some n ∧ l.Nodup ∧ l.length ≤ 8 ∧ (∀ c ∈ l, p.hostSide c = true) ∧
    ∀ i c, l[i]? = some c → p.headField c 4 2 = (l[i + 1]?).getD 0xFFFF

theorem Port.soundChain_iff {p : Port} {n : Nat} (host : p.hostSide n = true) (l : List Nat) :
    p.soundChain n l ↔ ∃ rest, l = n :: rest ∧ p.chain n = some rest := by
  have iff : ∀ rest, p.chain n = some rest ↔ _ := fun rest =>
    p.chainAfter_iff 8 [n] n rest (Nat.le_add_left _ _) le_rfl
  constructor
  · rintro ⟨head, nodup, len, hosts, links⟩
    cases l with
    | nil => cases head
    | cons c t =>
      obtain rfl : c = n := by simpa using head
      obtain ⟨notin, nodup⟩ := List.nodup_cons.1 nodup
      refine ⟨t, rfl, (iff t).2 ⟨(p.linked_iff t c).2 links, fun x hx => hosts x (.tail _ hx),
        ⟨nodup, fun x hx m => notin (List.mem_singleton.1 m ▸ hx)⟩, ?_⟩⟩
      rw [List.length_cons] at len
      simpa using len
  · rintro ⟨t, rfl, chain⟩
    obtain ⟨link, hosts, ⟨nodup, fresh⟩, len⟩ := (iff t).1 chain
    refine ⟨rfl, List.nodup_cons.2 ⟨fun m => fresh n m (.head _), nodup⟩, by simpa using len,
      List.forall_mem_cons.2 ⟨host, hosts⟩, (p.linked_iff t n).1 link⟩

/-! ### The order of a chain -/

theorem Port.handed_broken {p : Port} {n : Nat} (h : p.chain n = none) : p.handed n = .error .malformed := by
  unfold Port.handed
  rw [h]

theorem Port.handed_unknown {p : Port} {n : Nat} (h : orderOf (p.headField n 6 1) = none) :
    p.handed n = .error .malformed := by
  unfold Port.handed
  rw [h]
  cases p.chain n <;> rfl

theorem Port.handed_chain {p : Port} {n : Nat} {rest : List Nat} {code : OrderCode} (chain : p.chain n = some rest)
    (known : orderOf (p.headField n 6 1) = some code) :
    p.handed n =
      if ((p.headField n 7 1).testBit 0 && !code.urgentPermitted) = true then .error .wrongClass
      else .ok { head := n, rest := rest, code := code, urgent := (p.headField n 7 1).testBit 0,
                 quiet := (p.headField n 7 1).testBit 1 } := by
  unfold Port.handed
  rw [chain, known]
  rfl

theorem Port.handed_cases (p : Port) (n : Nat) :
    p.handed n = .error .malformed ∨
      ∃ rest code, p.chain n = some rest ∧ orderOf (p.headField n 6 1) = some code := by
  cases chain : p.chain n with
  | none => exact .inl (Port.handed_broken chain)
  | some rest =>
    cases known : orderOf (p.headField n 6 1) with
    | none => exact .inl (Port.handed_unknown known)
    | some code => exact .inr ⟨rest, code, rfl, rfl⟩

end Sys2Proof.Machine

open Sys2Proof Sys2Proof.Machine

/-- Settles O53: the walk along the chain finds exactly the sound chains. -/
theorem handChecksChain : Obligations.HandChecksChain := by
  intro p n host sound
  have sound_iff : ∀ l, sound l ↔ ∃ rest, l = n :: rest ∧ p.chain n = some rest := Port.soundChain_iff host
  refine ⟨fun o ok => ?_, fun r err => ?_, ⟨fun err => ?_, fun ⟨⟨l, hl⟩, urgent, code, known, no⟩ => ?_⟩,
    fun none => ?_, Port.handed_unknown, fun l hl code known permitted => ?_⟩
  · rcases p.handed_cases n with e | ⟨rest, code, chain, known⟩
    · rw [e] at ok
      cases ok
    · rw [Port.handed_chain chain known] at ok
      split at ok
      · cases ok
      · next class' =>
        cases ok
        refine ⟨rfl, (sound_iff _).2 ⟨rest, rfl, chain⟩, known, rfl, rfl, fun urgent => ?_⟩
        rw [show (p.headField n 7 1).testBit 0 = true from urgent] at class'
        simpa using class'
  · rcases p.handed_cases n with e | ⟨rest, code, chain, known⟩
    · rw [e] at err
      cases err
      exact .inl rfl
    · rw [Port.handed_chain chain known] at err
      split at err
      · cases err
        exact .inr rfl
      · cases err
  · rcases p.handed_cases n with e | ⟨rest, code, chain, known⟩
    · rw [e] at err
      cases err
    · rw [Port.handed_chain chain known] at err
      split at err
      · next class' =>
        simp only [Bool.and_eq_true, Bool.not_eq_true'] at class'
        exact ⟨⟨_, (sound_iff _).2 ⟨rest, rfl, chain⟩⟩, class'.1, code, known, class'.2⟩
      · cases err
  · obtain ⟨rest, -, chain⟩ := (sound_iff l).1 hl
    rw [Port.handed_chain chain known, if_pos (by rw [urgent, no]; rfl)]
  · cases chain : p.chain n with
    | none => exact Port.handed_broken chain
    | some rest => exact absurd ⟨_, (sound_iff _).2 ⟨rest, rfl, chain⟩⟩ none
  · obtain ⟨rest, rfl, chain⟩ := (sound_iff l).1 hl
    refine ⟨_, (Port.handed_chain chain known).trans (if_neg ?_), rfl⟩
    simpa using permitted

end


section
/-! HAND: the order that joins its list, and the chain that is turned away (R149, R152). -/

namespace Sys2Proof.Machine

theorem exec_hand {s : State} {v : Word} (reset : s.port.reset = none) :
    exec (.hand v) s = .next (s.handIn (v.toNat % 65536)) := by
  show execHand v s = _
  unfold execHand
  rw [reset, lowHalf_eq]
  rfl

theorem exec_hand_misuse {s : State} {v : Word}
    (h : s.port.reset ≠ none ∨ s.port.hostSide (v.toNat % 65536) = false) :
    exec (.hand v) s = .next (s.finish s.misuse) := by
  by_cases reset : s.port.reset = none
  · rw [exec_hand reset]
    unfold State.handIn
    rw [h.resolve_left fun k => k reset]
    rfl
  · show execHand v s = _
    unfold execHand
    rw [if_pos (Option.isSome_iff_ne_none.2 reset)]

theorem State.handIn_ok {s : State} {n : Nat} {o : Handed} (host : s.port.hostSide n = true)
    (h : s.port.handed n = .ok o) : s.handIn n = (s.finish (s.accept o)).arbitrate := by
  unfold State.handIn
  rw [host, h]
  rfl

theorem State.handIn_error {s : State} {n : Nat} {r : Reason} (host : s.port.hostSide n = true)
    (h : s.port.handed n = .error r) : s.handIn n = (s.finish (s.turnAway n r)).arbitrate := by
  unfold State.handIn
  rw [host, h]
  rfl

/-- The chain of an order that passes its checks is the host's. -/
theorem Port.handed_hosts {p : Port} {n : Nat} {o : Handed} (host : p.hostSide n = true) (h : p.handed n = .ok o) :
    ∀ c ∈ o.cells, p.hostSide c = true := by
  obtain ⟨ok, -⟩ := handChecksChain p n host
  obtain ⟨-, ⟨-, -, -, hosts, -⟩, -⟩ := ok o h
  exact hosts

theorem Port.queued_cell {p : Port} {cs : List Nat} (hosts : ∀ c ∈ cs, p.hostSide c = true) (c : Nat) :
    ((p.setCells cs .queued).leave cs).cell c = if c ∈ cs then some .queued else p.cell c := by
  rw [Port.cell_congr (Port.leave_cells _ _), Port.cell_setCells]
  split
  · next m =>
    obtain ⟨st, hst, -⟩ := Port.hostSide_not_free (hosts c m)
    rw [hst]
    rfl
  · rfl

/-- The out list and the backlog after cells leave do not depend on the states of the cells. -/
theorem Port.drains_setCells {p q : Port} {cs ds : List Nat} {st : CellState} (h : (p.setCells cs st).drains q ds) :
    p.drains q ds := by
  rw [Port.setCells_only] at h
  exact h

/-- The order a head that is turned away is delivered as: its code is of no account. -/
def Port.headOrder (p : Port) (n : Nat) (code : OrderCode) : Handed :=
  { head := n, rest := [], code := code, urgent := (p.headField n 7 1).testBit 0, quiet := false }

theorem Port.headOrder_cells (p : Port) (n : Nat) (code : OrderCode) : (p.headOrder n code).cells = [n] := rfl

theorem State.turnAway_eq (s : State) (n : Nat) (r : Reason) (code : OrderCode) :
    s.turnAway n r = (s.withPort (s.port.leave [n])).close (s.port.headOrder n code) .refused r 0 [] := by
  have flags : (s.port.leave [n]).headFlags n = s.port.headField n 7 1 := by
    unfold Port.headFlags Port.headField
    rw [Port.leave_memory]
  unfold State.turnAway State.close
  dsimp only
  rw [flags]
  rfl

/-- A delivery is announced, and announced once. -/
theorem Handed.deliver_announces (o : Handed) (p : Port) (outcome : OrderOutcome) (reason : Reason) (argument : Word)
    (payloads : List (List Byte)) (ok : sparseOk OutSlot.zero p.outList = true) :
    p.announces (p.deliver o.head o.rest o.urgent outcome reason argument payloads) o.announcement := by
  let m := (writeChain p.memory outcome reason o.cells payloads).writeAll (cellOffset o.head 12) (word argument)
  have announced := Port.announce_announces (Port.setCells { p with memory := m } o.cells .delivered) o.announcement
    (by rw [Port.setCells_outList]; exact ok)
  refine Port.announces_congr (q := p.deliver o.head o.rest o.urgent outcome reason argument payloads) ⟨?_, ?_, ?_⟩ ?_
    ⟨rfl, rfl, rfl⟩ rfl announced
  · rw [Port.setCells_outList]
  · rw [Port.setCells_outTotal]
  · rw [Port.setCells_backlog]
  · rw [Port.setCells_raw]

/-- A head turned away is delivered REFUSED. -/
theorem State.turnAway_ends {s : State} {n : Nat} (r : Reason) (code : OrderCode) (host : s.port.hostSide n = true)
    (mem : s.memoryOk) :
    s.ends (s.finish (s.turnAway n r)) (s.port.headOrder n code) .refused r 0 [] := by
  let x := s.withPort (s.port.leave [n])
  have field : ∀ {α : Type} (f : Port → α),
      f (s.turnAway n r).port = f (x.close (s.port.headOrder n code) .refused r 0 []).port := fun f => by
    rw [s.turnAway_eq n r code]
  have cell : ∀ c, (s.port.leave [n]).cell c = s.port.cell c := Port.cell_congr (Port.leave_cells _ _)
  obtain ⟨st, hst, held⟩ := Port.hostSide_not_free host
  obtain ⟨reset, run, auto, enables, data, -⟩ := (s.port.keeps_leave [n]).trans
    (Port.keeps_deliver (s.port.leave [n]) n [] ((s.port.leave [n]).headFlags n |>.testBit 0) .refused r 0 [])
  refine State.close_ends (b := x) (x := x) .refused r 0 [] ⟨List.nodup_singleton n, ?_, fun c hc => ?_⟩ mem
    (fun c _ => cell c) (fun c hc => ?_) (Port.leave_memory _ _) (s.port.keeps_leave [n]) (Port.Keeps.refl _)
    (Port.Reports.refl _) nofun (field Port.cells) (field Port.memory) (field Port.backlog) (field Port.raw)
    (field Port.outList) (field Port.outTotal) ⟨run, auto, enables, reset, data, rfl, rfl⟩
  · show 1 ≤ 8
    decide
  · rw [List.mem_singleton.1 hc]
    exact Port.hostSide_pool host
  · rw [List.mem_singleton.1 hc]
    show (s.port.leave [n]).cell n ≠ _
    rw [cell, hst]
    exact fun e => held (Option.some.inj e)

/-- Turning a head away does nothing else to the port. -/
theorem State.turnAway_alone {s : State} (n : Nat) (r : Reason) (code : OrderCode) (mem : s.memoryOk) :
    State.aloneWith { s with port := { s.port with
        outList := (s.port.leave [n]).outList
        outTotal := (s.port.leave [n]).outTotal
        backlog := (s.port.leave [n]).backlog
        raw := (s.port.leave [n]).raw } } (s.finish (s.turnAway n r)) (s.port.headOrder n code) .refused [] := by
  have leaves := s.port.keeps_leave [n]
  have deliver : (s.turnAway n r).port = (s.port.leave [n]).deliver n [] ((s.port.headField n 7 1).testBit 0)
      .refused r 0 [] := by
    rw [s.turnAway_eq n r code]
    rfl
  refine ⟨fun _ => ⟨rfl, fun a ha => ?_, fun c hc => ?_, ?_, ?_⟩, nofun⟩
  · show (s.turnAway n r).port.memory.read a = _
    rw [deliver]
    refine ((s.port.headOrder n code).read_deliver_outside (s.port.leave [n]) .refused r 0 []
      (List.nodup_singleton n) (leaves.wf mem.1) nofun a ha).trans ?_
    rw [Port.leave_memory]
  · show (s.turnAway n r).port.cell c = s.port.cell c
    rw [deliver]
    refine (Port.deliver_cell _ _ _ _ _ _ _ _ c).trans ((if_neg hc).trans ?_)
    exact Port.cell_congr (Port.leave_cells _ _) c
  · show (s.turnAway n r).port.raw ||| outBit = _
    rw [deliver]
    exact Port.deliver_raw _ _ _ _ _ _ _ _
  · have announced := (s.port.headOrder n code).deliver_announces (s.port.leave [n]) .refused r 0 [] (leaves.out mem.2.1)
    have outList : (s.turnAway n r).port.outList = _ := congrArg Port.outList deliver
    have total : (s.turnAway n r).port.outTotal = _ := congrArg Port.outTotal deliver
    have backlog : (s.turnAway n r).port.backlog = _ := congrArg Port.backlog deliver
    have raw : (s.turnAway n r).port.raw = _ := congrArg Port.raw deliver
    exact Port.announces_congr ⟨rfl, rfl, rfl⟩ rfl ⟨outList, total, backlog⟩ raw announced

end Sys2Proof.Machine

open Sys2Proof Sys2Proof.Machine

/-- Settles O54. -/
theorem handQueuesOrder : Obligations.HandQueuesOrder := by
  refine fun s v => ⟨fun o reset host ok => ?_, fun r code reset host err mem => ?_, fun h =>
    ⟨_, exec_hand_misuse h, s.finish_misuse⟩⟩
  · have hosts := Port.handed_hosts host ok
    obtain ⟨same, run, auto, enables, data, -⟩ := (s.port.keeps_setCells o.cells .queued).trans
      (Port.keeps_leave (s.port.setCells o.cells .queued) o.cells)
    refine ⟨s.finish (s.accept o), by rw [exec_hand reset, State.handIn_ok host ok], fun mem => ?_,
      Port.queued_cell hosts, ?_, ⟨run, auto, enables, same, data, rfl, rfl⟩, ?_,
      ⟨⟨rfl, rfl, rfl, rfl⟩, ⟨rfl, rfl⟩, rfl, rfl⟩, rfl, rfl, fun empty => ?_⟩
    · exact Port.drains_setCells (Port.leave_drains (s.port.setCells o.cells .queued) o.cells
        (by rw [Port.setCells_outList]; exact mem.2.1))
    · show ((s.port.setCells o.cells .queued).leave o.cells).memory = _
      rw [Port.leave_memory, Port.setCells_memory]
    · show s.engine.join o = _
      rfl
    · obtain ⟨backlog, raw, total, slots⟩ := Port.leave_empty (p := s.port.setCells o.cells .queued) o.cells
        ((Port.setCells_backlog _ _ _).trans empty)
      rw [Port.setCells_raw] at raw
      rw [Port.setCells_outTotal] at total
      rw [Port.setCells_outList] at slots
      exact ⟨backlog, raw, total, slots⟩
  · exact ⟨s.finish (s.turnAway _ r), s.port.leave [_], by rw [exec_hand reset, State.handIn_error host err],
      State.turnAway_ends r code host mem, s.port.leave_drains _ mem.2.1, State.turnAway_alone _ r code mem,
      ⟨⟨rfl, rfl, rfl, rfl⟩, ⟨rfl, rfl⟩, rfl, rfl⟩, rfl, rfl⟩

end


section
/-! The order of the checks of an evaluation, and the comparison of segments at a period end. -/

namespace Sys2Proof.Machine

/-! ### An evaluation (R53) -/

/-- The place of the first check that fails among some, numbered from `k`. -/
def firstFailure (k : Nat) : List Bool → Option Nat
  | [] => none
  | true :: t => firstFailure (k + 1) t
  | false :: _ => some k

theorem firstFailure_eq_some {k n : Nat} {l : List Bool} :
    firstFailure k l = some n ↔
      k ≤ n ∧ l[n - k]? = some false ∧ ∀ i, i < n - k → l[i]? = some true := by
  induction l generalizing k with
  | nil => simp [firstFailure]
  | cons b t ih =>
    cases b with
    | true =>
      unfold firstFailure
      rw [ih]
      constructor
      · rintro ⟨le, fails, passes⟩
        obtain ⟨m, rfl⟩ := Nat.exists_eq_add_of_le le
        have e : k + 1 + m - k = m + 1 := by omega
        rw [Nat.add_sub_cancel_left] at fails passes
        rw [e]
        refine ⟨by omega, fails, fun i hi => ?_⟩
        cases i with
        | zero => rfl
        | succ i => exact passes i (by omega)
      · rintro ⟨le, fails, passes⟩
        obtain ⟨m, rfl⟩ := Nat.exists_eq_add_of_le le
        rw [Nat.add_sub_cancel_left] at fails passes
        cases m with
        | zero => cases fails
        | succ m =>
          have e : k + (m + 1) - (k + 1) = m := by omega
          rw [e]
          exact ⟨by omega, fails, fun i hi => passes (i + 1) (by omega)⟩
    | false =>
      unfold firstFailure
      constructor
      · intro h
        cases h
        rw [Nat.sub_self]
        exact ⟨le_rfl, rfl, fun i hi => absurd hi (Nat.not_lt_zero i)⟩
      · rintro ⟨le, fails, passes⟩
        obtain ⟨m, rfl⟩ := Nat.exists_eq_add_of_le le
        rw [Nat.add_sub_cancel_left] at passes
        cases m with
        | zero => rfl
        | succ m => cases passes 0 (Nat.succ_pos m)

theorem firstFailure_eq_none {k : Nat} {l : List Bool} : firstFailure k l = none ↔ ∀ b ∈ l, b = true := by
  induction l generalizing k with
  | nil => simp [firstFailure]
  | cons b t ih => cases b <;> simp [firstFailure, ih]

/-- The checks of an evaluation in their order. -/
def State.checks (s : State) (c : Candidate) (set aside : List Transmitter) (strict : Bool) : List Bool :=
  [s.check1 c, s.check2 c, s.check3 c strict, s.check4 c set, s.check5 c set aside, s.check6 c set]

theorem State.evaluate_eq (s : State) (c : Candidate) (set aside : List Transmitter) (strict : Bool) :
    s.evaluate c set aside strict =
      match firstFailure 1 (s.checks c set aside strict) with
      | some n => .fail n
      | none => .pass (s.score c set aside) := by
  unfold State.evaluate State.checks
  cases s.check1 c with
  | false => rfl
  | true =>
    cases s.check2 c with
    | false => rfl
    | true =>
      cases s.check3 c strict with
      | false => rfl
      | true =>
        cases s.check4 c set with
        | false => rfl
        | true =>
          cases s.check5 c set aside with
          | false => rfl
          | true => cases s.check6 c set <;> rfl

/-! ### The new code of a segment (R122) -/

theorem mem_of_sparseGet {α : Type} [DecidableEq α] {d : α} {l : Sparse α} {n : Nat} (h : sparseGet d l n ≠ d) :
    (n, sparseGet d l n) ∈ l := by
  induction l with
  | nil => exact absurd rfl h
  | cons e t ih =>
    obtain ⟨k, v⟩ := e
    unfold sparseGet at h ⊢
    by_cases e : k = n
    · subst e
      rw [if_pos rfl]
      exact .head _
    · rw [if_neg e] at h ⊢
      exact .tail _ (ih h)

theorem sparseGet_of_mem {α : Type} [DecidableEq α] {d : α} {l : Sparse α} {n : Nat} {v : α}
    (ok : sparseOk d l = true) (h : (n, v) ∈ l) : sparseGet d l n = v := by
  induction l with
  | nil => cases h
  | cons e t ih =>
    obtain ⟨k, w⟩ := e
    obtain ⟨-, below, okt⟩ := sparseOk_cons.1 ok
    unfold sparseGet
    rcases List.mem_cons.1 h with e | m
    · cases e
      rw [if_pos rfl]
    · have lt := below _ m
      rw [if_neg (by show k ≠ n; omega)]
      exact ih okt m

/-- The fold that seeks the greatest code finds the maximum. -/
theorem foldl_greatest (l : List (Nat × Bin)) :
    l.foldl (fun m e => some (max (m.getD 0) e.2.settled)) none = (l.map fun e => e.2.settled).max? := by
  have from' : ∀ (l : List (Nat × Bin)) (a : Nat),
      l.foldl (fun m e => some (max (m.getD 0) e.2.settled)) (some a) =
        some ((l.map fun e => e.2.settled).foldl max a) := fun l => by
    induction l with
    | nil => exact fun _ => rfl
    | cons e t ih => exact fun a => ih (max a e.2.settled)
  cases l with
  | nil => rfl
  | cons e t =>
    rw [List.foldl_cons, from', List.map_cons, List.max?_cons']
    show some (List.foldl max (max 0 e.2.settled) _) = _
    rw [Nat.zero_max]

/-- The bins of a segment that have been seen, as the map lists them. -/
theorem mem_seenBins {z : Zone} {w : Window} {j : Fin 64} (ok : sparseOk Bin.cleared z.map = true) (n : Nat) (b : Bin) :
    (n, b) ∈ z.map.filter (fun e => e.2.seen && decide (w.segmentLow j ≤ e.1 ∧ e.1 ≤ w.segmentHigh j)) ↔
      (w.segmentLow j ≤ n ∧ n ≤ w.segmentHigh j ∧ (sparseGet Bin.cleared z.map n).seen = true) ∧
        sparseGet Bin.cleared z.map n = b := by
  rw [List.mem_filter, Bool.and_eq_true, decide_eq_true_eq]
  constructor
  · rintro ⟨m, seen, low, high⟩
    have value := sparseGet_of_mem ok m
    exact ⟨⟨low, high, value ▸ seen⟩, value⟩
  · rintro ⟨⟨low, high, seen⟩, rfl⟩
    refine ⟨mem_of_sparseGet fun e => ?_, seen, low, high⟩
    rw [e] at seen
    cases seen

theorem Zone.newCode_eq (z : Zone) (w : Window) (j : Fin 64) :
    z.newCode w j = ((z.map.filter fun e => e.2.seen && decide (w.segmentLow j ≤ e.1 ∧ e.1 ≤ w.segmentHigh j)).map
      fun e => e.2.settled).max? :=
  foldl_greatest _

/-! ### A segment at a period end (R122, R123) -/

theorem Segment.periodEnd_unselected (g : Segment) (z : ZoneSettings) (pending : Bool) (code : Option Nat) :
    g.periodEnd z false pending code = ({ g with last := code.or g.last, reference := none }, none) := rfl

theorem Segment.periodEnd_frozen {g : Segment} (z : ZoneSettings) (pending : Bool) (code : Option Nat)
    (frozen : g.frozen = true) : g.periodEnd z true pending code = ({ g with last := code.or g.last }, none) := by
  unfold Segment.periodEnd
  simp [frozen]

theorem Segment.periodEnd_pending {g : Segment} (z : ZoneSettings) (code : Option Nat) (frozen : g.frozen = false) :
    g.periodEnd z true true code = ({ g with last := code.or g.last, reference := code }, none) := by
  unfold Segment.periodEnd
  simp [frozen]

theorem Segment.periodEnd_unseen {g : Segment} (z : ZoneSettings) (frozen : g.frozen = false) :
    g.periodEnd z true false none = (g, none) := by
  cases g with
  | mk reference last hit f =>
    obtain rfl : f = false := frozen
    rfl

theorem Segment.periodEnd_first {g : Segment} (z : ZoneSettings) (c : Nat) (frozen : g.frozen = false)
    (reference : g.reference = none) :
    g.periodEnd z true false (some c) = ({ g with last := some c, reference := some c }, none) := by
  unfold Segment.periodEnd
  simp [frozen, reference]

/-- A segment with a reference hits where the new code rose far enough and reaches the presence level. -/
theorem Segment.periodEnd_compared {g : Segment} (z : ZoneSettings) {c r : Nat} (frozen : g.frozen = false)
    (reference : g.reference = some r) :
    g.periodEnd z true false (some c) =
      if z.isHit r c then
        ({ g with last := some c, reference := some c, hit := true, frozen := decide (z.mode = .latching) },
          some (c - r))
      else ({ g with last := some c, reference := some c }, none) := by
  unfold Segment.periodEnd
  simp [frozen, reference]

theorem Segment.periodEnd_last (g : Segment) (z : ZoneSettings) (selected pending : Bool) (code : Option Nat) :
    (g.periodEnd z selected pending code).1.last = code.or g.last := by
  cases selected with
  | false => rfl
  | true =>
    by_cases frozen : g.frozen = true
    · rw [Segment.periodEnd_frozen z pending code frozen]
    · have frozen : g.frozen = false := by simpa using frozen
      cases pending with
      | true => rw [Segment.periodEnd_pending z code frozen]
      | false =>
        cases code with
        | none => rw [Segment.periodEnd_unseen z frozen, Option.none_or]
        | some c =>
          cases reference : g.reference with
          | none => rw [Segment.periodEnd_first z c frozen reference, Option.some_or]
          | some r =>
            rw [Segment.periodEnd_compared z frozen reference, Option.some_or]
            split <;> rfl

theorem ZoneSettings.isHit_iff (z : ZoneSettings) (r c : Nat) :
    z.isHit r c = true ↔ z.threshold + r ≤ c ∧ z.floor + z.clearOffset ≤ c := by
  unfold ZoneSettings.isHit
  rw [decide_eq_true_eq, Nat.add_comm r]

theorem Segment.afterMode_eq (g : Segment) (mode : WatchMode) (rise : Option Nat) :
    g.afterMode mode rise = if mode = .freeRun ∧ rise = none then { g with hit := false } else g := by
  unfold Segment.afterMode
  simp

end Sys2Proof.Machine

open Sys2Proof Sys2Proof.Machine

/-- Settles O26. -/
theorem evaluationStopsAtFirstFailure : Obligations.EvaluationStopsAtFirstFailure := by
  intro s c set aside strict n checks
  have eq := s.evaluate_eq c set aside strict
  constructor
  · rw [eq, ← firstFailure_eq_some]
    show _ ↔ firstFailure 1 (s.checks c set aside strict) = some n
    cases firstFailure 1 (s.checks c set aside strict) with
    | none => simp
    | some m => simp
  · rw [eq, ← firstFailure_eq_none (k := 1)]
    show _ ↔ firstFailure 1 (s.checks c set aside strict) = none ∧ n = s.score c set aside
    cases firstFailure 1 (s.checks c set aside strict) with
    | none => simp [eq_comm]
    | some m => simp

/-- Settles O47, by the branches of the comparison. -/
theorem periodEndComparesSegments : Obligations.PeriodEndComparesSegments := by
  refine ⟨fun z w j ok => ⟨?_, fun k => ?_⟩, fun g mode rise => ⟨fun free none => ?_, fun h => ?_⟩,
    fun g z selected pending code => ⟨g.periodEnd_last z selected pending code, fun h => ?_, fun h frozen => ?_,
      fun h frozen p => ?_, fun h frozen p => ⟨fun unseen => ?_, fun c seen => ?_⟩⟩⟩
  · rw [Zone.newCode_eq, List.max?_eq_none_iff, List.map_eq_nil_iff, List.eq_nil_iff_forall_not_mem]
    exact ⟨fun none n hn => none (n, _) ((mem_seenBins ok n _).2 ⟨hn, rfl⟩),
      fun none e he => none e.1 ((mem_seenBins ok e.1 e.2).1 he).1⟩
  · rw [Zone.newCode_eq, List.max?_eq_some_iff, List.mem_map]
    refine and_congr ⟨fun ⟨e, he, hk⟩ => ?_, fun ⟨n, hn, hk⟩ => ⟨(n, _), (mem_seenBins ok n _).2 ⟨hn, rfl⟩, hk⟩⟩
      ⟨fun most n hn => most _ (List.mem_map.2 ⟨(n, _), (mem_seenBins ok n _).2 ⟨hn, rfl⟩, rfl⟩), fun most b hb => ?_⟩
    · obtain ⟨hn, value⟩ := (mem_seenBins ok e.1 e.2).1 he
      exact ⟨e.1, hn, by rw [← hk, ← value]⟩
    · obtain ⟨e, he, rfl⟩ := List.mem_map.1 hb
      obtain ⟨hn, value⟩ := (mem_seenBins ok e.1 e.2).1 he
      rw [← value]
      exact most e.1 hn
  · rw [Segment.afterMode_eq, if_pos ⟨free, none⟩]
  · rw [Segment.afterMode_eq, if_neg]
    rintro ⟨free, none⟩
    rcases h with h | h
    · rw [free] at h
      cases h
    · exact h none
  · rw [h, Segment.periodEnd_unselected]
    exact ⟨rfl, rfl, rfl, rfl⟩
  · rw [h, Segment.periodEnd_frozen z pending code frozen]
    exact ⟨rfl, rfl, frozen, rfl⟩
  · rw [h, p, Segment.periodEnd_pending z code frozen]
    exact ⟨rfl, rfl, frozen, rfl⟩
  · rw [h, p, unseen, Segment.periodEnd_unseen z frozen]
    exact ⟨rfl, rfl, frozen, rfl⟩
  · rw [h, p, seen]
    refine ⟨?_, fun first => ?_, fun r reference => ⟨fun hits => ?_, fun misses => ?_⟩⟩
    · cases reference : g.reference with
      | none => rw [Segment.periodEnd_first z c frozen reference]
      | some r =>
        rw [Segment.periodEnd_compared z frozen reference]
        split <;> rfl
    · rw [Segment.periodEnd_first z c frozen first]
      exact ⟨rfl, frozen, rfl⟩
    · rw [Segment.periodEnd_compared z frozen reference, if_pos ((z.isHit_iff r c).2 hits)]
      exact ⟨rfl, rfl, rfl⟩
    · rw [Segment.periodEnd_compared z frozen reference, if_neg fun hit => ?_]
      · exact ⟨rfl, frozen, rfl⟩
      · obtain ⟨rose, present⟩ := (z.isHit_iff r c).1 hit
        omega

end


section
/-! The orders of the site model and what refuses them. -/

namespace Sys2Proof.Machine

/-! ### Refusal at a take-up -/

/-- An order whose procedure refuses it. -/
theorem State.takes.refused {s : State} {code : OrderCode} {u : Bool} {o : Handed} (h : s.takes code u o) {r : Reason}
    (p : code.procedure o (s.begin u o) = (s.begin u o).refuse o r) :
    ∃ t, exec code.command s = .next t.arbitrate ∧ s.refuses t u o r :=
  ⟨_, by rw [exec_command, State.takeUp_eq _ h.1, p], h.refuses r⟩

theorem index_eq_none {n m : Nat} (h : n ≤ m) : index n m = none := dif_neg (Nat.not_lt.2 h)

theorem index_eq_some {n : Nat} (i : Fin n) : index n i.val = some i := dif_pos i.isLt

theorem index_some_val {n m : Nat} {i : Fin n} (h : index n m = some i) : m = i.val := by
  unfold index at h
  split at h
  · cases h
    rfl
  · cases h

theorem yesNo_eq_none {n : Nat} (h : 1 < n) : yesNo n = none := by
  match n, h with
  | n + 2, _ => rfl

theorem bandwidthOf_eq_none {n : Nat} (h : 2 < n) : bandwidthOf n = none := by
  match n, h with
  | n + 3, _ => rfl

theorem watchModeOf_eq_none {n : Nat} (h : 1 < n) : watchModeOf n = none := by
  match n, h with
  | n + 2, _ => rfl

theorem validMultiple_eq_false {k : Nat} (h : k ∉ [1, 2, 4, 5]) : validMultiple k = false := by
  simpa [validMultiple] using h

/-! ### What an order carries is what it carried before its take-up -/

theorem State.begin_sentWindow (s : State) (u : Bool) (o : Handed) : (s.begin u o).sentWindow o = s.sentWindow o := by
  unfold State.sentWindow
  simp only [State.begin_param]

theorem State.begin_sentParams (s : State) (u : Bool) (o : Handed) : (s.begin u o).sentParams o = s.sentParams o := by
  unfold State.sentParams
  simp only [State.begin_param]

theorem State.begin_sentExclusion (s : State) (u : Bool) (o : Handed) :
    (s.begin u o).sentExclusion o = s.sentExclusion o := by
  unfold State.sentExclusion
  simp only [State.begin_param]

theorem State.begin_couplingEntry (s : State) (u : Bool) (o : Handed) (i : Nat) :
    (s.begin u o).couplingEntry o i = s.couplingEntry o i := by
  unfold State.couplingEntry
  simp only [State.begin_param]

/-! ### The checks of the site-model orders -/

theorem stageRecordOf_eq_none {zone autoMove multiple bandwidth target low high : Nat}
    (h : (3 < zone ∧ zone ≠ 0xFF) ∨ 1 < autoMove ∨ multiple ∉ [1, 2, 4, 5] ∨ 2 < bandwidth ∨ rangeOk low high = false) :
    stageRecordOf zone autoMove multiple bandwidth target low high = none := by
  unfold stageRecordOf
  split
  · next z a c hz ha hc =>
    rcases h with ⟨big, ne⟩ | big | multiple | big | range
    · unfold zoneBinding at hz
      rw [if_neg ne, index_eq_none big] at hz
      cases hz
    · rw [yesNo_eq_none big] at ha
      cases ha
    · rw [validMultiple_eq_false multiple]
      rfl
    · rw [bandwidthOf_eq_none big] at hc
      cases hc
    · rw [range, Bool.and_false]
      rfl
  · rfl

theorem allPresent_eq_none {α : Type} {l : List (Option α)} (h : none ∈ l) : allPresent l = none := by
  induction l with
  | nil => cases h
  | cons a t ih =>
    cases a with
    | none => rfl
    | some a =>
      rcases List.mem_cons.1 h with e | m
      · cases e
      · unfold allPresent
        rw [ih m]
        rfl

theorem setParametersOrder_window {o : Handed} {x : State} (h : (x.sentWindow o).ok = false) :
    setParametersOrder o x = x.refuse o .badArgument := by
  unfold setParametersOrder
  dsimp only
  rw [h]
  rfl

theorem setParametersOrder_level {o : Handed} {x : State}
    (h : (x.sentParams o).imLevel = 0 ∨ 3 < (x.sentParams o).imLevel) :
    setParametersOrder o x = x.refuse o .badArgument := by
  unfold setParametersOrder
  dsimp only
  split
  · rfl
  · rw [if_pos]
    omega

theorem setParametersOrder_planPresent {o : Handed} {x : State} (ok : (x.sentWindow o).ok = true)
    (low : 1 ≤ (x.sentParams o).imLevel) (high : (x.sentParams o).imLevel ≤ 3)
    (ne : x.site.window ≠ x.sentWindow o) (held : x.plan.held = true) :
    setParametersOrder o x = x.refuse o .planPresent := by
  unfold setParametersOrder
  dsimp only
  rw [ok, if_neg (by decide), if_neg (by omega), if_pos ⟨ne, held⟩]

theorem defineStageOrder_badArgument {o : Handed} {x : State}
    (h : 7 < x.param o 0 1 ∨ (3 < x.param o 1 1 ∧ x.param o 1 1 ≠ 0xFF) ∨ 1 < x.param o 2 1 ∨
      x.param o 3 1 ∉ [1, 2, 4, 5] ∨ 2 < x.param o 4 1 ∨ rangeOk (x.param o 8 2) (x.param o 10 2) = false) :
    defineStageOrder o x = x.refuse o .badArgument := by
  unfold defineStageOrder
  dsimp only
  rcases h with big | h
  · rw [index_eq_none big]
  · rw [stageRecordOf_eq_none h]
    cases index 8 (x.param o 0 1) <;> rfl

theorem setCouplingOrder_badArgument {o : Handed} {x : State}
    (h : x.param o 0 1 = 0 ∨ 28 < x.param o 0 1 ∨ ∃ i, i < x.param o 0 1 ∧ x.couplingEntry o i = none) :
    setCouplingOrder o x = x.refuse o .badArgument := by
  unfold setCouplingOrder
  dsimp only
  split
  · rfl
  · next count =>
    obtain ⟨i, hi, none⟩ := (h.resolve_left fun e => count (.inl e)).resolve_left fun e => count (.inr e)
    rw [allPresent_eq_none (List.mem_map.2 ⟨i, List.mem_range.2 hi, none⟩)]

theorem addExclusionOrder_badArgument {o : Handed} {x : State}
    (h : x.sentExclusion o = none ∨ ∃ e, x.sentExclusion o = some e ∧ e.ok = false) :
    addExclusionOrder o x = x.refuse o .badArgument := by
  unfold addExclusionOrder
  rcases h with none | ⟨e, sent, bad⟩
  · rw [none]
  · rw [sent]
    dsimp only
    rw [bad]
    rfl

theorem addExclusionOrder_exists {o : Handed} {x : State} {e : Exclusion} (sent : x.sentExclusion o = some e)
    (ok : e.ok = true) (m : e ∈ x.site.exclusions) : addExclusionOrder o x = x.refuse o .exists := by
  unfold addExclusionOrder
  rw [sent]
  dsimp only
  rw [ok, if_neg (by decide), if_pos (List.contains_iff_mem.2 m)]

theorem addExclusionOrder_full {o : Handed} {x : State} {e : Exclusion} (sent : x.sentExclusion o = some e)
    (ok : e.ok = true) (m : e ∉ x.site.exclusions) (full : 64 ≤ x.site.exclusions.length) :
    addExclusionOrder o x = x.refuse o .full := by
  unfold addExclusionOrder
  rw [sent]
  dsimp only
  rw [ok, if_neg (by decide), if_neg (fun c => m (List.contains_iff_mem.1 c)), if_pos full]

theorem dropExclusionOrder_badArgument {o : Handed} {x : State}
    (h : validStep (x.param o 0 2) = false ∨ validStep (x.param o 2 2) = false) :
    dropExclusionOrder o x = x.refuse o .badArgument := by
  unfold dropExclusionOrder
  rw [if_pos]
  rcases h with h | h <;> rw [h]
  · rfl
  · rw [Bool.not_false, Bool.or_true]

theorem dropExclusionOrder_notFound {o : Handed} {x : State} (low : validStep (x.param o 0 2) = true)
    (high : validStep (x.param o 2 2) = true) (h : ∀ e, x.sentExclusion o = some e → e ∉ x.site.exclusions) :
    dropExclusionOrder o x = x.refuse o .notFound := by
  unfold dropExclusionOrder
  rw [low, high, if_neg (by decide)]
  cases sent : x.sentExclusion o with
  | none => rfl
  | some e => exact if_neg fun c => h e sent (List.contains_iff_mem.1 c)

end Sys2Proof.Machine

open Sys2Proof Sys2Proof.Machine

/-- Settles O14: each check refuses in its turn. -/
theorem siteOrdersRefused : Obligations.SiteOrdersRefused := by
  refine fun s u o => ⟨fun h ok => h.refused (setParametersOrder_window ?_),
    fun h level => h.refused (setParametersOrder_level ?_),
    fun h ok low high ne held => h.refused (setParametersOrder_planPresent ?_ ?_ ?_ ?_ held),
    fun h bad => h.refused (defineStageOrder_badArgument ?_), fun h bad => h.refused (setCouplingOrder_badArgument ?_),
    fun h bad => h.refused (addExclusionOrder_badArgument ?_),
    fun e h sent ok m => h.refused (addExclusionOrder_exists ?_ ok m),
    fun e h sent ok m full => h.refused (addExclusionOrder_full ?_ ok m full),
    fun e h low high sent m => h.refused (dropExclusionOrder_notFound ?_ ?_ fun f hf => ?_),
    fun h bad => h.refused (dropExclusionOrder_badArgument ?_),
    fun h low high sent => h.refused (dropExclusionOrder_notFound ?_ ?_ fun f hf => ?_)⟩
  · rwa [State.begin_sentWindow]
  · rwa [State.begin_sentParams]
  · rwa [State.begin_sentWindow]
  · rwa [State.begin_sentParams]
  · rwa [State.begin_sentParams]
  · rwa [State.begin_sentWindow]
  · simpa only [State.begin_param] using bad
  · simpa only [State.begin_param, State.begin_couplingEntry] using bad
  · rwa [State.begin_sentExclusion]
  · rwa [State.begin_sentExclusion]
  · rwa [State.begin_sentExclusion]
  · rw [State.begin_param]
    exact low
  · rw [State.begin_param]
    exact high
  · rw [State.begin_sentExclusion, sent] at hf
    exact Option.some.inj hf ▸ m
  · simpa only [State.begin_param] using bad
  · rw [State.begin_param]
    exact low
  · rw [State.begin_param]
    exact high
  · rw [State.begin_sentExclusion, sent] at hf
    cases hf

end


section
/-! What refuses the orders on channels, the reads and the orders on zones. -/

namespace Sys2Proof.Machine

/-! ### What an order carries is what it carried before its take-up -/

theorem State.begin_sentChannel (s : State) (u : Bool) (o : Handed) :
    (s.begin u o).sentChannel o = s.sentChannel o := by
  unfold State.sentChannel
  rw [State.begin_param]

theorem State.begin_sentFields (s : State) (u : Bool) (o : Handed) :
    (s.begin u o).sentFields o = s.sentFields o := by
  unfold State.sentFields
  simp only [State.begin_param]

theorem State.begin_headField (s : State) (u : Bool) (o : Handed) (c i n : Nat) :
    (s.begin u o).port.headField c i n = s.port.headField c i n := by
  unfold Port.headField
  rw [State.begin_memory]

theorem State.sentChannel_none {x : State} {o : Handed} (h : 255 < x.param o 0 2) : x.sentChannel o = none :=
  index_eq_none h

theorem State.hold_eq {x : State} {c : Fin 256} {r : ChannelRecord} (h : x.channel c = some r) :
    x.hold c = some r.hold := congrArg (Option.map ChannelRecord.hold) h

theorem State.hold_none {x : State} {c : Fin 256} (h : x.channel c = none) : x.hold c = none :=
  congrArg (Option.map ChannelRecord.hold) h

theorem State.hold_cases (x : State) (c : Fin 256) :
    (x.channel c = none ∧ x.hold c = none) ∨ ∃ r, x.channel c = some r ∧ x.hold c = some r.hold := by
  cases h : x.channel c with
  | none => exact .inl ⟨rfl, State.hold_none h⟩
  | some r => exact .inr ⟨r, rfl, State.hold_eq h⟩

/-! ### DEFINE CHANNEL -/

theorem channelFieldsOf_eq_none {stage multiple bandwidth priority autoMove low high : Nat}
    (h : 7 < stage ∨ multiple ∉ [1, 2, 4, 5] ∨ 2 < bandwidth ∨ 3 < priority ∨ 1 < autoMove ∨ rangeOk low high = false) :
    channelFieldsOf stage multiple bandwidth priority autoMove low high = none := by
  unfold channelFieldsOf
  split
  · next b c a hb hc ha =>
    rcases h with big | multiple | big | big | big | range
    · rw [index_eq_none big] at hb
      cases hb
    · rw [validMultiple_eq_false multiple]
      rfl
    · rw [bandwidthOf_eq_none big] at hc
      cases hc
    · rw [decide_eq_false (Nat.not_le.2 big), Bool.and_false]
      rfl
    · rw [yesNo_eq_none big] at ha
      cases ha
    · rw [range, Bool.and_false, Bool.false_and]
      rfl
  · rfl

theorem defineChannelOrder_badArgument {o : Handed} {x : State} (h : x.sentChannel o = none ∨ x.sentFields o = none) :
    defineChannelOrder o x = x.refuse o .badArgument := by
  unfold defineChannelOrder
  rcases h with h | h
  · rw [h]
  · rw [h]
    cases x.sentChannel o <;> rfl

theorem defineChannelOrder_undefined {o : Handed} {x : State} {c : Fin 256} {f : ChannelFields}
    (hc : x.sentChannel o = some c) (hf : x.sentFields o = some f)
    (free : x.hold c = none ∨ x.hold c = some .defined) (stage : x.site.stages[f.stage] = none) :
    defineChannelOrder o x = x.refuse o .state := by
  unfold defineChannelOrder
  rw [hc, hf]
  dsimp only
  rcases x.hold_cases c with ⟨none, -⟩ | ⟨r, some, hold⟩
  · rw [none]
    exact if_neg (by rw [stage]; decide)
  · rw [some]
    have defined : r.hold = .defined := by
      rw [hold] at free
      simpa using free
    dsimp only
    rw [defined]
    exact if_neg (by rw [stage]; decide)

/-- DEFINE CHANNEL on a channel that holds a frequency. -/
theorem defineChannelOrder_held {o : Handed} {x : State} {c : Fin 256} {f : ChannelFields} {r : ChannelRecord}
    (hc : x.sentChannel o = some c) (hf : x.sentFields o = some f) (hr : x.channel c = some r)
    (held : r.hold ≠ .defined) :
    defineChannelOrder o x =
      if f.stage ≠ r.fields.stage ∨ f.bandwidth ≠ r.fields.bandwidth then x.refuse o .state
      else if x.keeps f r.hold then x.defined o c f r.hold
      else x.refuse o .state := by
  unfold defineChannelOrder
  rw [hc, hf]
  dsimp only
  rw [hr]
  dsimp only
  cases h : r.hold with
  | defined => exact absurd h held
  | tentative g => rfl
  | placed g => rfl
  | live g => rfl
  | moving g k e => rfl
  | unresolved g k => rfl

theorem Hold.mem_frequencies {h : Hold} {g : Nat} (e : h.primary = some g ∨ h.secondary = some g) :
    ∃ b, (b, g) ∈ h.frequencies := by
  cases h with
  | defined => rcases e with e | e <;> cases e
  | tentative f =>
    rcases e with e | e <;> cases e
    exact ⟨false, .head _⟩
  | placed f =>
    rcases e with e | e <;> cases e
    exact ⟨false, .head _⟩
  | live f =>
    rcases e with e | e <;> cases e
    exact ⟨false, .head _⟩
  | moving f k t =>
    rcases e with e | e <;> cases e
    · exact ⟨false, .head _⟩
    · exact ⟨true, .tail _ (.head _)⟩
  | unresolved f k =>
    rcases e with e | e <;> cases e
    · exact ⟨false, .head _⟩
    · exact ⟨true, .tail _ (.head _)⟩

theorem defineChannelOrder_held_refused {o : Handed} {x : State} {c : Fin 256} {f : ChannelFields} {r : ChannelRecord}
    (hc : x.sentChannel o = some c) (hf : x.sentFields o = some f) (hr : x.channel c = some r)
    (held : r.hold ≠ .defined)
    (bad : f.stage ≠ r.fields.stage ∨ f.bandwidth ≠ r.fields.bandwidth ∨
      ∃ g, (r.hold.primary = some g ∨ r.hold.secondary = some g) ∧
        x.check1 (x.site.channelCandidate { r with fields := f } g) = false) :
    defineChannelOrder o x = x.refuse o .state := by
  rw [defineChannelOrder_held hc hf hr held]
  split
  · rfl
  · next same =>
    obtain ⟨g, holds, fails⟩ := (bad.resolve_left fun e => same (.inl e)).resolve_left fun e => same (.inr e)
    refine if_neg fun keeps => ?_
    obtain ⟨b, m⟩ := Hold.mem_frequencies holds
    have passes := List.all_eq_true.1 keeps _ m
    exact Bool.noConfusion (passes.symm.trans fails)

/-! ### The orders that name a channel -/

theorem retireChannelOrder_badArgument {o : Handed} {x : State} (h : x.sentChannel o = none) :
    retireChannelOrder o x = x.refuse o .badArgument := by
  unfold retireChannelOrder
  rw [h]

theorem retireChannelOrder_notFound {o : Handed} {x : State} {c : Fin 256} (hc : x.sentChannel o = some c)
    (h : x.hold c = none) : retireChannelOrder o x = x.refuse o .notFound := by
  unfold retireChannelOrder
  rw [hc]
  dsimp only
  rw [h]

theorem retireChannelOrder_state {o : Handed} {x : State} {c : Fin 256} {h : Hold} (hc : x.sentChannel o = some c)
    (hh : x.hold c = some h) (held : h ≠ .defined) : retireChannelOrder o x = x.refuse o .state := by
  unfold retireChannelOrder
  rw [hc]
  dsimp only
  rw [hh]
  cases h with
  | defined => exact absurd rfl held
  | tentative g => rfl
  | placed g => rfl
  | live g => rfl
  | moving g k e => rfl
  | unresolved g k => rfl

theorem markLiveOrder_badArgument {o : Handed} {x : State} (h : x.sentChannel o = none) :
    markLiveOrder o x = x.refuse o .badArgument := by
  unfold markLiveOrder
  rw [h]

theorem markLiveOrder_state {o : Handed} {x : State} {c : Fin 256} (hc : x.sentChannel o = some c)
    (h : ∀ f, x.hold c ≠ some (.placed f) ∧ x.hold c ≠ some (.live f)) : markLiveOrder o x = x.refuse o .state := by
  unfold markLiveOrder
  rw [hc]
  dsimp only
  split
  · next f e => exact absurd e (h f).1
  · next f e => exact absurd e (h f).2
  · rfl

theorem markIdleOrder_badArgument {o : Handed} {x : State} (h : x.sentChannel o = none) :
    markIdleOrder o x = x.refuse o .badArgument := by
  unfold markIdleOrder
  rw [h]

theorem markIdleOrder_state {o : Handed} {x : State} {c : Fin 256} (hc : x.sentChannel o = some c)
    (h : ∀ f, x.hold c ≠ some (.placed f) ∧ x.hold c ≠ some (.live f)) : markIdleOrder o x = x.refuse o .state := by
  unfold markIdleOrder
  rw [hc]
  dsimp only
  split
  · next f e => exact absurd e (h f).2
  · next f e => exact absurd e (h f).1
  · rfl

theorem releaseOrder_badArgument {o : Handed} {x : State} (h : x.sentChannel o = none) :
    releaseOrder o x = x.refuse o .badArgument := by
  unfold releaseOrder
  rw [h]

theorem releaseOrder_busy {o : Handed} {x : State} {c : Fin 256} (hc : x.sentChannel o = some c)
    (marked : x.marked c = true) : releaseOrder o x = x.refuse o .busy := by
  unfold releaseOrder
  rw [hc]
  exact if_pos marked

theorem releaseOrder_state {o : Handed} {x : State} {c : Fin 256} (hc : x.sentChannel o = some c)
    (marked : x.marked c = false) (h : (x.hold c).bind Hold.move ≠ none ∨ x.hold c = none) :
    releaseOrder o x = x.refuse o .state := by
  unfold releaseOrder
  rw [hc]
  dsimp only
  rw [marked, if_neg (by decide)]
  rcases x.hold_cases c with ⟨none, -⟩ | ⟨r, some, hold⟩
  · rw [none]
  · rw [some]
    rw [hold] at h
    dsimp only
    have moves : r.hold.move ≠ none := h.resolve_right (Option.some_ne_none _)
    cases e : r.hold with
    | defined => exact absurd (congrArg Hold.move e) moves
    | tentative g => exact absurd (congrArg Hold.move e) moves
    | placed g => exact absurd (congrArg Hold.move e) moves
    | live g => exact absurd (congrArg Hold.move e) moves
    | moving g k t => rfl
    | unresolved g k => rfl

theorem confirmMoveOrder_badArgument {o : Handed} {x : State} (h : x.sentChannel o = none) :
    confirmMoveOrder o x = x.refuse o .badArgument := by
  unfold confirmMoveOrder
  rw [h]

theorem confirmMoveOrder_state {o : Handed} {x : State} {c : Fin 256} (hc : x.sentChannel o = some c)
    (h : (x.hold c).bind Hold.move = none) : confirmMoveOrder o x = x.refuse o .state := by
  unfold confirmMoveOrder
  rw [hc]
  dsimp only
  rcases x.hold_cases c with ⟨none, -⟩ | ⟨r, some, hold⟩
  · rw [none]
  · rw [hold] at h
    rw [some]
    dsimp only
    rw [show r.hold.move = none from h]

theorem declineMoveOrder_badArgument {o : Handed} {x : State} (h : x.sentChannel o = none) :
    declineMoveOrder o x = x.refuse o .badArgument := by
  unfold declineMoveOrder
  rw [h]

theorem declineMoveOrder_state {o : Handed} {x : State} {c : Fin 256} (hc : x.sentChannel o = some c)
    (h : (x.hold c).bind Hold.move = none) : declineMoveOrder o x = x.refuse o .state := by
  unfold declineMoveOrder
  rw [hc]
  dsimp only
  rcases x.hold_cases c with ⟨none, -⟩ | ⟨r, some, hold⟩
  · rw [none]
  · rw [hold] at h
    rw [some]
    dsimp only
    rw [show r.hold.move = none from h]

theorem pinOrder_badArgument {o : Handed} {x : State}
    (h : x.sentChannel o = none ∨ validStep (x.param o 2 2) = false ∨ 4 ≤ x.param o 4 1) :
    pinOrder o x = x.refuse o .badArgument := by
  unfold pinOrder
  dsimp only
  cases hc : x.sentChannel o with
  | none => rfl
  | some c =>
    refine if_pos ?_
    rcases h with h | h | h
    · rw [hc] at h
      cases h
    · rw [h]
      rfl
    · rw [decide_eq_true h, Bool.or_true]

/-- PIN behind its argument checks. -/
theorem pinOrder_checked {o : Handed} {x : State} {c : Fin 256} (hc : x.sentChannel o = some c)
    (step : validStep (x.param o 2 2) = true) (options : x.param o 4 1 < 4) :
    pinOrder o x =
      if x.marked c then x.refuse o .busy
      else
        match x.channel c with
        | none => x.refuse o .state
        | some r =>
          match r.hold with
          | .defined | .placed _ =>
            x.pin o c r (x.param o 2 2) ((x.param o 4 1).testBit 0) ((x.param o 4 1).testBit 1)
          | _ => x.refuse o .state := by
  unfold pinOrder
  dsimp only
  rw [hc]
  dsimp only
  rw [step]
  exact if_neg (by rw [decide_eq_false (Nat.not_le.2 options)]; decide)

theorem pinOrder_busy {o : Handed} {x : State} {c : Fin 256} (hc : x.sentChannel o = some c)
    (step : validStep (x.param o 2 2) = true) (options : x.param o 4 1 < 4) (marked : x.marked c = true) :
    pinOrder o x = x.refuse o .busy := by
  rw [pinOrder_checked hc step options, if_pos marked]

theorem pinOrder_vacant {o : Handed} {x : State} {c : Fin 256} (hc : x.sentChannel o = some c)
    (step : validStep (x.param o 2 2) = true) (options : x.param o 4 1 < 4) (vacant : x.channel c = none) :
    pinOrder o x = x.refuse o .state := by
  have marked : x.marked c = false := by
    unfold State.marked
    rw [vacant]
    rfl
  rw [pinOrder_checked hc step options, marked, if_neg (by decide), vacant]

theorem replaceOrder_badArgument {o : Handed} {x : State} (h : x.sentChannel o = none ∨ 2 ≤ x.param o 2 1) :
    replaceOrder o x = x.refuse o .badArgument := by
  unfold replaceOrder
  dsimp only
  cases hc : x.sentChannel o with
  | none => rfl
  | some c =>
    rcases h with h | h
    · rw [hc] at h
      cases h
    · exact if_pos h

/-- REPLACE behind its argument checks. -/
theorem replaceOrder_checked {o : Handed} {x : State} {c : Fin 256} (hc : x.sentChannel o = some c)
    (options : x.param o 2 1 < 2) :
    replaceOrder o x =
      if x.marked c then x.refuse o .busy
      else
        match x.channel c with
        | none => x.refuse o .state
        | some r =>
          match r.hold with
          | .placed f | .live f =>
            (x.replace c r f ((x.param o 2 1).testBit 0)).1.replaceEnd o c f
              (x.replace c r f ((x.param o 2 1).testBit 0)).2
          | _ => x.refuse o .state := by
  unfold replaceOrder
  dsimp only
  rw [hc]
  dsimp only
  exact if_neg (Nat.not_le.2 options)

theorem replaceOrder_busy {o : Handed} {x : State} {c : Fin 256} (hc : x.sentChannel o = some c)
    (options : x.param o 2 1 < 2) (marked : x.marked c = true) : replaceOrder o x = x.refuse o .busy := by
  rw [replaceOrder_checked hc options, if_pos marked]

theorem replaceOrder_state {o : Handed} {x : State} {c : Fin 256} (hc : x.sentChannel o = some c)
    (options : x.param o 2 1 < 2) (marked : x.marked c = false)
    (h : ∀ g, x.hold c ≠ some (.placed g) ∧ x.hold c ≠ some (.live g)) : replaceOrder o x = x.refuse o .state := by
  rw [replaceOrder_checked hc options, marked, if_neg (by decide)]
  rcases x.hold_cases c with ⟨none, -⟩ | ⟨r, some, hold⟩
  · rw [none]
  · rw [some]
    rw [hold] at h
    dsimp only
    cases e : r.hold with
    | defined => rfl
    | tentative g => rfl
    | placed g => exact absurd (congrArg Option.some e) (h g).1
    | live g => exact absurd (congrArg Option.some e) (h g).2
    | moving g k t => rfl
    | unresolved g k => rfl

/-! ### The orders that yield -/

theorem checkListOrder_badArgument {o : Handed} {x : State}
    (h : x.port.headField o.head 12 2 = 0 ∨ 480 < x.port.headField o.head 12 2 ∨
      60 * o.length < x.port.headField o.head 12 2) : checkListOrder o x = x.refuse o .badArgument := by
  unfold checkListOrder
  exact if_pos h

theorem placeOrder_badArgument {o : Handed} {x : State}
    (h : x.param o 0 2 = 0 ∨ 256 < x.param o 0 2 ∨ 36 + 40 * o.rest.length < x.param o 0 2 ∨ 4 ≤ x.param o 2 1) :
    placeOrder o x = x.refuse o .badArgument := by
  unfold placeOrder
  exact if_pos h

theorem refillSparesOrder_badArgument {o : Handed} {x : State}
    (h : BitVec.ofNat 8 (x.param o 0 1) = 0 ∨ 2 ≤ x.param o 1 1) :
    refillSparesOrder o x = x.refuse o .badArgument := by
  unfold refillSparesOrder
  exact if_pos h

/-! ### The reads and the orders on zones -/

theorem readChannelsOrder_badArgument {o : Handed} {x : State} (h : 255 < x.param o 0 2 ∨ x.param o 2 2 = 0) :
    readChannelsOrder o x = x.refuse o .badArgument := by
  unfold readChannelsOrder
  exact if_pos h

theorem planeOf_eq_none {n : Nat} (h3 : n ≠ 3) (h5 : n ≠ 5) : planeOf n = none := by
  unfold planeOf
  split
  · exact absurd rfl h3
  · exact absurd rfl h5
  · rfl

/-- The check of a span of bins: it holds none, or begins outside the window. -/
theorem span_refused {w : Window} {start count : Nat} (h : count = 0 ∨ w.has start = false) :
    (decide (count = 0) || !w.has start) = true := by
  rcases h with h | h <;> simp [h]

theorem readCensusOrder_badArgument {o : Handed} {x : State}
    (h : 7 < x.param o 0 1 ∨ (x.param o 1 1 ≠ 3 ∧ x.param o 1 1 ≠ 5) ∨ x.param o 4 2 = 0 ∨
      x.site.window.has (x.param o 2 2) = false) : readCensusOrder o x = x.refuse o .badArgument := by
  unfold readCensusOrder
  dsimp only
  rcases h with big | ⟨h3, h5⟩ | h
  · rw [index_eq_none big]
  · rw [planeOf_eq_none h3 h5]
    cases index 8 (x.param o 0 1) <;> rfl
  · split
    · exact if_pos (span_refused h)
    · rfl

theorem readSparesOrder_badArgument {o : Handed} {x : State} (h : x.param o 0 1 = 0) :
    readSparesOrder o x = x.refuse o .badArgument := by
  unfold readSparesOrder
  rw [h]
  rfl

theorem readSpectrumOrder_badArgument {o : Handed} {x : State}
    (h : 3 < x.param o 0 1 ∨ x.param o 4 2 = 0 ∨ x.site.window.has (x.param o 2 2) = false) :
    readSpectrumOrder o x = x.refuse o .badArgument := by
  unfold readSpectrumOrder
  dsimp only
  rcases h with big | h
  · rw [index_eq_none big]
  · split
    · rfl
    · exact if_pos (span_refused h)

theorem zonesOf_eq_nil {n : Nat} (h : n % 16 = 0) : zonesOf n = [] := by
  have clear : ∀ z : Fin 4, n.testBit z = false := fun z => by
    have bit := Nat.testBit_mod_two_pow n 4 z.val
    rw [show (2 : Nat) ^ 4 = 16 from rfl, h, Nat.zero_testBit, decide_eq_true z.isLt, Bool.true_and] at bit
    exact bit.symm
  unfold zonesOf
  exact List.filter_eq_nil_iff.2 fun z _ => by rw [clear z]; decide

theorem readLinksOrder_badArgument {o : Handed} {x : State} (h : x.param o 0 1 % 16 = 0) :
    readLinksOrder o x = x.refuse o .badArgument := by
  unfold readLinksOrder
  exact if_pos (zonesOf_eq_nil h)

theorem readWatchOrder_badArgument {o : Handed} {x : State} (h : 3 < x.param o 0 1) :
    readWatchOrder o x = x.refuse o .badArgument := by
  unfold readWatchOrder
  rw [index_eq_none h]

theorem setZoneOrder_badArgument {o : Handed} {x : State} (h : 3 < x.param o 0 1 ∨ 1 < x.param o 6 1) :
    setZoneOrder o x = x.refuse o .badArgument := by
  unfold setZoneOrder
  rcases h with h | h
  · rw [index_eq_none h]
  · rw [watchModeOf_eq_none h]
    cases index 4 (x.param o 0 1) <;> rfl

theorem probeOrder_badArgument {o : Handed} {x : State} (h : 3 < x.param o 0 1 ∨ validStep (x.param o 2 2) = false) :
    probeOrder o x = x.refuse o .badArgument := by
  unfold probeOrder
  dsimp only
  cases hz : index 4 (x.param o 0 1) with
  | none => rfl
  | some z =>
    rcases h with h | h
    · rw [index_eq_none h] at hz
      cases hz
    · exact if_pos (by rw [h]; rfl)

theorem probeOrder_linkBusy {o : Handed} {x : State} {z : Fin 4} (hz : x.param o 0 1 = z.val)
    (step : validStep (x.param o 2 2) = true) (waits : x.links[z].slot.isSome = true) :
    probeOrder o x = x.refuse o .linkBusy := by
  unfold probeOrder
  dsimp only
  rw [hz, index_eq_some z]
  dsimp only
  rw [step, if_neg (by decide), if_pos waits]

theorem armWatchOrder_badArgument {o : Handed} {x : State} (h : 3 < x.param o 0 1 ∨ x.param o 4 8 = 0) :
    armWatchOrder o x = x.refuse o .badArgument := by
  unfold armWatchOrder
  dsimp only
  cases hz : index 4 (x.param o 0 1) with
  | none => rfl
  | some z =>
    rcases h with h | h
    · rw [index_eq_none h] at hz
      cases hz
    · exact if_pos (by rw [h]; rfl)

theorem forceHitOrder_badArgument {o : Handed} {x : State}
    (h : 3 < x.param o 0 1 ∨ 63 < x.param o 1 1 ∨
      ∃ j : Fin 64, x.param o 1 1 = j.val ∧ x.site.window.top < x.site.window.segmentLow j) :
    forceHitOrder o x = x.refuse o .badArgument := by
  unfold forceHitOrder
  rcases h with h | h | ⟨j, hj, empty⟩
  · rw [index_eq_none h]
  · rw [index_eq_none h]
    cases index 4 (x.param o 0 1) <;> rfl
  · rw [hj, index_eq_some j]
    cases index 4 (x.param o 0 1) with
    | none => rfl
    | some z =>
      refine if_pos ?_
      unfold Window.segmentFull
      rw [decide_eq_false (Nat.not_le.2 empty)]
      rfl

end Sys2Proof.Machine

open Sys2Proof Sys2Proof.Machine

/-- Settles O19: each order is refused by its first check that fails. -/
theorem planOrdersRefused : Obligations.PlanOrdersRefused := by
  have none : ∀ {s : State} {u : Bool} {o : Handed}, 255 < s.param o 0 2 → (s.begin u o).sentChannel o = none :=
    fun big => by
      rw [State.begin_sentChannel]
      exact State.sentChannel_none big
  have some : ∀ {s : State} {u : Bool} {o : Handed} {c : Fin 256}, s.sentChannel o = some c →
      (s.begin u o).sentChannel o = some c := fun hc => by rwa [State.begin_sentChannel]
  have step : ∀ {s : State} {u : Bool} {o : Handed} {b : Bool}, validStep (s.param o 2 2) = b →
      validStep ((s.begin u o).param o 2 2) = b := fun h => by
    rw [State.begin_param]
    exact h
  have less : ∀ {s : State} {u : Bool} {o : Handed} {i n k : Nat}, s.param o i n < k →
      (s.begin u o).param o i n < k := fun h => by rwa [State.begin_param]
  refine ⟨fun s u o h => ⟨fun bad => h.refused (defineChannelOrder_badArgument ?_), fun c f hc hf =>
      ⟨fun free stage => h.refused (defineChannelOrder_undefined (some hc) ?_ free stage),
        fun r hr held bad => h.refused (defineChannelOrder_held_refused (some hc) ?_ hr held bad)⟩⟩,
    fun s u o => ⟨fun big => ⟨fun h => h.refused (retireChannelOrder_badArgument (none big)),
      fun h => h.refused (markLiveOrder_badArgument (none big)), fun h => h.refused (markIdleOrder_badArgument (none big)),
      fun h => h.refused (releaseOrder_badArgument (none big)),
      fun h => h.refused (confirmMoveOrder_badArgument (none big)),
      fun h => h.refused (declineMoveOrder_badArgument (none big)),
      fun h => h.refused (pinOrder_badArgument (.inl (none big))),
      fun h => h.refused (replaceOrder_badArgument (.inl (none big)))⟩,
    fun c hc marked => ⟨fun h => h.refused (releaseOrder_busy (some hc) marked),
      fun h valid options => h.refused (pinOrder_busy (some hc) (step valid) (less options) marked),
      fun h options => h.refused (replaceOrder_busy (some hc) (less options) marked)⟩,
    fun c hc => ⟨fun h vacant => h.refused (retireChannelOrder_notFound (some hc) vacant),
      fun x h hx held => h.refused (retireChannelOrder_state (some hc) hx held),
      fun h other => h.refused (markLiveOrder_state (some hc) other),
      fun h other => h.refused (markIdleOrder_state (some hc) other),
      fun h unmarked moves => h.refused (releaseOrder_state (some hc) unmarked moves),
      fun h still => h.refused (confirmMoveOrder_state (some hc) still),
      fun h still => h.refused (declineMoveOrder_state (some hc) still)⟩⟩,
    fun s u o => ⟨fun h bad => h.refused (checkListOrder_badArgument ?_),
      fun h bad => h.refused (placeOrder_badArgument ?_), fun h bad => h.refused (refillSparesOrder_badArgument ?_),
      fun h bad => h.refused (pinOrder_badArgument (.inr (bad.imp step fun big => ?_))),
      fun c h hc valid options vacant => h.refused (pinOrder_vacant (some hc) (step valid) (less options) vacant),
      fun h big => h.refused (replaceOrder_badArgument (.inr ?_)),
      fun c h hc options unmarked other => h.refused (replaceOrder_state (some hc) (less options) unmarked other)⟩⟩
  · rw [State.begin_sentChannel, State.begin_sentFields]
    exact bad.imp State.sentChannel_none channelFieldsOf_eq_none
  · rwa [State.begin_sentFields]
  · rwa [State.begin_sentFields]
  · simpa only [State.begin_headField] using bad
  · simpa only [State.begin_param] using bad
  · simp only [State.begin_param]
    exact bad.imp (congrArg (BitVec.ofNat 8)) id
  · rwa [State.begin_param]
  · rwa [State.begin_param]

/-- Settles O43. -/
theorem readAndZoneOrdersRefused : Obligations.ReadAndZoneOrdersRefused := by
  refine fun s u o => ⟨fun h bad => h.refused (readChannelsOrder_badArgument ?_),
    fun h bad => h.refused (readCensusOrder_badArgument ?_), fun h bad => h.refused (readSparesOrder_badArgument ?_),
    fun h bad => h.refused (readSpectrumOrder_badArgument ?_), fun h bad => h.refused (readLinksOrder_badArgument ?_),
    fun h bad => h.refused (readWatchOrder_badArgument ?_), fun h bad => h.refused (setZoneOrder_badArgument ?_),
    fun h bad => h.refused (probeOrder_badArgument ?_),
    fun z h hz valid waits => h.refused (probeOrder_linkBusy (z := z) ?_ ?_ waits),
    fun h bad => h.refused (armWatchOrder_badArgument ?_),
    fun h bad => h.refused (forceHitOrder_badArgument (bad.imp ?_ fun big => .inl ?_)),
    fun j h hj empty => h.refused (forceHitOrder_badArgument (.inr (.inr ⟨j, ?_, empty⟩)))⟩
  · simpa only [State.begin_param] using bad
  · simpa only [State.begin_param, State.begin_site] using bad
  · simpa only [State.begin_param] using bad
  · simpa only [State.begin_param, State.begin_site] using bad
  · simpa only [State.begin_param] using bad
  · simpa only [State.begin_param] using bad
  · simpa only [State.begin_param] using bad
  · simpa only [State.begin_param] using bad
  · rwa [State.begin_param]
  · rw [State.begin_param]
    exact valid
  · simpa only [State.begin_param] using bad
  · rw [State.begin_param]
    exact id
  · rwa [State.begin_param]
  · rwa [State.begin_param]

end


section
/-! Plan changes: the channel table, the counts of the census, and the UPKEEP entries that the path of R21 queues. -/

namespace Sys2Proof.Machine

/-! ### The channel table -/

theorem Plan.setChannel_get (p : Plan) (c d : Fin 256) (r : Option ChannelRecord) :
    (p.setChannel c r).channels[d] = if d = c then r else p.channels[d] := vector_set_get _ _ _ _

theorem Plan.setHold_get (p : Plan) (c d : Fin 256) (h : Hold) :
    (p.setHold c h).channels[d] =
      if d = c then p.channels[c].map (fun r => { r with hold := h }) else p.channels[d] :=
  p.setChannel_get _ _ _

@[simp] theorem Plan.setHold_epoch (p : Plan) (c : Fin 256) (h : Hold) : (p.setHold c h).epoch = p.epoch := rfl

@[simp] theorem Plan.bump_channels (p : Plan) : p.bump.channels = p.channels := rfl

@[simp] theorem Plan.bump_epoch (p : Plan) : p.bump.epoch = p.epoch + 1 := rfl

@[simp] theorem Plan.bump_transmitters (p : Plan) : p.bump.transmitters = p.transmitters := rfl

/-- A state whose plan gives one channel another hold. -/
theorem State.channel_setHold {s t : State} {c : Fin 256} {h : Hold} {r : ChannelRecord}
    (e : t.plan.channels = (s.plan.setHold c h).channels) (hr : s.channel c = some r) :
    t.channel c = some { r with hold := h } := by
  have := s.plan.setHold_get c c h
  rw [if_pos rfl] at this
  unfold State.channel at hr ⊢
  rw [e, this, hr]
  rfl

theorem State.othersKept_setHold {s t : State} {c : Fin 256} {h : Hold}
    (e : t.plan.channels = (s.plan.setHold c h).channels) : s.othersKept t c := by
  intro d hd
  unfold State.channel
  rw [e, s.plan.setHold_get, if_neg hd]

/-! ### The counts of the census (R40, R41) -/

theorem Census.removeAll_cons (i : Increment) (l : List Increment) (c : Census) :
    Census.removeAll (i :: l) c = Census.removeAll l (c.setCount i (c.count i - 1)) := rfl

/-- Every count is lowered by the number of times it is named. -/
theorem Census.loses_removeAll (l : List Increment) (c : Census) (ok : c.planesOk) :
    c.loses (Census.removeAll l c) l := by
  induction l generalizing c with
  | nil => intro i; rfl
  | cons j l ih =>
    intro i
    have lower : (c.setCount j (c.count j - 1)).planesOk :=
      c.setCount_planesOk _ _ ok ((Nat.sub_le _ _).trans (ok.2 j))
    rw [Census.removeAll_cons, ih _ lower i, c.count_setCount j i _ ok.1, List.count_cons]
    by_cases e : i = j
    · subst e
      simp only [if_true, beq_self_eq_true]
      omega
    · rw [if_neg e, if_neg (by simpa using Ne.symm e)]
      omega

/-- With room for every product, each count is raised by the number of times it is named (R40). -/
theorem Census.gains_addAll (l : List Increment) (c : Census) (ok : c.planesOk)
    (room : ∀ i, c.count i + l.count i ≤ Config.countLimit) :
    (Census.addAll l c).2 = false ∧ c.gains (Census.addAll l c).1 l := by
  induction l generalizing c with
  | nil => exact ⟨rfl, fun i => rfl⟩
  | cons j l ih =>
    have below : c.count j < Config.countLimit := by
      have := room j
      rw [List.count_cons_self] at this
      omega
    have raised : ∀ i, (c.setCount j (c.count j + 1)).count i + l.count i = c.count i + (j :: l).count i := by
      intro i
      rw [c.count_setCount j i _ ok.1, List.count_cons]
      by_cases e : i = j
      · subst e
        simp only [if_true, beq_self_eq_true]
        omega
      · rw [if_neg e, if_neg (by simpa using Ne.symm e)]
        omega
    obtain ⟨fits, gains⟩ := ih (c.setCount j (c.count j + 1)) (c.setCount_planesOk _ _ ok below)
      fun i => (raised i).trans_le (room i)
    unfold Census.addAll
    rw [if_neg (Nat.ne_of_lt below)]
    exact ⟨fits, fun i => (gains i).trans (raised i)⟩

/-- Where a count would pass 65,535, the addition stops (R41). -/
theorem Census.addAll_saturates (l : List Increment) (c : Census) (ok : c.planesOk)
    (past : ∃ i, Config.countLimit < c.count i + l.count i) : (Census.addAll l c).2 = true := by
  induction l generalizing c with
  | nil =>
    obtain ⟨i, h⟩ := past
    exact absurd (ok.2 i) (by rw [List.count_nil] at h; omega)
  | cons j l ih =>
    unfold Census.addAll
    by_cases full : c.count j = Config.countLimit
    · rw [if_pos full]
    · rw [if_neg full]
      have below : c.count j + 1 ≤ Config.countLimit := Nat.lt_of_le_of_ne (ok.2 j) full
      refine ih _ (c.setCount_planesOk _ _ ok below) ?_
      obtain ⟨i, h⟩ := past
      refine ⟨i, ?_⟩
      rw [c.count_setCount j i _ ok.1]
      rw [List.count_cons] at h
      by_cases e : i = j
      · subst e
        simp only [if_true, beq_self_eq_true] at h ⊢
        omega
      · rw [if_neg e]
        rw [if_neg (by simpa using Ne.symm e)] at h
        omega

/-! ### What a plan change does besides (R21, R22) -/

/-- The path of R21 for a removed frequency: the census loses its products, the lists are rechecked (R40, R86). -/
theorem State.removed_effect (s : State) (x : Transmitter) (ok : s.census.planesOk) :
    s.removes (s.removed x) x ∧ s.rechecksAll (s.removed x) ∧
      s.removed x = { s with plan := s.plan.bump, census := (s.removed x).census, spares := (s.removed x).spares,
                             engine := (s.removed x).engine } := by
  unfold State.removed State.removes
  cases valid : s.census.state with
  | valid =>
    obtain ⟨state, cause, -⟩ := Census.removeAll_keeps (s.site.increments x s.plan.transmitters) s.census
    exact ⟨⟨fun h => absurd rfl h, fun _ => ⟨state.trans valid, cause, Census.loses_removeAll _ _ ok⟩⟩,
      State.rechecksAll_settle _, rfl⟩
  | stale => exact ⟨⟨fun _ => rfl, nofun⟩, State.rechecksAll_settle _, rfl⟩
  | rebuilding => exact ⟨⟨fun _ => rfl, nofun⟩, State.rechecksAll_settle _, rfl⟩

theorem State.added_of_not_valid {s : State} (x : Transmitter) (h : s.census.state ≠ .valid) : s.added x = s.settle := by
  unfold State.added
  split
  · rename_i valid
    exact absurd valid h
  · rfl
  · rfl

theorem State.added_of_fits {s : State} {x : Transmitter} (h : s.census.state = .valid)
    (fits : (Census.addAll (s.site.increments x (s.plan.others x)) s.census).2 = false) :
    s.added x = State.settle
      { s with census := (Census.addAll (s.site.increments x (s.plan.others x)) s.census).1 } := by
  unfold State.added
  simp only [h, fits]
  rfl

theorem State.added_of_saturates {s : State} {x : Transmitter} (h : s.census.state = .valid)
    (full : (Census.addAll (s.site.increments x (s.plan.others x)) s.census).2 = true) :
    s.added x = State.settle (State.stale
      { s with census := (Census.addAll (s.site.increments x (s.plan.others x)) s.census).1 } .saturated) := by
  unfold State.added
  simp only [h, full]
  rfl

/-- The path of R21 for an added frequency: the census gains its products or saturates, the lists are rechecked, and
CENSUS is raised where the census goes STALE (R40 to R42, R86). -/
theorem State.added_effect (s : State) (x : Transmitter) (ok : s.census.planesOk) :
    s.adds (s.added x) x ∧ s.rechecksAll (s.added x) ∧ (s.added x).port = s.portFor (s.added x) ∧
      s.added x = { s with plan := s.plan.bump, census := (s.added x).census, spares := (s.added x).spares,
                           engine := (s.added x).engine, port := (s.added x).port } := by
  unfold State.adds State.portFor
  by_cases valid : s.census.state = .valid
  · obtain ⟨state, cause, -⟩ := Census.addAll_keeps (s.site.increments x (s.plan.others x)) s.census
    cases full : (Census.addAll (s.site.increments x (s.plan.others x)) s.census).2 with
    | false =>
      have room : ∀ i, s.census.count i + (s.site.increments x (s.plan.others x)).count i ≤ Config.countLimit := by
        intro i
        by_contra past
        have := Census.addAll_saturates _ s.census ok ⟨i, Nat.not_le.1 past⟩
        rw [full] at this
        exact absurd this (by decide)
      rw [State.added_of_fits valid full]
      refine ⟨⟨fun h => absurd valid h, fun _ _ => ⟨state.trans valid, cause, (Census.gains_addAll _ _ ok room).2⟩,
        fun _ ⟨i, past⟩ => absurd (room i) (Nat.not_le.2 past)⟩, State.rechecksAll_settle _, ?_, rfl⟩
      simp [state.trans valid]
    | true =>
      rw [State.added_of_saturates valid full]
      refine ⟨⟨fun h => absurd valid h, fun _ room => ?_, fun _ _ => ⟨rfl, rfl⟩⟩, State.rechecksAll_settle _, ?_, rfl⟩
      · have := (Census.gains_addAll _ _ ok room).1.symm.trans full
        exact absurd this (by decide)
      · simp [State.stale, state.trans valid, valid]
  · rw [State.added_of_not_valid x valid]
    refine ⟨⟨fun _ => rfl, fun h => absurd h valid, fun h => absurd h valid⟩, s.rechecksAll_settle, ?_, rfl⟩
    exact (if_neg fun h => h.1 h.2).symm

end Sys2Proof.Machine
end


section
/-! The UPKEEP entries of an event: what a recheck queues, and what several of them leave on the routine list (R86, R88). -/

namespace Sys2Proof.Machine

/-! ### What one trigger queues -/

/-- A list is below its target only at a DEFINED stage. -/
theorem Site.defined_of_short {x : Site} {b : Fin 8} {n : Nat} (h : n < x.target b) : (x.stages[b]).isSome = true := by
  unfold Site.target at h
  cases e : x.stages[b] with
  | none => simp [e] at h
  | some r => rfl

theorem State.needsUpkeep_eq (s : State) (b : Fin 8) :
    s.needsUpkeep b = (decide ((s.spares[b]).length < s.site.target b) && !s.engine.routine.contains (.upkeep b) &&
      !s.engine.upkeepActive b) := by
  unfold State.needsUpkeep
  by_cases short : (s.spares[b]).length < s.site.target b
  · rw [Site.defined_of_short short, Bool.true_and]
  · rw [decide_eq_false short, Bool.and_false]

theorem State.needsUpkeep_iff (s : State) (b : Fin 8) :
    s.needsUpkeep b = true ↔ (s.spares[b]).length < s.site.target b ∧ Entry.upkeep b ∉ s.engine.routine ∧
      s.engine.upkeepActive b = false := by
  rw [State.needsUpkeep_eq]
  simp [and_assoc]

/-- The entries that a trigger queues for stages in ascending order. -/
theorem State.upkeepEntries_filter (s : State) (triggered : Fin 8 → Bool) :
    s.upkeepEntries (allStages.filter triggered) = s.shortEntries s triggered := by
  unfold State.upkeepEntries State.shortEntries
  rw [List.filter_filter]
  congr 1
  refine List.filter_congr fun b _ => ?_
  rw [State.needsUpkeep_eq, Bool.and_comm, Bool.and_assoc, Bool.and_assoc, Bool.and_assoc]

theorem State.upkeepEntries_all (s : State) : s.upkeepEntries allStages = s.allShort s := by
  have := s.upkeepEntries_filter fun _ => true
  rwa [List.filter_eq_self.2 fun _ _ => rfl] at this

/-- The entries an event queues depend on the engine as it began and on the lists as it ends. -/
theorem State.shortEntries_congr {s s' t t' : State} (triggered : Fin 8 → Bool)
    (entry : ∀ b, s'.engine.routine.contains (.upkeep b) = s.engine.routine.contains (.upkeep b))
    (active : ∀ b, s'.engine.upkeepActive b = s.engine.upkeepActive b)
    (spares : t'.spares = t.spares) (target : ∀ b, t'.site.target b = t.site.target b) :
    s'.shortEntries t' triggered = s.shortEntries t triggered := by
  unfold State.shortEntries
  simp only [entry, active, spares, target]

theorem State.mem_shortEntries {s t : State} {triggered : Fin 8 → Bool} {b : Fin 8} :
    Entry.upkeep b ∈ s.shortEntries t triggered ↔ triggered b = true ∧ (t.spares[b]).length < t.site.target b ∧
      Entry.upkeep b ∉ s.engine.routine ∧ s.engine.upkeepActive b = false := by
  simp [State.shortEntries, mem_allStages, and_assoc]

/-- What a recheck queues. -/
theorem State.recheck_engine (s : State) (triggered : Fin 8 → Bool) :
    (s.recheck (allStages.filter triggered)).engine = { s.engine with
      routine := s.engine.routine ++ s.shortEntries (s.recheck (allStages.filter triggered)) triggered } :=
  congrArg (fun l => { s.engine with routine := s.engine.routine ++ l })
    (State.upkeepEntries_filter { s with spares := (s.recheck (allStages.filter triggered)).spares } triggered)

theorem State.recheck_engine_all (s : State) :
    (s.recheck allStages).engine = { s.engine with
      routine := s.engine.routine ++ s.allShort (s.recheck allStages) } :=
  congrArg (fun l => { s.engine with routine := s.engine.routine ++ l })
    (State.upkeepEntries_all { s with spares := (s.recheck allStages).spares })

/-- What the path of R21 queues. -/
theorem State.settle_engine (s : State) :
    s.settle.engine = { s.engine with routine := s.engine.routine ++ s.allShort s.settle } := s.recheck_engine_all

theorem State.removed_engine (s : State) (x : Transmitter) :
    (s.removed x).engine = { s.engine with routine := s.engine.routine ++ s.allShort (s.removed x) } := by
  unfold State.removed
  split <;> exact State.settle_engine _

theorem State.added_engine (s : State) (x : Transmitter) :
    (s.added x).engine = { s.engine with routine := s.engine.routine ++ s.allShort (s.added x) } := by
  unfold State.added
  split
  · dsimp only
    split <;> exact State.settle_engine _
  · exact s.settle_engine
  · exact s.settle_engine

/-! ### The entry that is taken up -/

theorem contains_upkeep_order (l : List Entry) (o : Handed) (b : Fin 8) :
    (Entry.order o :: l).contains (.upkeep b) = l.contains (.upkeep b) := by
  rw [List.contains_cons]
  simp

/-- Taking up an order leaves every UPKEEP entry on its list and no UPKEEP active. -/
theorem State.granted_upkeep {s : State} {code : OrderCode} {u : Bool} {o : Handed} (h : s.granted code = some (u, o))
    (b : Fin 8) :
    (s.engine.begin u).routine.contains (.upkeep b) = s.engine.routine.contains (.upkeep b) ∧
      (s.engine.begin u).upkeepActive b = s.engine.upkeepActive b := by
  obtain ⟨-, -, kind, -, -⟩ := State.granted_waiting h
  rcases kind with ⟨rfl, -⟩ | ⟨rfl, -, head, idle⟩
  · exact ⟨rfl, rfl⟩
  · obtain ⟨l, e⟩ : ∃ l, s.engine.routine = .order o :: l := by
      cases e : s.engine.routine with
      | nil => rw [e] at head; exact absurd head nofun
      | cons x l =>
        rw [e] at head
        exact ⟨l, by rw [Option.some.inj head]⟩
    constructor
    · rw [e, contains_upkeep_order]
      simp [Engine.begin, e]
    · simp [Engine.upkeepActive, Engine.begin, RoutineContext.work, idle]

theorem State.begin_shortEntries {s : State} {code : OrderCode} {u : Bool} {o : Handed}
    (h : s.granted code = some (u, o)) (t : State) (triggered : Fin 8 → Bool) :
    (s.begin u o).shortEntries t triggered = s.shortEntries t triggered :=
  State.shortEntries_congr triggered (fun b => (State.granted_upkeep h b).1) (fun b => (State.granted_upkeep h b).2) rfl
    fun _ => rfl

theorem Engine.release_routine (e : Engine) (l : List Entry) :
    Engine.release { e with routine := l } = { e.release with routine := l } := by
  unfold Engine.release
  cases e.urgentContext <;> rfl

theorem Engine.routine_release (e : Engine) : e.release.routine = e.routine := by
  unfold Engine.release
  cases e.urgentContext <;> rfl

/-- The engine at the end of an order whose event has queued entries. -/
theorem State.leaves_exact {s x t : State} {u : Bool} {l : List Entry} (time : s.sameTime t)
    (e : t.engine = x.engine.release)
    (g : x.engine = { s.engine.begin u with routine := (s.engine.begin u).routine ++ l }) : s.leaves t u l := by
  refine ⟨time, ?_⟩
  rw [e, g, Engine.release_routine]
  unfold Engine.after
  rw [Engine.routine_release]

/-! ### What several triggers leave -/

/-- From one state of an event to another, spare lists only shrink, and UPKEEP entries have joined only for triggered
stages that are short and have none active. -/
structure State.Queues (triggered : Fin 8 → Bool) (s t : State) : Prop where
  target : ∀ b, t.site.target b = s.site.target b
  context : t.engine.routineContext = s.engine.routineContext
  fewer : ∀ b : Fin 8, (t.spares[b]).length ≤ (s.spares[b]).length
  kept : ∀ b, Entry.upkeep b ∈ s.engine.routine → Entry.upkeep b ∈ t.engine.routine
  joined : ∀ b, Entry.upkeep b ∈ t.engine.routine → Entry.upkeep b ∈ s.engine.routine ∨
    triggered b = true ∧ (t.spares[b]).length < t.site.target b ∧ s.engine.upkeepActive b = false

/-- Besides, every triggered stage that is short at the end has its entry queued or active. -/
structure State.Upkept (triggered : Fin 8 → Bool) (s t : State) : Prop extends State.Queues triggered s t where
  served : ∀ b, triggered b = true → (t.spares[b]).length < t.site.target b → s.engine.upkeepActive b = false →
    Entry.upkeep b ∈ t.engine.routine

theorem Engine.upkeepActive_congr {e f : Engine} (h : f.routineContext = e.routineContext) (b : Fin 8) :
    f.upkeepActive b = e.upkeepActive b := by
  unfold Engine.upkeepActive
  rw [h]

namespace State.Queues

theorem refl (triggered : Fin 8 → Bool) (s : State) : State.Queues triggered s s :=
  ⟨fun _ => rfl, rfl, fun _ => Nat.le_refl _, fun _ h => h, fun _ h => .inl h⟩

theorem trans {triggered : Fin 8 → Bool} {s t v : State} (h : State.Queues triggered s t)
    (k : State.Queues triggered t v) : State.Queues triggered s v where
  target b := (k.target b).trans (h.target b)
  context := k.context.trans h.context
  fewer b := (k.fewer b).trans (h.fewer b)
  kept b m := k.kept b (h.kept b m)
  joined b m := by
    rcases k.joined b m with m | ⟨on, short, idle⟩
    · rcases h.joined b m with m | ⟨on, short, idle⟩
      · exact .inl m
      · refine .inr ⟨on, ?_, idle⟩
        rw [k.target b]
        exact Nat.lt_of_le_of_lt (k.fewer b) short
    · exact .inr ⟨on, short, (Engine.upkeepActive_congr h.context b).symm.trans idle⟩

theorem upkept {triggered : Fin 8 → Bool} {s t v : State} (h : State.Queues triggered s t)
    (k : State.Upkept triggered t v) : State.Upkept triggered s v :=
  ⟨h.trans k.toQueues, fun b on short idle => k.served b on short ((Engine.upkeepActive_congr h.context b).trans idle)⟩

/-- An operation that leaves the routine list, the targets and the spare lists as they are. -/
theorem of_eq (triggered : Fin 8 → Bool) {s t : State} (site : t.site = s.site) (spares : t.spares = s.spares)
    (routine : t.engine.routine = s.engine.routine) (context : t.engine.routineContext = s.engine.routineContext) :
    State.Queues triggered s t :=
  ⟨fun _ => by rw [site], context, fun _ => by rw [spares], fun _ h => by rwa [routine],
    fun _ h => .inl (by rwa [routine] at h)⟩

/-- Shorter lists, and UPKEEP queued for some triggered stages. -/
theorem queueUpkeep {triggered : Fin 8 → Bool} {s t : State} (h : State.Queues triggered s t) {l : List (Fin 8)}
    (on : ∀ b ∈ l, triggered b = true) : State.Queues triggered s (t.queueUpkeep l) := by
  refine h.trans ⟨fun _ => rfl, rfl, fun _ => Nat.le_refl _, fun b m => List.mem_append_left _ m, fun b m => ?_⟩
  rcases List.mem_append.1 m with m | m
  · exact .inl m
  · obtain ⟨c, hc, e⟩ := List.mem_map.1 m
    obtain ⟨mem, needs⟩ := List.mem_filter.1 hc
    obtain rfl : c = b := Entry.upkeep.inj e
    obtain ⟨short, -, idle⟩ := (t.needsUpkeep_iff c).1 needs
    exact .inr ⟨on c mem, short, idle⟩

end State.Queues

namespace State.Upkept

/-- UPKEEP queued for every triggered stage. -/
theorem queueUpkeep {triggered : Fin 8 → Bool} {s t : State} (h : State.Queues triggered s t) {l : List (Fin 8)}
    (on : ∀ b, b ∈ l ↔ triggered b = true) : State.Upkept triggered s (t.queueUpkeep l) := by
  refine ⟨h.queueUpkeep fun b m => (on b).1 m, fun b trig short idle => ?_⟩
  have idle' := (Engine.upkeepActive_congr h.context b).trans idle
  by_cases waits : Entry.upkeep b ∈ t.engine.routine
  · exact List.mem_append_left _ waits
  · have needs := (t.needsUpkeep_iff b).2 ⟨short, waits, idle'⟩
    exact List.mem_append_right _ (List.mem_map_of_mem (List.mem_filter.2 ⟨(on b).2 trig, needs⟩))

/-- A recheck of every triggered stage. -/
theorem recheck {triggered : Fin 8 → Bool} {s t : State} (h : State.Queues triggered s t) {l : List (Fin 8)}
    (on : ∀ b, b ∈ l ↔ triggered b = true) : State.Upkept triggered s (t.recheck l) := by
  refine queueUpkeep (h.trans ?_) on
  refine ⟨fun _ => rfl, rfl, fun b => ?_, fun _ m => m, fun _ m => .inl m⟩
  have got := t.recheck_get l b
  rw [State.recheck_spares] at got
  rw [got]
  split
  · exact (t.rechecked_sublist b).length_le
  · exact Nat.le_refl _

/-- A plan change triggers every stage. -/
theorem settle {s t : State} (h : State.Queues (fun _ => true) s t) : State.Upkept (fun _ => true) s t.settle := by
  have k := recheck h (l := allStages) fun b => ⟨fun _ => rfl, fun _ => mem_allStages b⟩
  exact ⟨⟨k.target, k.context, k.fewer, k.kept, k.joined⟩, k.served⟩

theorem removed {s t : State} (h : State.Queues (fun _ => true) s t) (x : Transmitter) :
    State.Upkept (fun _ => true) s (t.removed x) := by
  unfold State.removed
  split
  · exact settle (h.trans (.of_eq _ rfl rfl rfl rfl))
  · exact settle h
  · exact settle h

theorem added {s t : State} (h : State.Queues (fun _ => true) s t) (x : Transmitter) :
    State.Upkept (fun _ => true) s (t.added x) := by
  unfold State.added
  split
  · dsimp only
    split
    · exact settle (h.trans (.of_eq _ rfl rfl rfl rfl))
    · exact settle (h.trans (.of_eq _ rfl rfl rfl rfl))
  · exact settle h
  · exact settle h

theorem removeStep {s t : State} (h : State.Queues (fun _ => true) s t) (c : Fin 256) (r : ChannelRecord) (k : Hold)
    (second : Bool) (f : Nat) : State.Upkept (fun _ => true) s (t.removeStep c r k second f) :=
  removed (t := { t with plan := t.plan.setHold c k }) (h.trans (.of_eq _ rfl rfl rfl rfl)) _

theorem addPrimary {s t : State} (h : State.Queues (fun _ => true) s t) (c : Fin 256) (r : ChannelRecord) (k : Hold)
    (f : Nat) : State.Upkept (fun _ => true) s (t.addPrimary c r k f) :=
  added (t := { t with plan := t.plan.setHold c k }) (h.trans (.of_eq _ rfl rfl rfl rfl)) _

/-- The entries of the whole event, in ascending stage number. -/
theorem joined_eq {triggered : Fin 8 → Bool} {s t : State} (h : State.Upkept triggered s t) :
    s.engine.joined t.engine = s.shortEntries t triggered := by
  unfold Engine.joined State.shortEntries
  congr 1
  refine List.filter_congr fun b _ => ?_
  rw [Bool.eq_iff_iff]
  simp only [Bool.and_eq_true, Bool.not_eq_true', List.contains_eq_mem, decide_eq_true_eq, decide_eq_false_iff_not]
  constructor
  · rintro ⟨new, m⟩
    rcases h.joined b m with m | ⟨on, short, idle⟩
    · exact absurd m new
    · exact ⟨⟨⟨on, short⟩, new⟩, idle⟩
  · rintro ⟨⟨⟨on, short⟩, new⟩, idle⟩
    exact ⟨new, h.served b on short idle⟩

end State.Upkept

end Sys2Proof.Machine
end


section
/-! The orders on channel records: what DEFINE CHANNEL, RETIRE CHANNEL, the marks, RELEASE and the end of a move do. -/

namespace Sys2Proof.Machine

/-! ### An order that is taken up and ended in one event -/

/-- What the end of an order leaves of the state the event has reached: all but the port and the Report Builder. -/
structure State.Concluded (x t : State) : Prop where
  site : t.site = x.site
  plan : t.plan = x.plan
  census : t.census = x.census
  spares : t.spares = x.spares
  links : t.links = x.links
  zones : t.zones = x.zones
  engine : t.engine = x.engine.release
  now : t.now = x.now
  free : t.free = x.free
  pending : t.pending = x.pending

theorem State.concluded (s x : State) (o : Handed) (outcome : OrderOutcome) (reason : Reason) (argument : Word)
    (payloads : List (List Byte)) : x.Concluded (s.finish (x.conclude o outcome reason argument payloads)) where
  site := x.conclude_site ..
  plan := x.conclude_plan ..
  census := x.conclude_census ..
  spares := x.conclude_spares ..
  links := x.conclude_links ..
  zones := x.conclude_zones ..
  engine := x.conclude_engine ..
  now := x.conclude_now ..
  free := x.conclude_free ..
  pending := x.conclude_pending ..

/-- An order whose event reaches `x`, with the port and the Report Builder as the take-up leaves them, and then ends. -/
theorem State.takes.concluded {s x : State} {code : OrderCode} {u : Bool} {o : Handed} {outcome : OrderOutcome}
    {reason : Reason} {argument : Word} {payloads : List (List Byte)} (h : s.takes code u o)
    (p : code.procedure o (s.begin u o) = x.conclude o outcome reason argument payloads)
    (port : x.port = (s.begin u o).port) (reports : x.reports = s.reports) (now : x.now = s.now)
    (pending : x.pending = s.pending) (hp : ∀ l ∈ payloads, l.length ≤ 240) :
    ∃ t, exec code.command s = .next t.arbitrate ∧ x.Concluded t ∧ s.ends t o outcome reason argument payloads ∧
      s.aloneWith t o outcome payloads :=
  ⟨_, by rw [exec_command, State.takeUp_eq _ h.1, p], s.concluded x ..,
    h.ends outcome reason argument payloads (port ▸ Port.Keeps.refl _) (port ▸ Port.Reports.refl _) now pending hp,
    h.alone outcome reason argument payloads port reports hp⟩

/-- The same with a result of one record. -/
theorem State.takes.done {s x : State} {code : OrderCode} {u : Bool} {o : Handed} {argument : Word}
    {result : List Byte} (h : s.takes code u o) (p : code.procedure o (s.begin u o) = x.done o argument result)
    (port : x.port = (s.begin u o).port) (reports : x.reports = s.reports) (now : x.now = s.now)
    (pending : x.pending = s.pending) (hp : result.length ≤ 240) :
    ∃ t, exec code.command s = .next t.arbitrate ∧ x.Concluded t ∧ s.ends t o .done .none argument [result] ∧
      s.aloneWith t o .done [result] :=
  h.concluded p port reports now pending fun _ m => by rwa [List.mem_singleton.1 m]

/-! ### DEFINE CHANNEL (R24, R25) -/

theorem channelFieldsOf_some {stage multiple bandwidth priority autoMove low high : Nat} {f : ChannelFields}
    (h : channelFieldsOf stage multiple bandwidth priority autoMove low high = some f) :
    f.low = low ∧ f.high = high ∧ f.multiple = multiple ∧ f.priority = priority := by
  unfold channelFieldsOf at h
  split at h
  · split at h
    · cases h
      exact ⟨rfl, rfl, rfl, rfl⟩
    · cases h
  · cases h

/-- DEFINE CHANNEL on a channel that holds no frequency, at a DEFINED stage (R24). -/
theorem defineChannelOrder_free {o : Handed} {x : State} {c : Fin 256} {f : ChannelFields}
    (hc : x.sentChannel o = some c) (hf : x.sentFields o = some f)
    (free : x.hold c = none ∨ x.hold c = some .defined) (stage : (x.site.stages[f.stage]).isSome = true) :
    defineChannelOrder o x = x.defined o c f .defined := by
  unfold defineChannelOrder
  rw [hc, hf]
  dsimp only
  rcases x.hold_cases c with ⟨none, -⟩ | ⟨r, some, hold⟩
  · rw [none]
    exact if_pos stage
  · have defined : r.hold = .defined := by
      rcases free with e | e
      · exact absurd (hold.symm.trans e) nofun
      · exact Option.some.inj (hold.symm.trans e)
    rw [some]
    dsimp only
    rw [defined]
    exact if_pos stage

/-- DEFINE CHANNEL on a channel that holds a frequency (R25). -/
theorem defineChannelOrder_kept {o : Handed} {x : State} {c : Fin 256} {f : ChannelFields} {r : ChannelRecord}
    (hc : x.sentChannel o = some c) (hf : x.sentFields o = some f) (hr : x.channel c = some r) (held : r.hold ≠ .defined)
    (stage : f.stage = r.fields.stage) (bandwidth : f.bandwidth = r.fields.bandwidth)
    (keeps : x.keeps f r.hold = true) : defineChannelOrder o x = x.defined o c f r.hold := by
  rw [defineChannelOrder_held hc hf hr held, if_neg (by simp [stage, bandwidth]), if_pos keeps]

theorem State.channel_storeChannel (x : State) (c : Fin 256) (f : ChannelFields) (h : Hold) :
    (x.storeChannel c f h).channel c = some { fields := f, hold := h, mark := (x.channel c).bind ChannelRecord.mark } := by
  have := x.plan.setChannel_get c c (some { fields := f, hold := h, mark := (x.channel c).bind ChannelRecord.mark })
  rwa [if_pos rfl] at this

theorem State.othersKept_setChannel {s t : State} {c : Fin 256} {r : Option ChannelRecord}
    (e : t.plan.channels = (s.plan.setChannel c r).channels) : s.othersKept t c := by
  intro d hd
  unfold State.channel
  rw [e, s.plan.setChannel_get, if_neg hd]

/-! ### RETIRE CHANNEL, MARK LIVE and MARK IDLE (R26 to R28) -/

theorem retireChannelOrder_defined {o : Handed} {x : State} {c : Fin 256} (hc : x.sentChannel o = some c)
    (h : x.hold c = some .defined) :
    retireChannelOrder o x =
      State.done { x with plan := x.plan.setChannel c none } o 0 (half c.val ++ [0#8]) := by
  unfold retireChannelOrder
  rw [hc]
  dsimp only
  rw [h]
  dsimp only
  have gone : State.channel { x with plan := x.plan.setChannel c none } c = none := by
    have := x.plan.setChannel_get c c none
    rwa [if_pos rfl] at this
  unfold State.stateResult
  rw [gone]
  rfl

theorem markLiveOrder_placed {o : Handed} {x : State} {c : Fin 256} {f : Nat} (hc : x.sentChannel o = some c)
    (h : x.hold c = some (.placed f)) :
    markLiveOrder o x = (x.setHold c (.live f)).done o 0 ((x.setHold c (.live f)).stateResult c) := by
  unfold markLiveOrder
  rw [hc]
  dsimp only
  rw [h]

theorem markLiveOrder_live {o : Handed} {x : State} {c : Fin 256} {f : Nat} (hc : x.sentChannel o = some c)
    (h : x.hold c = some (.live f)) : markLiveOrder o x = x.done o 0 (x.stateResult c) := by
  unfold markLiveOrder
  rw [hc]
  dsimp only
  rw [h]

theorem markIdleOrder_live {o : Handed} {x : State} {c : Fin 256} {f : Nat} (hc : x.sentChannel o = some c)
    (h : x.hold c = some (.live f)) :
    markIdleOrder o x = (x.setHold c (.placed f)).done o 0 ((x.setHold c (.placed f)).stateResult c) := by
  unfold markIdleOrder
  rw [hc]
  dsimp only
  rw [h]

theorem markIdleOrder_placed {o : Handed} {x : State} {c : Fin 256} {f : Nat} (hc : x.sentChannel o = some c)
    (h : x.hold c = some (.placed f)) : markIdleOrder o x = x.done o 0 (x.stateResult c) := by
  unfold markIdleOrder
  rw [hc]
  dsimp only
  rw [h]

theorem State.hold_some {x : State} {c : Fin 256} {k : Hold} (h : x.hold c = some k) :
    ∃ r, x.channel c = some r ∧ r.hold = k := by
  rcases x.hold_cases c with ⟨-, none⟩ | ⟨r, some, hold⟩
  · exact absurd (none.symm.trans h) nofun
  · exact ⟨r, some, Option.some.inj (hold.symm.trans h)⟩

theorem State.channel_setHold_self {x : State} {c : Fin 256} {r : ChannelRecord} (k : Hold) (h : x.channel c = some r) :
    (x.setHold c k).channel c = some { r with hold := k } := State.channel_setHold rfl h

/-- An order that gives a channel a hold and makes no plan change, from the state its event has reached. -/
theorem State.holdSet_of {s t x : State} {u : Bool} {o : Handed} {c : Fin 256} {k : Hold}
    (reached : x.Concluded t) (e : x = (s.begin u o).setHold c k) : s.holdSet t u c k := by
  subst e
  refine ⟨?_, State.othersKept_setHold (by rw [reached.plan]; rfl), by rw [reached.plan]; rfl, reached.site,
    reached.census, reached.spares, ⟨reached.links, reached.zones⟩, reached.engine, reached.free⟩
  have := s.plan.setHold_get c c k
  rw [if_pos rfl] at this
  unfold State.channel
  rw [reached.plan]
  exact this

/-- Giving a channel the hold it has changes nothing. -/
theorem State.setHold_self {x : State} {c : Fin 256} {k : Hold} (h : x.hold c = some k) : x.setHold c k = x := by
  obtain ⟨r, hr, rfl⟩ := State.hold_some h
  have same : x.plan.setHold c r.hold = x.plan := by
    have e : x.plan.channels[c] = some r := hr
    unfold Plan.setHold Plan.setChannel
    rw [e]
    congr 1
    refine Vector.ext fun i hi => ?_
    rw [Vector.getElem_set]
    split
    · rename_i ci
      subst ci
      exact e.symm
    · rfl
  unfold State.setHold
  rw [same]

/-- An order that gives a channel a hold without a plan change and returns the channel's state. -/
theorem State.takes.marks {s : State} {code : OrderCode} {u : Bool} {o : Handed} {c : Fin 256} {k : Hold} {n : Byte}
    (h : s.takes code u o) (held : ∃ r, s.channel c = some r)
    (p : code.procedure o (s.begin u o) =
      ((s.begin u o).setHold c k).done o 0 (((s.begin u o).setHold c k).stateResult c))
    (state : ∀ r : ChannelRecord, byte (channelStateCode (some { r with hold := k })) = n) :
    ∃ t, exec code.command s = .next t.arbitrate ∧ s.holdSet t u c k ∧
      s.ends t o .done .none 0 [half c.val ++ [n]] ∧ s.aloneWith t o .done [half c.val ++ [n]] := by
  obtain ⟨r, hr⟩ := held
  have result : ((s.begin u o).setHold c k).stateResult c = half c.val ++ [n] := by
    unfold State.stateResult
    rw [State.channel_setHold_self k (x := s.begin u o) hr, state r]
  rw [result] at p
  obtain ⟨t, run, reached, ends, alone⟩ := h.done p rfl rfl rfl rfl (Nat.le_of_ble_eq_true rfl)
  exact ⟨t, run, State.holdSet_of reached rfl, ends, alone⟩

/-! ### RELEASE, CONFIRM MOVE and DECLINE MOVE (R29, R32, R33) -/

theorem releaseOrder_removes {o : Handed} {x : State} {c : Fin 256} {r : ChannelRecord} {f : Nat}
    (hc : x.sentChannel o = some c) (hr : x.channel c = some r) (mark : r.mark = none)
    (held : r.hold = .placed f ∨ r.hold = .live f) :
    releaseOrder o x = (x.removeStep c r .defined false f).done o 0 (half c.val ++ half f) := by
  unfold releaseOrder State.marked
  rw [hc]
  dsimp only
  rw [hr]
  simp only [Option.bind_some, mark, Option.isSome_none]
  rcases held with e | e
  · rw [e]
    exact if_neg nofun
  · rw [e]
    exact if_neg nofun

theorem releaseOrder_defined {o : Handed} {x : State} {c : Fin 256} {r : ChannelRecord}
    (hc : x.sentChannel o = some c) (hr : x.channel c = some r) (mark : r.mark = none) (held : r.hold = .defined) :
    releaseOrder o x = x.done o 0 (half c.val ++ half 0xFFFF) := by
  unfold releaseOrder State.marked
  rw [hc]
  dsimp only
  rw [hr]
  simp only [Option.bind_some, mark, Option.isSome_none]
  rw [held]
  exact if_neg nofun

theorem confirmMoveOrder_moves {o : Handed} {x : State} {c : Fin 256} {r : ChannelRecord} {f g : Nat}
    (hc : x.sentChannel o = some c) (hr : x.channel c = some r) (moves : r.hold.move = some (f, g)) :
    confirmMoveOrder o x = (x.removeStep c r (.live f) true g).done o 0 (moveResult c f g) := by
  unfold confirmMoveOrder
  rw [hc]
  dsimp only
  rw [hr]
  dsimp only
  rw [moves]

theorem declineMoveOrder_moves {o : Handed} {x : State} {c : Fin 256} {r : ChannelRecord} {f g : Nat}
    (hc : x.sentChannel o = some c) (hr : x.channel c = some r) (moves : r.hold.move = some (f, g)) :
    declineMoveOrder o x = (x.removeStep c r (.live g) false f).done o 0 (moveResult c g f) := by
  unfold declineMoveOrder
  rw [hc]
  dsimp only
  rw [hr]
  dsimp only
  rw [moves]

/-- A recheck of a spare reads the site model, the held frequencies and the census. -/
theorem State.sparePasses_congr {s t : State} (site : t.site = s.site) (channels : t.plan.channels = s.plan.channels)
    (census : t.census = s.census) (b : Fin 8) (r : StageRecord) (f : Nat) :
    t.sparePasses b r f = s.sparePasses b r f := by
  have reads : t.sparePasses b r f = State.sparePasses
      { s with site := t.site, plan := { s.plan with channels := t.plan.channels }, census := t.census } b r f := rfl
  rw [reads, site, channels, census]

theorem State.rechecks_congr {s s' t t' : State} {stages : Fin 8 → Bool} (h : s.rechecks t stages)
    (before : s'.spares = s.spares) (site : t'.site = t.site) (channels : t'.plan.channels = t.plan.channels)
    (census : t'.census = t.census) (spares : t'.spares = t.spares) : s'.rechecks t' stages := by
  intro b
  have same : State.rechecked { t' with spares := s'.spares } b = State.rechecked { t with spares := s.spares } b :=
    State.rechecked_congr (s := { t' with spares := s'.spares }) (t := { t with spares := s.spares })
      (State.sparePasses_congr site channels census) site before b
  rw [same, spares, before]
  exact h b

theorem State.removes_congr {s s' t t' : State} {x : Transmitter} (h : s.removes t x) (before : s'.census = s.census)
    (site : s'.site = s.site) (channels : t'.plan.channels = t.plan.channels) (census : t'.census = t.census) :
    s'.removes t' x := by
  have plan : t'.plan.transmitters = t.plan.transmitters := by
    unfold Plan.transmitters Plan.records
    rw [channels]
  unfold State.removes at h ⊢
  rw [before, site, plan, census]
  exact h

theorem State.adds_congr {s s' t t' : State} {x : Transmitter} (h : s.adds t x) (before : s'.census = s.census)
    (site : s'.site = s.site) (channels : t'.plan.channels = t.plan.channels) (census : t'.census = t.census) :
    s'.adds t' x := by
  have plan : t'.plan.others x = t.plan.others x := by
    unfold Plan.others Plan.transmitters Plan.records
    rw [channels]
  unfold State.adds at h ⊢
  rw [before, site, plan, census]
  exact h

/-- An order whose one plan change removes a frequency of a channel. -/
theorem State.takes.removal {s : State} {code : OrderCode} {u : Bool} {o : Handed} {c : Fin 256} {r : ChannelRecord}
    {k : Hold} {second : Bool} {f : Nat} {result : List Byte} (h : s.takes code u o) (hr : s.channel c = some r)
    (ok : s.census.planesOk)
    (p : code.procedure o (s.begin u o) = ((s.begin u o).removeStep c r k second f).done o 0 result)
    (hp : result.length ≤ 240) :
    ∃ t, exec code.command s = .next t.arbitrate ∧ t.channel c = some { r with hold := k } ∧ s.othersKept t c ∧
      t.plan.epoch = s.plan.epoch + 1 ∧ s.removes t (r.transmitter c second f) ∧ s.rechecksAll t ∧
      t.site = s.site ∧ s.sameSpectrum t ∧ s.leaves t u (s.allShort t) ∧ t.free = s.free ∧
      s.ends t o .done .none 0 [result] ∧ s.aloneWith t o .done [result] := by
  obtain ⟨t, run, reached, ends, alone⟩ := h.done p (State.removeStep_port ..) (State.removeStep_reports ..)
    (State.removeStep_now ..) (State.removeStep_pending ..) hp
  obtain ⟨removes, rechecks, -⟩ :=
    State.removed_effect { s.begin u o with plan := s.plan.setHold c k } (r.transmitter c second f) ok
  have plan : t.plan = (s.plan.setHold c k).bump := reached.plan.trans (State.removeStep_plan ..)
  have channels : t.plan.channels = (s.plan.setHold c k).channels := (congrArg Plan.channels plan :)
  have short : s.allShort t = (s.begin u o).allShort ((s.begin u o).removeStep c r k second f) := by
    unfold State.allShort
    rw [State.begin_shortEntries h.1]
    exact State.shortEntries_congr _ (fun _ => rfl) (fun _ => rfl) reached.spares fun b => by rw [reached.site]
  refine ⟨t, run, State.channel_setHold channels hr, State.othersKept_setHold channels, (congrArg Plan.epoch plan :),
    State.removes_congr removes rfl rfl (congrArg Plan.channels reached.plan) reached.census,
    State.rechecks_congr rechecks rfl reached.site (congrArg Plan.channels reached.plan) reached.census reached.spares,
    reached.site.trans (State.removeStep_site ..),
    ⟨reached.links.trans (State.removeStep_links ..), reached.zones.trans (State.removeStep_zones ..)⟩,
    State.leaves_exact ⟨reached.now.trans (State.removeStep_now ..), reached.pending.trans (State.removeStep_pending ..)⟩
      reached.engine ?_, reached.free.trans (State.removeStep_free ..), ends, alone⟩
  rw [short]
  exact State.removed_engine _ _

end Sys2Proof.Machine

open Sys2Proof Sys2Proof.Machine

/-- Settles O15. -/
theorem defineChannelStoresFields : Obligations.DefineChannelStoresFields := by
  intro s u o c f k h hc hf stands
  have hc' : (s.begin u o).sentChannel o = some c := by rwa [State.begin_sentChannel]
  have hf' : (s.begin u o).sentFields o = some f := by rwa [State.begin_sentFields]
  have stores : defineChannelOrder o (s.begin u o) = (s.begin u o).defined o c f k := by
    rcases stands with ⟨free, rfl, stage⟩ | ⟨r, hr, rfl, held, stage, bandwidth, keeps⟩
    · exact defineChannelOrder_free hc' hf' free stage
    · exact defineChannelOrder_kept hc' hf' hr held stage bandwidth keeps
  obtain ⟨low, high, multiple, priority⟩ := channelFieldsOf_some hf
  obtain ⟨t, run, reached, ends, alone⟩ :=
    h.concluded (x := (s.begin u o).storeChannel c f k) stores rfl rfl rfl rfl fun l m => by
      rw [List.mem_singleton.1 m]
      exact Nat.le_of_ble_eq_true rfl
  refine ⟨t, run, ?_, State.othersKept_setChannel (congrArg Plan.channels reached.plan),
    (congrArg Plan.epoch reached.plan :), low, high, multiple, priority, reached.site, reached.census, reached.spares,
    ⟨reached.links, reached.zones⟩, reached.engine, reached.free, ends, alone⟩
  exact (congrArg (fun p : Plan => p.channels[c]) reached.plan).trans ((s.begin u o).channel_storeChannel c f k)

/-- Settles O16. -/
theorem retireAndMarkSwitchState : Obligations.RetireAndMarkSwitchState := by
  have sent : ∀ {s : State} {u : Bool} {o : Handed} {c : Fin 256}, s.sentChannel o = some c →
      (s.begin u o).sentChannel o = some c := fun hc => by rwa [State.begin_sentChannel]
  refine ⟨fun s u o c h hc held => ?_, fun s u o c f hc held => ?_⟩
  · obtain ⟨t, run, reached, ends, alone⟩ :=
      h.done (retireChannelOrder_defined (sent hc) held) rfl rfl rfl rfl (Nat.le_of_ble_eq_true rfl)
    refine ⟨t, run, ?_, State.othersKept_setChannel (congrArg Plan.channels reached.plan),
      (congrArg Plan.epoch reached.plan :), reached.site, reached.census, reached.spares, ⟨reached.links, reached.zones⟩,
      reached.engine, reached.free, ends, alone⟩
    have gone := s.plan.setChannel_get c c none
    rw [if_pos rfl] at gone
    exact (congrArg (fun p : Plan => p.channels[c]) reached.plan).trans gone
  · have holds : ∃ r, s.channel c = some r := by
      rcases held with e | e <;> exact ⟨_, (State.hold_some e).choose_spec.1⟩
    refine ⟨fun h => h.marks (k := .live f) holds ?_ fun _ => rfl, fun h => h.marks (k := .placed f) holds ?_ fun _ => rfl⟩
    · rcases held with e | e
      · exact markLiveOrder_placed (sent hc) e
      · rw [State.setHold_self (x := s.begin u o) e]
        exact markLiveOrder_live (sent hc) e
    · rcases held with e | e
      · rw [State.setHold_self (x := s.begin u o) e]
        exact markIdleOrder_placed (sent hc) e
      · exact markIdleOrder_live (sent hc) e

/-- Settles O17. -/
theorem releaseRemovesPrimary : Obligations.ReleaseRemovesPrimary := by
  intro s u o c r h hc hr mark
  have hc' : (s.begin u o).sentChannel o = some c := by rwa [State.begin_sentChannel]
  refine ⟨fun f held ok => h.removal hr ok (releaseOrder_removes hc' hr mark held) (Nat.le_of_ble_eq_true rfl),
    fun held => ?_⟩
  obtain ⟨t, run, reached, ends, alone⟩ :=
    h.done (releaseOrder_defined hc' hr mark held) rfl rfl rfl rfl (Nat.le_of_ble_eq_true rfl)
  exact ⟨t, run, ⟨⟨reached.site, reached.plan, reached.census, reached.spares⟩, ⟨reached.links, reached.zones⟩,
    reached.now, reached.pending⟩, reached.engine, reached.free, ends, alone⟩

/-- Settles O18. -/
theorem confirmAndDeclineEndMove : Obligations.ConfirmAndDeclineEndMove := by
  intro s u o c r f g hc hr held ok
  have hc' : (s.begin u o).sentChannel o = some c := by rwa [State.begin_sentChannel]
  have moves : r.hold.move = some (f, g) := by
    rcases held with ⟨e, held⟩ | held
    · rw [held]; rfl
    · rw [held]; rfl
  exact ⟨fun h => h.removal hr ok (confirmMoveOrder_moves hc' hr moves) (Nat.le_of_ble_eq_true rfl),
    fun h => h.removal hr ok (declineMoveOrder_moves hc' hr moves) (Nat.le_of_ble_eq_true rfl)⟩

end


section
/-! Marks while the Report Builder is held back, the expiry of a move timer, and the beginning of a REBUILD. -/

namespace Sys2Proof.Machine

/-! ### Marks that are held back (R158, R161) -/

/-- A subject stands in a list of pending subjects with a flag. -/
def flaggedIn (l : List PendingSubject) (x : Subject) (f : Byte) : Prop :=
  ∃ q ∈ l, q.subject = x ∧ q.flags &&& f = f

theorem State.flagged_iff (t : State) (x : Subject) (f : Byte) : t.flagged x f ↔ flaggedIn t.reports.pending x f :=
  Iff.rfl

/-- A flag in a byte stays when more are added. -/
theorem flag_or {w b : Byte} (c : Byte) (h : w &&& b = b) : (w ||| c) &&& b = b := by
  refine BitVec.eq_of_getLsbD_eq fun i _ => ?_
  have bit : (w &&& b).getLsbD i = b.getLsbD i := by rw [h]
  rw [BitVec.getLsbD_and] at bit
  rw [BitVec.getLsbD_and, BitVec.getLsbD_or]
  revert bit
  cases w.getLsbD i <;> cases b.getLsbD i <;> simp

theorem flaggedIn_addMark (x : Subject) (f : Byte) (h : Option (Nat × Nat)) (l : List PendingSubject) :
    flaggedIn (addMark x f h l) x f := by
  induction l with
  | nil => exact ⟨_, List.mem_singleton.2 rfl, rfl, BitVec.and_self⟩
  | cons q l ih =>
    unfold addMark
    split
    · rename_i e
      refine ⟨_, .head _, e, ?_⟩
      show (q.flags ||| f) &&& f = f
      rw [BitVec.or_comm]
      exact flag_or q.flags BitVec.and_self
    · obtain ⟨p, mem, flags⟩ := ih
      exact ⟨p, .tail _ mem, flags⟩

theorem flaggedIn.addMark {l : List PendingSubject} {x : Subject} {f : Byte} (m : flaggedIn l x f) (y : Subject)
    (g : Byte) (h : Option (Nat × Nat)) : flaggedIn (addMark y g h l) x f := by
  obtain ⟨q, mem, subject, flags⟩ := m
  induction l with
  | nil => exact absurd mem List.not_mem_nil
  | cons p l ih =>
    unfold Machine.addMark
    rcases List.mem_cons.1 mem with rfl | mem
    · split
      · exact ⟨_, .head _, subject, flag_or g flags⟩
      · exact ⟨q, .head _, subject, flags⟩
    · split
      · exact ⟨q, .tail _ mem, subject, flags⟩
      · obtain ⟨q', mem', flags'⟩ := ih mem
        exact ⟨q', .tail _ mem', flags'⟩

/-- An attempt that is held back changes nothing but STARVED and its count. -/
theorem State.attempt_heldBack {s : State} (h : s.heldBack) :
    s.attempt.reports.pending = s.reports.pending ∧ ∃ b, s.attempt.port = { s.port with raw := s.port.raw ||| b } := by
  have same : s.port = { s.port with raw := s.port.raw ||| 0 } := by simp only [BitVec.ofNat_eq_ofNat, BitVec.or_zero]
  unfold State.attempt emitAttempt
  dsimp only
  split
  · exact ⟨rfl, 0, same⟩
  · rename_i active
    split
    · exact ⟨rfl, starvedBit, rfl⟩
    · rename_i room
      exact absurd h fun h => h.elim room fun reset => active (.inr reset)

theorem State.mark_heldBack {s : State} (h : s.heldBack) (x : Subject) (f : Byte) (hit : Option (Nat × Nat)) :
    (s.mark x f hit).reports.pending = addMark x f hit s.reports.pending ∧
      ∃ b, (s.mark x f hit).port = { s.port with raw := s.port.raw ||| b } :=
  State.attempt_heldBack (s := { s with reports := { s.reports with pending := addMark x f hit s.reports.pending } }) h

theorem State.heldBack_congr {s t : State} (cells : t.port.cells = s.port.cells) (reset : t.port.reset = s.port.reset)
    (site : t.site.params.reserve = s.site.params.reserve) (h : s.heldBack) : t.heldBack := by
  unfold State.heldBack Port.freeCount at h ⊢
  rwa [cells, reset, site]

theorem State.heldBack_mark {s : State} (h : s.heldBack) (x : Subject) (f : Byte) (hit : Option (Nat × Nat)) :
    (s.mark x f hit).heldBack := by
  obtain ⟨-, b, port⟩ := State.mark_heldBack h x f hit
  exact State.heldBack_congr (by rw [port]) (by rw [port]) (by rw [State.mark_site]) h

theorem State.flagged_mark {s : State} (h : s.heldBack) (x : Subject) (f : Byte) (hit : Option (Nat × Nat)) :
    (s.mark x f hit).flagged x f := by
  rw [State.flagged_iff, (State.mark_heldBack h x f hit).1]
  exact flaggedIn_addMark x f hit _

theorem State.flagged.mark {s : State} {x : Subject} {f : Byte} (m : s.flagged x f) (h : s.heldBack) (y : Subject)
    (g : Byte) (hit : Option (Nat × Nat)) : (s.mark y g hit).flagged x f := by
  rw [State.flagged_iff, (State.mark_heldBack h y g hit).1]
  exact flaggedIn.addMark m y g hit

theorem raised_only (w b : BitVec 5) : w &&& ~~~(w ||| b) = 0 := by
  refine BitVec.eq_of_getLsbD_eq fun i hi => ?_
  rw [BitVec.getLsbD_and, BitVec.getLsbD_not, BitVec.getLsbD_or]
  cases w.getLsbD i <;> simp

/-! ### The expiry of a move timer (R31) -/

theorem exec_moveTimerExpiry {s : State} {c : Fin 256} {f g e : Nat} (h : s.hold c = some (.moving f g e)) :
    exec (.moveTimerExpiry c) s = .next (s.finish ((State.setHold { s with now := max s.now e } c (.unresolved f g)).mark
      (.channel c) unresolvedFlag)) := by
  show execMoveTimerExpiry c s = _
  unfold execMoveTimerExpiry
  rw [h]

/-! ### What the arbiter hands out (R134) -/

theorem State.arbiter_takeUrgent {s : State} {e : Entry} (h : s.arbiter = some (.takeUrgent e)) :
    s.port.run = true ∧ s.engine.urgentContext = .idle ∧ s.engine.routineContext.isRunning = false ∧
      ∃ l, s.engine.urgent = e :: l := by
  unfold State.arbiter at h
  split at h
  · cases h
  · rename_i free
    split at h
    · rename_i urgent
      cases h
      simp only [Bool.or_eq_true, Bool.not_eq_true', decide_eq_true_eq, not_or, Bool.not_eq_false, Bool.not_eq_true]
        at free
      obtain ⟨⟨run, context⟩, routine⟩ := free
      refine ⟨run, ?_, routine, _, urgent⟩
      cases k : s.engine.urgentContext with
      | idle => rfl
      | running => exact absurd k context
    · cases h
    · cases h
    · cases h

theorem State.arbiter_takeRoutine {s : State} {e : Entry} (h : s.arbiter = some (.takeRoutine e)) :
    s.port.run = true ∧ s.engine.urgentContext = .idle ∧ s.engine.routineContext = .idle ∧ s.engine.urgent = [] ∧
      ∃ l, s.engine.routine = e :: l := by
  unfold State.arbiter at h
  split at h
  · cases h
  · rename_i free
    simp only [Bool.or_eq_true, Bool.not_eq_true', decide_eq_true_eq, not_or, Bool.not_eq_false, Bool.not_eq_true]
      at free
    obtain ⟨⟨run, context⟩, routine⟩ := free
    have idle : s.engine.urgentContext = .idle := by
      cases k : s.engine.urgentContext with
      | idle => rfl
      | running => exact absurd k context
    split at h
    · cases h
    · cases h
    · rename_i e' l urgent entries suspended
      cases h
      refine ⟨run, idle, ?_, urgent, l, entries⟩
      cases k : s.engine.routineContext with
      | idle => rfl
      | running w => rw [k] at routine; exact absurd routine nofun
      | suspended w => exact absurd k (suspended w)
    · cases h

/-! ### The beginning of a REBUILD (R45, R49) -/

theorem State.takes.run {s x : State} {code : OrderCode} {u : Bool} {o : Handed} (h : s.takes code u o)
    (p : code.procedure o (s.begin u o) = x) : exec code.command s = .next (s.finish x).arbitrate := by
  rw [exec_command, State.takeUp_eq _ h.1, p]

theorem exec_rebuild {s x : State} (h : s.arbiter = some (.takeRoutine .rebuild))
    (p : (s.beginEntry false).takeRebuild = x) : exec .rebuild s = .next (s.finish x).arbitrate := by
  subst p
  show execRebuild s = _
  unfold execRebuild
  rw [h]
  rfl

theorem State.begin_run (s : State) (u : Bool) (o : Handed) : (s.begin u o).port.run = s.port.run := by
  obtain ⟨-, run, -⟩ := (State.holds_begin s u o).port
  exact run

/-- A routine entry that is discarded leaves its list, and its context is IDLE again. -/
theorem Engine.begin_release {e : Engine} (urgent : e.urgentContext = .idle) (routine : e.routineContext = .idle) :
    (e.begin false).release = { e with routine := e.routine.tail } := by
  unfold Engine.begin Engine.release
  simp only [Bool.false_eq_true, if_false, urgent, routine]

/-- Work that begins with nothing urgent waiting runs on past its first yield point. -/
theorem State.yieldWith_starts {s x : State} {w : Work} (urgent : s.engine.urgent = [])
    (engine : x.engine = s.engine.begin false) (run : x.port.run = true) :
    (x.yieldWith w).engine =
      { s.engine with routine := s.engine.routine.tail, routineContext := .running w } := by
  unfold State.yieldWith
  dsimp only
  rw [engine, run]
  have waits : ¬ ((s.engine.begin false).urgent ≠ [] ∨ true = false) := by
    simp [Engine.begin, urgent]
  rw [if_neg waits]
  rfl

end Sys2Proof.Machine

open Sys2Proof Sys2Proof.Machine

/-- Settles O20. -/
theorem moveTimerExpiryUnresolves : Obligations.MoveTimerExpiryUnresolves := by
  intro s c r f g e hr moving
  have hold : s.hold c = some (.moving f g e) := by rw [State.hold_eq hr, moving]
  let x : State := { s with plan := s.plan.setHold c (.unresolved f g), now := max s.now e }
  have kept := x.mark_reports (.channel c) unresolvedFlag none
  refine ⟨_, exec_moveTimerExpiry hold, State.channel_setHold (s := s) rfl hr, State.othersKept_setHold rfl, rfl, rfl,
    rfl, rfl, ⟨rfl, rfl⟩, rfl, rfl, rfl, rfl, ⟨rfl, rfl⟩, fun held => ?_, kept.1, fun ok => kept.2.1 ok.1⟩
  obtain ⟨-, b, port⟩ := State.mark_heldBack (s := x) held (.channel c) unresolvedFlag none
  refine ⟨State.flagged_mark (s := x) held (.channel c) unresolvedFlag none, ?_, ?_⟩
  · exact congrArg (fun p : Port => { p with
      header := s.port.header.rewritten s.mirror (x.mark (.channel c) unresolvedFlag).mirror
      line := (x.mark (.channel c) unresolvedFlag).port.asserted
      raw := (x.mark (.channel c) unresolvedFlag).port.raw }) port
  · have raw : (x.mark (.channel c) unresolvedFlag).port.raw = s.port.raw ||| b := congrArg Port.raw port
    show s.port.raw &&& ~~~(x.mark (.channel c) unresolvedFlag).port.raw = 0
    rw [raw]
    exact raised_only _ _

/-- Settles O21. -/
theorem rebuildClearsPlanes : Obligations.RebuildClearsPlanes := by
  intro s
  refine ⟨fun o h => ?_, fun h invalid => ?_, fun h valid => ?_⟩
  · obtain ⟨run, -, -, urgent, -⟩ := State.arbiter_takeRoutine (State.granted_arbiter h.1).1
    have engine := State.yieldWith_starts (s := s) (x := { s.begin false o with census := s.census.startRebuild })
      (w := .rebuild (s.rebuildWork (some o) 0)) urgent rfl ((State.begin_run s false o).trans run)
    exact ⟨_, h.run rfl, rfl, ⟨⟨rfl, rfl⟩, engine⟩, rfl, rfl, rfl, ⟨rfl, rfl⟩, rfl, rfl, rfl⟩
  · obtain ⟨run, -, -, urgent, -⟩ := State.arbiter_takeRoutine h
    have engine := State.yieldWith_starts (s := s) (x := { s.beginEntry false with census := s.census.startRebuild })
      (w := .rebuild (s.rebuildWork none 0)) urgent rfl run
    have started : (s.beginEntry false).takeRebuild = (s.beginEntry false).startRebuild none := if_neg invalid
    exact ⟨_, exec_rebuild h started, rfl, ⟨⟨rfl, rfl⟩, engine⟩, rfl, rfl, rfl, ⟨rfl, rfl⟩, rfl, rfl, rfl⟩
  · obtain ⟨-, context, idle, -, -⟩ := State.arbiter_takeRoutine h
    have discarded : (s.beginEntry false).takeRebuild = (s.beginEntry false).release := if_pos valid
    exact ⟨_, exec_rebuild h discarded, ⟨⟨rfl, rfl, rfl, rfl⟩, ⟨rfl, rfl⟩, ⟨rfl, rfl⟩⟩, rfl, rfl, rfl,
      Engine.begin_release context idle⟩

end


section
/-! The products of a set of transmitters do not depend on the order in which they are formed, and split over a union of two
sets. So a count that changes with one frequency stays exact (R37 to R40, R43). -/

namespace Sys2Proof.Machine

/-! ### Products that each new step forms with the earlier ones -/

/-- The products that have a step of the first list among their generators, formed by a function of one step and its
partners. -/
def formed (f : Nat → List Nat → List Int) : List Nat → List Nat → List Int
  | [], _ => []
  | x :: t, others => f x (t ++ others) ++ formed f t others

/-- What makes the products of a set independent of the order in which they are formed. -/
structure Symmetric (f : Nat → List Nat → List Int) : Prop where
  partners : ∀ x l m, l.Perm m → (f x l).Perm (f x m)
  exchange : ∀ x y l, (f x (y :: l) ++ f y l).Perm (f y (x :: l) ++ f x l)

theorem formed_append (f : Nat → List Nat → List Int) (a b others : List Nat) :
    formed f (a ++ b) others = formed f a (b ++ others) ++ formed f b others := by
  induction a with
  | nil => rfl
  | cons x t ih =>
    show f x ((t ++ b) ++ others) ++ formed f (t ++ b) others = (f x (t ++ (b ++ others)) ++ formed f t _) ++ _
    rw [ih, List.append_assoc t b others, List.append_assoc]

theorem Symmetric.formed_partners {f : Nat → List Nat → List Int} (h : Symmetric f) (l : List Nat) {a b : List Nat}
    (k : a.Perm b) : (formed f l a).Perm (formed f l b) := by
  induction l with
  | nil => exact .refl _
  | cons x t ih => exact (h.partners x _ _ (k.append_left t)).append ih

theorem Symmetric.formed_perm {f : Nat → List Nat → List Int} (h : Symmetric f) (others : List Nat) {a b : List Nat}
    (k : a.Perm b) : (formed f a others).Perm (formed f b others) := by
  induction k with
  | nil => exact .refl _
  | cons x k ih => exact (h.partners x _ _ (k.append_right others)).append ih
  | swap x y l =>
    have := (h.exchange y x (l ++ others)).append_right (formed f l others)
    rw [List.append_assoc, List.append_assoc] at this
    exact this
  | trans _ _ ih jh => exact ih.trans jh

/-! ### The products of R37 -/

theorem pairThird_comm (x a : Nat) : (pairThird x a).Perm (pairThird a x) := List.Perm.swap _ _ _

theorem pairFifth_comm (x a : Nat) : (pairFifth x a).Perm (pairFifth a x) := List.Perm.swap _ _ _

/-- A three-transmitter product does not depend on which of the three comes first. -/
theorem tripleThird_first (x a c : Nat) : (tripleThird x a c).Perm (tripleThird a x c) := by
  unfold tripleThird
  rw [Int.add_comm (x : Int) a]
  exact (List.Perm.swap _ _ _).cons _

theorem tripleThird_last (x a c : Nat) : (tripleThird x a c).Perm (tripleThird x c a) := by
  unfold tripleThird
  rw [Int.add_comm (a : Int) c]
  exact List.Perm.swap _ _ _

/-- Pairs of a list, taken in any order, give the same products where the order within a pair does not matter. -/
theorem unorderedPairs_perm (g : Nat × Nat → List Int) (comm : ∀ a c, (g (a, c)).Perm (g (c, a))) {l m : List Nat}
    (k : l.Perm m) : ((unorderedPairs l).flatMap g).Perm ((unorderedPairs m).flatMap g) := by
  induction k with
  | nil => exact .refl _
  | cons x k ih =>
    unfold unorderedPairs
    rw [List.flatMap_append, List.flatMap_append]
    exact ((k.map _).flatMap_right g).append ih
  | swap x y l =>
    have same := List.perm_iff_count.1 (comm y x)
    refine List.perm_iff_count.2 fun p => ?_
    simp only [unorderedPairs, List.map_cons, List.cons_append, List.flatMap_cons, List.flatMap_append,
      List.count_append, same p]
    omega
  | trans _ _ ih jh => exact ih.trans jh

theorem symmetric_thirdWith (level : Nat) : Symmetric (thirdWith level) where
  partners x l m k := by
    unfold thirdWith
    refine (k.flatMap_right _).append ?_
    split
    · exact unorderedPairs_perm _ (fun a c => tripleThird_last x a c) k
    · exact .refl _
  exchange x y l := by
    have pair := List.perm_iff_count.1 (pairThird_comm x y)
    refine List.perm_iff_count.2 fun p => ?_
    unfold thirdWith
    split
    · have := pair p
      have : (l.flatMap fun c => tripleThird x y c).count p = (l.flatMap fun c => tripleThird y x c).count p :=
        (List.Perm.flatMap_left l fun c _ => tripleThird_first x y c).count_eq p
      simp only [unorderedPairs, List.flatMap_cons, List.flatMap_append, List.flatMap_map, List.count_append] at *
      omega
    · have := pair p
      simp only [List.flatMap_cons, List.append_nil, List.count_append] at *
      omega

theorem symmetric_fifthWith (level : Nat) : Symmetric (fifthWith level) where
  partners x l m k := by
    unfold fifthWith
    split
    · exact k.flatMap_right _
    · exact .refl _
  exchange x y l := by
    have pair := List.perm_iff_count.1 (pairFifth_comm x y)
    refine List.perm_iff_count.2 fun p => ?_
    unfold fifthWith
    split
    · have := pair p
      simp only [List.flatMap_cons, List.count_append] at *
      omega
    · rfl

/-! ### The products that count at a stage (R38) -/

theorem Site.relevant_append (s : Site) (b : Fin 8) (l m : List Transmitter) :
    s.relevant b (l ++ m) = s.relevant b l ++ s.relevant b m := by
  unfold Site.relevant
  rw [List.filter_append, List.map_append]

theorem Site.relevant_perm (s : Site) (b : Fin 8) {l m : List Transmitter} (k : l.Perm m) :
    (s.relevant b l).Perm (s.relevant b m) := (k.filter _).map _

theorem Site.thirdOf_eq (s : Site) (b : Fin 8) (l others : List Transmitter) :
    s.thirdOf b l others = formed (thirdWith s.params.imLevel) (s.relevant b l) (s.relevant b others) := by
  induction l with
  | nil => rfl
  | cons x t ih =>
    unfold Site.thirdOf Site.third
    rw [ih]
    by_cases near : s.nearIm b x.stage = true
    · rw [if_pos near, s.relevant_append]
      simp only [Site.relevant, List.filter_cons_of_pos (p := fun a : Transmitter => s.nearIm b a.stage) near,
        List.map_cons, formed]
    · rw [if_neg near]
      simp only [Site.relevant, List.filter_cons_of_neg (p := fun a : Transmitter => s.nearIm b a.stage) near,
        List.nil_append]

theorem Site.fifthOf_eq (s : Site) (b : Fin 8) (l others : List Transmitter) :
    s.fifthOf b l others = formed (fifthWith s.params.imLevel) (s.relevant b l) (s.relevant b others) := by
  induction l with
  | nil => rfl
  | cons x t ih =>
    unfold Site.fifthOf Site.fifth
    rw [ih]
    by_cases near : s.nearIm b x.stage = true
    · rw [if_pos near, s.relevant_append]
      simp only [Site.relevant, List.filter_cons_of_pos (p := fun a : Transmitter => s.nearIm b a.stage) near,
        List.map_cons, formed]
    · rw [if_neg near]
      simp only [Site.relevant, List.filter_cons_of_neg (p := fun a : Transmitter => s.nearIm b a.stage) near,
        List.nil_append]

theorem Site.thirdOf_perm (s : Site) (b : Fin 8) {l m : List Transmitter} (k : l.Perm m) (others : List Transmitter) :
    (s.thirdOf b l others).Perm (s.thirdOf b m others) := by
  rw [s.thirdOf_eq, s.thirdOf_eq]
  exact (symmetric_thirdWith _).formed_perm _ (s.relevant_perm b k)

theorem Site.fifthOf_perm (s : Site) (b : Fin 8) {l m : List Transmitter} (k : l.Perm m) (others : List Transmitter) :
    (s.fifthOf b l others).Perm (s.fifthOf b m others) := by
  rw [s.fifthOf_eq, s.fifthOf_eq]
  exact (symmetric_fifthWith _).formed_perm _ (s.relevant_perm b k)

theorem Site.thirdOf_append (s : Site) (b : Fin 8) (l m : List Transmitter) :
    s.thirdOf b (l ++ m) [] = s.thirdOf b l m ++ s.thirdOf b m [] := by
  have nothing : s.relevant b [] = [] := rfl
  rw [s.thirdOf_eq, s.thirdOf_eq, s.thirdOf_eq, s.relevant_append, nothing, formed_append, List.append_nil]

theorem Site.fifthOf_append (s : Site) (b : Fin 8) (l m : List Transmitter) :
    s.fifthOf b (l ++ m) [] = s.fifthOf b l m ++ s.fifthOf b m [] := by
  have nothing : s.relevant b [] = [] := rfl
  rw [s.fifthOf_eq, s.fifthOf_eq, s.fifthOf_eq, s.relevant_append, nothing, formed_append, List.append_nil]

/-! ### The counts (R39) -/

theorem landing_append (w : Window) (l m : List Int) (n : Nat) :
    landing w (l ++ m) n = landing w l n + landing w m n := by
  unfold landing
  split
  · exact List.count_append
  · rfl

theorem landing_perm (w : Window) {l m : List Int} (k : l.Perm m) (n : Nat) : landing w l n = landing w m n := by
  unfold landing
  split
  · exact k.count_eq _
  · rfl

/-- A bin outside the window has no count. -/
theorem landing_outside {w : Window} {n : Nat} (h : w.has n = false) (l : List Int) : landing w l n = 0 := by
  unfold landing
  rw [h]
  rfl

/-- The products of two disjoint parts of a set. -/
theorem Site.landing_third_split (s : Site) (b : Fin 8) {all l m : List Transmitter} (k : all.Perm (l ++ m)) (n : Nat) :
    landing s.window (s.thirdOf b all []) n =
      landing s.window (s.thirdOf b l m) n + landing s.window (s.thirdOf b m []) n := by
  rw [landing_perm _ (s.thirdOf_perm b k []), s.thirdOf_append, landing_append]

theorem Site.landing_fifth_split (s : Site) (b : Fin 8) {all l m : List Transmitter} (k : all.Perm (l ++ m)) (n : Nat) :
    landing s.window (s.fifthOf b all []) n =
      landing s.window (s.fifthOf b l m) n + landing s.window (s.fifthOf b m []) n := by
  rw [landing_perm _ (s.fifthOf_perm b k []), s.fifthOf_append, landing_append]

/-- How many products of a list fall on a bin of the window. -/
theorem Window.count_binsOf (w : Window) (l : List Int) (n : Nat) : (w.binsOf l).count n = landing w l n := by
  induction l with
  | nil =>
    unfold landing
    split <;> rfl
  | cons p l ih =>
    rw [show p :: l = [p] ++ l from rfl, landing_append, ← ih]
    unfold Window.binsOf
    rw [List.filter_append, List.map_append, List.count_append]
    congr 1
    unfold landing
    by_cases inside : w.hasInt p = true
    · obtain ⟨low, high⟩ : (w.w0 : Int) ≤ p ∧ p < (w.w0 + w.width : Nat) := by simpa [Window.hasInt] using inside
      have nat : p = (p.toNat : Int) := (Int.toNat_of_nonneg (by omega)).symm
      rw [List.filter_cons_of_pos inside]
      by_cases e : p.toNat = n
      · subst e
        have has : w.has p.toNat = true := by simp [Window.has]; omega
        rw [if_pos has, ← nat]
        simp
      · have ne : p ≠ (n : Int) := fun h => e (by rw [h]; rfl)
        have none : ([p] : List Int).count (n : Int) = 0 := List.count_eq_zero.2 (by simpa using ne.symm)
        rw [none, ite_self]
        exact List.count_eq_zero.2 (by simpa using Ne.symm e)
    · rw [List.filter_cons_of_neg inside]
      show 0 = _
      split
      · rename_i has
        have ne : p ≠ (n : Int) := by
          rintro rfl
          apply inside
          simp [Window.has] at has
          simp [Window.hasInt]
          omega
        exact (List.count_eq_zero.2 (by simpa using ne.symm)).symm
      · rfl

/-- A stage's part of a list that is built stage by stage. -/
theorem count_flatMap_stage {β : Type} [BEq β] [LawfulBEq β] (F : Fin 8 → List β) (b : Fin 8) (v : β) (l : List (Fin 8))
    (nodup : l.Nodup) (mem : b ∈ l) (other : ∀ a, a ≠ b → v ∉ F a) : (l.flatMap F).count v = (F b).count v := by
  induction l with
  | nil => exact absurd mem List.not_mem_nil
  | cons a l ih =>
    obtain ⟨out, nodup⟩ := List.nodup_cons.1 nodup
    rw [List.flatMap_cons, List.count_append]
    by_cases e : a = b
    · subst e
      have rest : (l.flatMap F).count v = 0 := by
        refine List.count_eq_zero.2 fun h => ?_
        obtain ⟨c, hc, hv⟩ := List.mem_flatMap.1 h
        exact other c (fun e => out (e ▸ hc)) hv
      omega
    · have := List.count_eq_zero.2 (other a e)
      rw [ih nodup ((List.mem_cons.1 mem).resolve_left (Ne.symm e))]
      omega

/-- How often a new frequency touches a count (R40). -/
theorem Site.count_increments (s : Site) (x : Transmitter) (others : List Transmitter) (b : Fin 8) (n : Nat) :
    (s.increments x others).count (b, false, n) = landing s.window (s.third b x.stage x.step others) n ∧
      (s.increments x others).count (b, true, n) = landing s.window (s.fifth b x.stage x.step others) n := by
  have inj : ∀ p : Bool, Function.Injective fun n : Nat => ((b, p, n) : Increment) := fun p i j h => by
    injection h with _ h
    injection h
  let part : Fin 8 → List Increment := fun a =>
    (s.window.binsOf (s.third a x.stage x.step others)).map (fun n => (a, false, n)) ++
      (s.window.binsOf (s.fifth a x.stage x.step others)).map (fun n => (a, true, n))
  have stage : ∀ p : Bool, (s.increments x others).count (b, p, n) = (part b).count (b, p, n) := fun p =>
    count_flatMap_stage part b (b, p, n) allStages (by decide) (mem_allStages b) fun a ne m => by
      simp only [part, List.mem_append, List.mem_map, Prod.mk.injEq] at m
      rcases m with ⟨_, _, e, -⟩ | ⟨_, _, e, -⟩ <;> exact ne e
  have plane : ∀ (p q : Bool) (l : List Nat), (l.map fun n => ((b, p, n) : Increment)).count (b, q, n) =
      if p = q then l.count n else 0 := by
    intro p q l
    split
    · rename_i e
      subst e
      exact List.count_map_of_injective l _ (inj p) n
    · rename_i ne
      refine List.count_eq_zero.2 fun m => ?_
      obtain ⟨_, -, e⟩ := List.mem_map.1 m
      exact ne (congrArg (fun i : Increment => i.2.1) e)
  refine ⟨(stage false).trans ?_, (stage true).trans ?_⟩
  · simp only [part, List.count_append, plane, s.window.count_binsOf]
    rfl
  · simp only [part, List.count_append, plane, s.window.count_binsOf]
    exact Nat.zero_add _

end Sys2Proof.Machine
end


section
/-! The held frequencies as transmitters, and exact planes (R36, R40, R43). -/

namespace Sys2Proof.Machine

/-! ### The transmitters of a plan -/

/-- The channel table as a list, each record with its number. -/
theorem Plan.zip_channels (p : Plan) :
    allChannels.zip p.channels.toList = allChannels.map fun c => (c, p.channels[c]) := by
  refine List.ext_getElem (by simp [allChannels]) fun i h _ => ?_
  have small : i < 256 := by simpa [allChannels] using h
  simp [allChannels]

theorem Plan.records_eq (p : Plan) :
    p.records = allChannels.filterMap fun c => (p.channels[c]).map fun r => (c, r) := by
  unfold Plan.records
  rw [p.zip_channels, List.filterMap_map]
  rfl

theorem Plan.mem_records {p : Plan} {c : Fin 256} {r : ChannelRecord} :
    (c, r) ∈ p.records ↔ p.channels[c] = some r := by
  rw [p.records_eq, List.mem_filterMap]
  constructor
  · rintro ⟨d, -, e⟩
    obtain ⟨r', hr, e⟩ := Option.map_eq_some_iff.1 e
    cases e
    exact hr
  · exact fun h => ⟨c, List.mem_finRange c, by rw [h]; rfl⟩

theorem Plan.mem_transmitters {p : Plan} {x : Transmitter} :
    x ∈ p.transmitters ↔ ∃ c r, p.channels[c] = some r ∧ x ∈ transmittersOf c r := by
  unfold Plan.transmitters
  rw [List.mem_flatMap]
  constructor
  · rintro ⟨⟨c, r⟩, mem, hx⟩
    exact ⟨c, r, Plan.mem_records.1 mem, hx⟩
  · rintro ⟨c, r, hr, hx⟩
    exact ⟨(c, r), Plan.mem_records.2 hr, hx⟩

theorem channel_of_transmittersOf {c : Fin 256} {r : ChannelRecord} {x : Transmitter} (h : x ∈ transmittersOf c r) :
    x.channel = c := by
  obtain ⟨e, -, rfl⟩ := List.mem_map.1 h
  rfl

theorem transmittersOf_nodup (c : Fin 256) (r : ChannelRecord) : (transmittersOf c r).Nodup := by
  unfold transmittersOf
  cases r.hold <;> simp [Hold.frequencies]

/-- No transmitter stands twice. -/
theorem Plan.transmitters_nodup (p : Plan) : p.transmitters.Nodup := by
  unfold Plan.transmitters
  refine List.nodup_flatMap.2 ⟨fun e _ => transmittersOf_nodup e.1 e.2, ?_⟩
  have numbers : (p.records.map Prod.fst).Nodup := by
    rw [p.records_eq, List.map_filterMap]
    refine (List.nodup_finRange 256).filterMap fun a b c ha hb => ?_
    simp only [Option.mem_def, Option.map_map, Option.map_eq_some_iff] at ha hb
    obtain ⟨_, -, rfl⟩ := ha
    obtain ⟨_, -, e⟩ := hb
    exact e.symm
  refine (List.pairwise_map.1 numbers).imp fun {a b} ne => ?_
  intro x ha hb
  exact ne ((channel_of_transmittersOf ha).symm.trans (channel_of_transmittersOf hb))

/-- A held frequency and the others. -/
theorem Plan.perm_others {p : Plan} {x : Transmitter} (h : x ∈ p.transmitters) : p.transmitters.Perm (x :: p.others x) := by
  have sorted : p.others x = p.transmitters.erase x := by
    rw [p.transmitters_nodup.erase_eq_filter]
    unfold Plan.others
    refine List.filter_congr fun a _ => ?_
    by_cases e : a = x <;> simp [e]
  rw [sorted]
  exact List.perm_cons_erase h

/-- The frequencies of a channel and those of the others. -/
theorem Plan.perm_channel {p : Plan} {c : Fin 256} {r : ChannelRecord} (h : p.channels[c] = some r) :
    p.transmitters.Perm (transmittersOf c r ++ p.transmitters.filter fun a => a.channel ≠ c) := by
  have own : (p.transmitters.filter fun a => a.channel = c).Perm (transmittersOf c r) := by
    refine (List.perm_ext_iff_of_nodup (p.transmitters_nodup.filter _) (transmittersOf_nodup c r)).2 fun x => ?_
    rw [List.mem_filter, Plan.mem_transmitters]
    constructor
    · rintro ⟨⟨d, r', hd, hx⟩, e⟩
      obtain rfl : d = c := (channel_of_transmittersOf hx).symm.trans (of_decide_eq_true e)
      rw [h] at hd
      cases hd
      exact hx
    · exact fun hx => ⟨⟨c, r, h, hx⟩, decide_eq_true (channel_of_transmittersOf hx)⟩
  have split := (List.filter_append_perm (fun a : Transmitter => decide (a.channel = c)) p.transmitters).symm
  have rest : (p.transmitters.filter fun a => !decide (a.channel = c)) =
      p.transmitters.filter fun a => decide (a.channel ≠ c) :=
    List.filter_congr fun a _ => (decide_not).symm
  rw [rest] at split
  exact split.trans (own.append_right _)

/-! ### Exact planes -/

theorem State.exactFor_congr {s t : State} {l : List Transmitter} (h : s.exactFor l) (census : t.census = s.census)
    (site : t.site = s.site) : t.exactFor l := by
  unfold State.exactFor at h ⊢
  rw [census, site]
  exact h

theorem State.exactFor.perm {s : State} {l m : List Transmitter} (h : s.exactFor l) (k : l.Perm m) : s.exactFor m := by
  intro b n
  obtain ⟨third, fifth⟩ := h b n
  exact ⟨third.trans (landing_perm _ (s.site.thirdOf_perm b k []) n),
    fifth.trans (landing_perm _ (s.site.fifthOf_perm b k []) n)⟩

/-- With exact planes, the counts less those that a part forms are the counts of the rest (R43). -/
theorem State.exactFor.less {s : State} {all l m : List Transmitter} (h : s.exactFor all) (k : all.Perm (l ++ m))
    (b : Fin 8) (n : Nat) :
    s.census.count (b, false, n) - landing s.site.window (s.site.thirdOf b l m) n =
        landing s.site.window (s.site.thirdOf b m []) n ∧
      s.census.count (b, true, n) - landing s.site.window (s.site.fifthOf b l m) n =
        landing s.site.window (s.site.fifthOf b m []) n := by
  obtain ⟨third, fifth⟩ := h b n
  rw [third, fifth, s.site.landing_third_split b k, s.site.landing_fifth_split b k]
  exact ⟨Nat.add_sub_cancel_left .., Nat.add_sub_cancel_left ..⟩

theorem Site.thirdOf_one (s : Site) (b : Fin 8) (x : Transmitter) (m : List Transmitter) :
    s.thirdOf b [x] m = s.third b x.stage x.step m := List.append_nil _

theorem Site.fifthOf_one (s : Site) (b : Fin 8) (x : Transmitter) (m : List Transmitter) :
    s.fifthOf b [x] m = s.fifth b x.stage x.step m := List.append_nil _

/-- Exact planes that gain the products of one more frequency stay exact (R40). -/
theorem State.exactFor.gains {s t : State} {x : Transmitter} {l : List Transmitter} (h : s.exactFor l)
    (site : t.site = s.site) (k : s.census.gains t.census (s.site.increments x l)) : t.exactFor (x :: l) := by
  intro b n
  obtain ⟨third, fifth⟩ := h b n
  obtain ⟨more3, more5⟩ := s.site.count_increments x l b n
  have split : (x :: l).Perm ([x] ++ l) := .refl _
  rw [site, s.site.landing_third_split b split, s.site.landing_fifth_split b split, s.site.thirdOf_one, s.site.fifthOf_one,
    k, k, third, fifth, more3, more5]
  exact ⟨Nat.add_comm .., Nat.add_comm ..⟩

/-- Exact planes that lose the products of one frequency stay exact (R40). -/
theorem State.exactFor.loses {s t : State} {x : Transmitter} {l : List Transmitter} (h : s.exactFor (x :: l))
    (site : t.site = s.site) (k : s.census.loses t.census (s.site.increments x l)) : t.exactFor l := by
  intro b n
  obtain ⟨third, fifth⟩ := h.less (l := [x]) (m := l) (.refl _) b n
  obtain ⟨less3, less5⟩ := s.site.count_increments x l b n
  rw [s.site.thirdOf_one] at third
  rw [s.site.fifthOf_one] at fifth
  rw [site, k, k, less3, less5, third, fifth]
  exact ⟨rfl, rfl⟩

/-! ### The evaluator on exact planes (R43, R59, R61) -/

/-- With exact planes the counts of a considered set do not depend on the census state. -/
theorem State.count_eq {s : State} {d : Census} {set aside : List Transmitter} (valid : s.census.state = .valid)
    (exact : s.exactFor s.plan.transmitters) (other : d.state ≠ .valid)
    (k : s.plan.transmitters.Perm (aside ++ set)) (b : Fin 8) :
    s.count3 b set aside = State.count3 { s with census := d } b set aside ∧
      s.count5 b set aside = State.count5 { s with census := d } b set aside := by
  have less := fun n => exact.less k b n
  have third : State.count3 { s with census := d } b set aside = landing s.site.window (s.site.thirdOf b set []) := by
    unfold State.count3
    cases e : d.state with
    | valid => exact absurd e other
    | stale => rfl
    | rebuilding => rfl
  have fifth : State.count5 { s with census := d } b set aside = landing s.site.window (s.site.fifthOf b set []) := by
    unfold State.count5
    cases e : d.state with
    | valid => exact absurd e other
    | stale => rfl
    | rebuilding => rfl
  rw [third, fifth]
  unfold State.count3 State.count5
  simp only [valid]
  refine ⟨funext fun n => ?_, funext fun n => ?_⟩
  · split
    · exact (less n).1
    · rename_i out
      exact (landing_outside (Bool.eq_false_iff.2 out) _).symm
  · split
    · exact (less n).2
    · rename_i out
      exact (landing_outside (Bool.eq_false_iff.2 out) _).symm

/-- C5 reads the census through its counts alone. -/
theorem State.check5_congr {s : State} {d : Census} {set aside : List Transmitter}
    (third : ∀ b, s.count3 b set aside = State.count3 { s with census := d } b set aside)
    (fifth : ∀ b, s.count5 b set aside = State.count5 { s with census := d } b set aside) (c : Candidate) :
    s.check5 c set aside = State.check5 { s with census := d } c set aside := by
  unfold State.check5
  rw [third, fifth]

/-- So does an evaluation. -/
theorem State.evaluate_congr {s : State} {d : Census} {set aside : List Transmitter}
    (third : ∀ b, s.count3 b set aside = State.count3 { s with census := d } b set aside)
    (fifth : ∀ b, s.count5 b set aside = State.count5 { s with census := d } b set aside) (c : Candidate)
    (strict : Bool) : s.evaluate c set aside strict = State.evaluate { s with census := d } c set aside strict := by
  have five := State.check5_congr third fifth c
  have score : s.score c set aside = State.score { s with census := d } c set aside := by
    unfold State.score State.termP
    rw [third, fifth]
    rfl
  unfold State.evaluate
  rw [five, score]
  rfl

end Sys2Proof.Machine

open Sys2Proof Sys2Proof.Machine

/-- Settles O25. -/
theorem verdictIgnoresCensusState : Obligations.VerdictIgnoresCensusState := by
  intro s d valid _ other exact
  refine ⟨fun c strict => ?_, fun c r f strict hr => ?_⟩
  · have same := State.count_eq (aside := []) valid exact other (.refl _)
    exact State.evaluate_congr (fun b => (same b).1) (fun b => (same b).2) c strict
  · have same := State.count_eq valid exact other (Plan.perm_channel hr)
    exact State.evaluate_congr (fun b => (same b).1) (fun b => (same b).2) _ strict

end


section
/-! The end of an order that has run in the routine context, and the steps of a REBUILD (R45 to R48). -/

namespace Sys2Proof.Machine

/-! ### Work that runs -/

theorem State.running_iff {s : State} {w : Work} : s.running = some w ↔ s.engine.routineContext = .running w := by
  unfold State.running
  constructor
  · intro h
    split at h
    · cases h
      assumption
    · cases h
  · intro h
    rw [h]

theorem State.runs.context {s : State} {w : Work} (h : s.runs w) : s.engine.routineContext = .running w :=
  State.running_iff.1 h.1

theorem State.runs.idle {s : State} {w : Work} (h : s.runs w) : s.engine.urgentContext = .idle := h.2.1

theorem State.runs.ordersOk {s : State} {w : Work} (h : s.runs w) : s.ordersOk := h.2.2.1

theorem State.runs.memoryOk {s : State} {w : Work} (h : s.runs w) : s.memoryOk := h.2.2.2

theorem State.runs.working {s : State} {w : Work} {o : Handed} (h : s.runs w) (ho : w.order = some o) :
    o ∈ s.working := by
  unfold State.working
  rw [h.context]
  refine List.mem_append_left _ ?_
  show o ∈ (w.order).toList
  rw [ho]
  exact List.mem_singleton.2 rfl

theorem State.runs.ok {s : State} {w : Work} {o : Handed} (h : s.runs w) (ho : w.order = some o) : o.ok :=
  h.ordersOk.chain (List.mem_append_right _ (h.working ho))

/-- The cells of the order whose work runs are ACTIVE. -/
theorem State.runs.active {s : State} {w : Work} {o : Handed} (h : s.runs w) (ho : w.order = some o) (c : Nat)
    (hc : c ∈ o.cells) : s.port.cell c = some .active := by
  obtain ⟨-, -, -, active, -⟩ := h.ordersOk
  exact active o (h.working ho) c hc

/-- The order whose work runs ends, from a state that its event has reached by reports alone. -/
theorem State.runs.ends {s x : State} {w : Work} {o : Handed} (h : s.runs w) (ho : w.order = some o)
    (outcome : OrderOutcome) (reason : Reason) (argument : Word) (payloads : List (List Byte))
    (k : s.port.Keeps x.port) (r : s.port.Reports x.port) (now : x.now = s.now) (pending : x.pending = s.pending)
    (hp : ∀ l ∈ payloads, l.length ≤ 240) :
    s.ends (s.finish (x.conclude o outcome reason argument payloads)) o outcome reason argument payloads := by
  refine State.close_ends (b := s) (x := x) outcome reason argument payloads (h.ok ho) h.memoryOk (fun _ _ => rfl)
    (fun c hc => by rw [h.active ho c hc]; exact nofun) rfl (.refl _) k r hp rfl rfl rfl rfl rfl rfl ?_
  obtain ⟨reset, run, auto, enables, data, -⟩ := k.trans (x.holds_conclude o outcome reason argument payloads).port
  exact ⟨run, auto, enables, reset, data, (x.holds_conclude o outcome reason argument payloads).now.trans now,
    (x.holds_conclude o outcome reason argument payloads).pending.trans pending⟩

theorem State.memoryOk_keeps {s t : State} (k : s.port.Keeps t.port) (h : s.memoryOk) : t.memoryOk :=
  ⟨k.wf h.1, k.out h.2.1, k.held h.2.2⟩

/-- What the end of the order does besides, from the state its event has reached. -/
theorem State.runs.alone {s x : State} {w : Work} {o : Handed} (h : s.runs w) (ho : w.order = some o)
    (outcome : OrderOutcome) (reason : Reason) (argument : Word) (payloads : List (List Byte))
    (k : s.port.Keeps x.port) (r : s.port.Reports x.port) (hp : ∀ l ∈ payloads, l.length ≤ 240) :
    x.aloneWith (s.finish (x.conclude o outcome reason argument payloads)) o outcome payloads := by
  have active : x.port = x.port.setCells o.cells .active := (Port.setCells_same _ _ _ fun c hc => by
    rw [r.1 c (by rw [h.active ho c hc]; exact nofun)]
    exact h.active ho c hc).symm
  refine State.close_alone (x := x) outcome reason argument payloads (h.ok ho) (State.memoryOk_keeps k h.memoryOk)
    active rfl ?_ ?_ rfl rfl hp
  · unfold State.conclude State.close
    split <;> rfl
  · unfold State.conclude State.close
    split <;> rfl

theorem State.aloneWith_congr {s s' t : State} {o : Handed} {outcome : OrderOutcome} {payloads : List (List Byte)}
    (h : s.aloneWith t o outcome payloads) (port : s'.port = s.port) (reports : s'.reports = s.reports) :
    s'.aloneWith t o outcome payloads := by
  unfold State.aloneWith at h ⊢
  rw [port, reports]
  exact h

/-- An outcome that is delivered leaves the Report Builder alone. -/
theorem State.conclude_loud {x : State} {o : Handed} {outcome : OrderOutcome} (h : o.silent outcome = false)
    (reason : Reason) (argument : Word) (payloads : List (List Byte)) :
    (x.conclude o outcome reason argument payloads).reports = x.reports ∧
      (x.conclude o outcome reason argument payloads).port =
        x.port.deliver o.head o.rest o.urgent outcome reason argument payloads := by
  have loud : ¬ ((o.quiet && outcome = .done) = true) := by rw [show (o.quiet && decide (outcome = .done)) = false from h]; decide
  unfold State.conclude State.close
  rw [if_neg loud]
  exact ⟨rfl, rfl⟩

theorem Handed.silent_failed (o : Handed) : o.silent .failed = false := Bool.and_false _

theorem Handed.silent_part (o : Handed) : o.silent .part = false := Bool.and_false _

theorem Handed.silent_loud {o : Handed} (h : o.quiet = false) (outcome : OrderOutcome) : o.silent outcome = false := by
  unfold Handed.silent
  rw [h]
  rfl

/-- A delivery lowers no notice. -/
theorem Port.deliver_raises (p : Port) (head : Nat) (rest : List Nat) (urgent : Bool) (outcome : OrderOutcome)
    (reason : Reason) (argument : Word) (payloads : List (List Byte)) (b : BitVec 5) (h : p.raw &&& b = b) :
    (p.deliver head rest urgent outcome reason argument payloads).raw &&& b = b := by
  refine Port.announce_raises _ _ b ?_
  rw [Port.setCells_raw]
  exact h

theorem Engine.release_idle {e : Engine} (h : e.urgentContext = .idle) : e.release = { e with routineContext := .idle } := by
  unfold Engine.release
  rw [h]

/-- The routine context is left, with nothing queued. -/
theorem State.rests_of {s x t : State} (idle : s.engine.urgentContext = .idle) (engine : x.engine = s.engine)
    (reached : x.Concluded t) (now : x.now = s.now) (pending : x.pending = s.pending) : s.rests t [] := by
  refine ⟨⟨reached.now.trans now, reached.pending.trans pending⟩, ?_⟩
  rw [reached.engine, engine, Engine.release_idle idle, List.append_nil]

/-- Work that makes a step and queues nothing. -/
theorem State.yields_of {s x : State} {v : Work} (engine : x.engine = s.engine) (run : x.port.run = s.port.run)
    (now : x.now = s.now) (pending : x.pending = s.pending) (q : State) : s.yields (q.finish (x.yieldWith v)) v [] := by
  refine ⟨⟨now, pending⟩, ?_⟩
  show (x.yieldWith v).engine = _
  unfold State.yieldWith
  rw [engine, run, List.append_nil]

/-! ### A step of a REBUILD -/

theorem exec_rebuildStep {s x : State} {w : RebuildWork} (h : s.running = some (.rebuild w)) (p : s.rebuildStep w = x) :
    exec .rebuildStep s = .next (s.finish x).arbitrate := by
  subst p
  show execRebuildStep s = _
  unfold execRebuildStep
  rw [h]

theorem State.rebuildStep_add {s : State} {w : RebuildWork} {x : Transmitter} (phase : w.phase = .add)
    (h : s.plan.transmitters[w.position]? = some x) : s.rebuildStep w = s.rebuildAdd w x := by
  unfold State.rebuildStep
  rw [h]
  dsimp only
  rw [phase]

theorem State.rebuildStep_sweep {s : State} {w : RebuildWork} {x : Transmitter} (phase : w.phase = .sweep)
    (h : s.plan.transmitters[w.position]? = some x) : s.rebuildStep w = s.rebuildSweep w x := by
  unfold State.rebuildStep
  rw [h]
  dsimp only
  rw [phase]

theorem State.rebuildStep_none {s : State} {w : RebuildWork} (h : s.plan.transmitters[w.position]? = none) :
    s.rebuildStep w = s.rebuildComplete w := by
  unfold State.rebuildStep
  rw [h]

/-- The end of a REBUILD leaves its context, an order or not. -/
theorem State.concluded_endRebuild (s x : State) (w : RebuildWork) (outcome : OrderOutcome) (reason : Reason) :
    x.Concluded (s.finish (x.endRebuild w outcome reason)) := by
  unfold State.endRebuild
  split
  · exact s.concluded x ..
  · exact ⟨rfl, rfl, rfl, rfl, rfl, rfl, rfl, rfl, rfl, rfl⟩

theorem State.endRebuild_order {x : State} {w : RebuildWork} {o : Handed} (h : w.order = some o) (outcome : OrderOutcome)
    (reason : Reason) :
    x.endRebuild w outcome reason = x.conclude o outcome reason 0 [x.rebuildResult w] := by
  unfold State.endRebuild
  rw [h]

theorem State.endRebuild_internal {x : State} {w : RebuildWork} (h : w.order = none) (outcome : OrderOutcome)
    (reason : Reason) : x.endRebuild w outcome reason = x.release := by
  unfold State.endRebuild
  rw [h]

theorem State.rebuildResult_length (x : State) (w : RebuildWork) : ∀ l ∈ [x.rebuildResult w], l.length ≤ 240 :=
  fun l m => by
    rw [List.mem_singleton.1 m]
    exact Nat.le_of_ble_eq_true rfl

/-- An addition with room for every product stands at its yield point. -/
theorem State.rebuildAdd_fits {s : State} {w : RebuildWork} {x : Transmitter}
    (h : (Census.addAll (s.site.increments x (s.plan.transmitters.take w.position)) s.census).2 = false) :
    s.rebuildAdd w x = State.yieldWith { s with
      census := (Census.addAll (s.site.increments x (s.plan.transmitters.take w.position)) s.census).1 }
      (.rebuild (w.counted s.plan.transmitters.length)) := by
  unfold State.rebuildAdd
  simp only [h, Bool.false_eq_true, if_false]

/-- A REBUILD whose addition stops at a full count: the census is STALE with the cause SATURATED, CENSUS is raised and the
REBUILD ends (R41). -/
theorem State.rebuildAdd_saturates {s : State} {w : RebuildWork} {x : Transmitter} (rebuilding : s.census.state ≠ .stale)
    (h : (Census.addAll (s.site.increments x (s.plan.transmitters.take w.position)) s.census).2 = true) :
    ∃ c : Census, c.state = .stale ∧ c.cause = .saturated ∧
      s.rebuildAdd w x = State.endRebuild { s with census := c, port := s.port.raise censusBit } w .failed .saturated := by
  obtain ⟨state, -, -⟩ :=
    Census.addAll_keeps (s.site.increments x (s.plan.transmitters.take w.position)) s.census
  generalize hr : Census.addAll (s.site.increments x (s.plan.transmitters.take w.position)) s.census = r at h state
  have port : (if r.1.state = .stale then s.port else s.port.raise censusBit) = s.port.raise censusBit :=
    if_neg (by rw [state]; exact rebuilding)
  refine ⟨{ r.1 with state := .stale, cause := .saturated }, rfl, rfl, ?_⟩
  unfold State.rebuildAdd State.stale
  simp only [hr, h, if_true, port]

/-- The end of a REBUILD lowers no notice, and with no delivery to be made leaves the Report Builder alone. -/
theorem State.endRebuild_failed (x : State) (w : RebuildWork) (reason : Reason) (b : BitVec 5)
    (h : x.port.raw &&& b = b) :
    (x.endRebuild w .failed reason).port.raw &&& b = b ∧ (x.endRebuild w .failed reason).reports = x.reports := by
  cases order : w.order with
  | none =>
    rw [State.endRebuild_internal order]
    exact ⟨h, rfl⟩
  | some o =>
    obtain ⟨reports, port⟩ := State.conclude_loud (x := x) o.silent_failed reason 0 [x.rebuildResult w]
    rw [State.endRebuild_order order, port]
    exact ⟨Port.deliver_raises _ _ _ _ _ _ _ _ b h, reports⟩

end Sys2Proof.Machine

open Sys2Proof Sys2Proof.Machine

/-- Settles O22. -/
theorem rebuildStepAddsProducts : Obligations.RebuildStepAddsProducts := by
  intro s w x h rebuilding ok phase hx
  obtain ⟨state, cause, -⟩ :=
    Census.addAll_keeps (s.site.increments x (s.plan.transmitters.take w.position)) s.census
  refine ⟨fun room => ?_, fun past => ?_⟩
  · obtain ⟨fits, gains⟩ := Census.gains_addAll _ _ ok room
    have run := exec_rebuildStep h.1 ((State.rebuildStep_add phase hx).trans (State.rebuildAdd_fits fits))
    exact ⟨_, run, state.trans rebuilding, cause, gains, rfl, rfl, rfl, ⟨rfl, rfl⟩, rfl, rfl, rfl,
      State.yields_of rfl rfl rfl rfl s⟩
  · obtain ⟨c, stale, saturated, stops⟩ := State.rebuildAdd_saturates (by rw [rebuilding]; exact nofun)
      (Census.addAll_saturates _ _ ok past)
    let y : State := { s with census := c, port := s.port.raise censusBit }
    have run : exec .rebuildStep s = .next (s.finish (y.endRebuild w .failed .saturated)).arbitrate :=
      exec_rebuildStep h.1 ((State.rebuildStep_add phase hx).trans stops)
    have reached := s.concluded_endRebuild y w .failed .saturated
    obtain ⟨raised, reports⟩ := State.endRebuild_failed y w .saturated censusBit (or_raised _ _)
    have noticed : ∀ t : State, t.census = c → (s.noticed t).port = y.port := fun t e =>
      if_pos ⟨by rw [rebuilding]; exact nofun, by rw [e]; exact stale⟩
    refine ⟨_, run, (congrArg Census.state reached.census).trans stale,
      (congrArg Census.cause reached.census).trans saturated, reached.site, reached.plan, reached.spares,
      ⟨reached.links, reached.zones⟩, reached.free, State.rests_of (x := y) h.idle rfl reached rfl rfl, raised, reports,
      fun internal => ?_, fun o order => ?_⟩
    · unfold State.samePort
      rw [noticed _ reached.census, State.endRebuild_internal internal]
      rfl
    · have k : s.port.Keeps y.port := s.port.keeps_raise censusBit
      have r : s.port.Reports y.port := Port.Reports.of_eq rfl rfl
      have result : y.rebuildResult w = half w.added ++ half w.marked.length ++ word w.restarts ++ [1#8, 1#8] ++ half 0
          ++ word w.epoch ++ word w.generation := by
        unfold State.rebuildResult
        rw [show y.census.state = .stale from stale, show y.census.cause = .saturated from saturated]
        rfl
      dsimp only
      rw [State.endRebuild_order order, ← result]
      exact ⟨h.ends order _ _ _ _ k r rfl rfl (y.rebuildResult_length w),
        State.aloneWith_congr (h.alone order _ _ _ _ k r (y.rebuildResult_length w))
          (noticed _ (State.conclude_census ..)) rfl⟩

end


section
/-! The conflict sweep of a REBUILD (R47, R48). -/

namespace Sys2Proof.Machine

/-! ### The judgement of a held frequency -/

/-- A held frequency as the candidate of the sweep. -/
def Transmitter.candidate (x : Transmitter) : Candidate :=
  { step := x.step, halfWidth := x.halfWidth, multiple := 1, range := none, stage := x.stage }

/-- The state whose planes are read as those of a VALID census. -/
def State.built (s : State) : State := { s with census := { s.census with state := .valid } }

theorem count_zero_iff (has : Bool) (d : Nat) : decide ((if has = true then d else 0) = 0) = (!has || decide (d = 0)) := by
  cases has <;> rfl

theorem State.sweepPasses_eq (s : State) (x : Transmitter) :
    s.sweepPasses x = (s.check2 x.candidate && s.check4 x.candidate (s.plan.others x) &&
      s.built.check5 x.candidate (s.plan.others x) [x]) := by
  have five : s.built.check5 x.candidate (s.plan.others x) [x] =
      ((binsAround x.step s.site.params.guard3).all (fun n => decide
        ((if s.site.window.has n = true then sparseGet 0 s.census.plane3[x.stage] n -
          landing s.site.window (s.site.thirdOf x.stage [x] (s.plan.others x)) n else 0) = 0)) &&
      (!s.site.fifthCounted || (binsAround x.step s.site.params.guard5).all (fun n => decide
        ((if s.site.window.has n = true then sparseGet 0 s.census.plane5[x.stage] n -
          landing s.site.window (s.site.fifthOf x.stage [x] (s.plan.others x)) n else 0) = 0)))) := rfl
  rw [five]
  simp only [count_zero_iff]
  rw [← Bool.and_assoc]
  rfl

/-- With exact planes the sweep reads C5 against the rest of the plan. -/
theorem State.built_check5 {s : State} {x : Transmitter} (exact : s.exactFor s.plan.transmitters)
    (mem : x ∈ s.plan.transmitters) (other : s.census.state ≠ .valid) (c : Candidate) :
    s.built.check5 c (s.plan.others x) [x] = s.check5 c (s.plan.others x) [x] := by
  have same := State.count_eq (s := s.built) (d := s.census) (set := s.plan.others x) (aside := [x]) rfl exact other
    (Plan.perm_others mem)
  exact State.check5_congr (fun b => (same b).1) (fun b => (same b).2) c

/-! ### Reports alone -/

/-- An event that has moved the port by reports and notices alone. -/
theorem State.reportsOnly_of {s t : State} {p : Port} (k : s.port.Keeps p) (r : s.port.Reports p)
    (e : t.port = { p with header := t.port.header, line := t.port.line }) : s.reportsOnly t := by
  obtain ⟨reset, run, auto, enables, data, -⟩ := k
  obtain ⟨cells, memory, free⟩ := r
  have cell : ∀ c, t.port.cell c = p.cell c := Port.cell_congr (by rw [e])
  have bytes : t.port.memory = p.memory := by rw [e]
  have field : ∀ c, t.port.headField c 6 1 = p.headField c 6 1 := fun c => by
    unfold Port.headField
    rw [bytes]
  refine ⟨fun c h => (cell c).trans (cells c h), fun ok c h => ?_, fun ok a h => by rw [bytes]; exact memory ok.1 a h,
    by rw [e]; exact run, by rw [e]; exact auto, by rw [e]; exact enables, by rw [e]; exact reset, by rw [e]; exact data⟩
  rcases free c h with h | ⟨h, code⟩
  · exact .inl ((cell c).trans h)
  · exact .inr ⟨(cell c).trans h, (field c).trans (code ok.1)⟩

/-! ### A step of the sweep -/

/-- Whether the sweep marks a channel. -/
def State.sweepMarks (s : State) (w : RebuildWork) (x : Transmitter) : Bool :=
  !s.sweepPasses x && !w.marked.contains x.channel

theorem State.rebuildJudge_marks {s : State} {w : RebuildWork} {x : Transmitter} (h : s.sweepMarks w x = true) :
    s.rebuildJudge w x = (s.mark (.channel x.channel) conflictFlag, w.conflicted x.channel) := by
  unfold State.sweepMarks at h
  refine if_neg ?_
  revert h
  cases s.sweepPasses x <;> cases w.marked.contains x.channel <;> simp

theorem State.rebuildJudge_passes {s : State} {w : RebuildWork} {x : Transmitter} (h : s.sweepMarks w x = false) :
    s.rebuildJudge w x = (s, w) := by
  unfold State.sweepMarks at h
  refine if_pos ?_
  revert h
  cases s.sweepPasses x <;> cases w.marked.contains x.channel <;> simp

theorem State.rebuildSweep_more {s y : State} {w v : RebuildWork} {x : Transmitter} (h : s.rebuildJudge w x = (y, v))
    (more : w.position + 1 < s.plan.transmitters.length) :
    s.rebuildSweep w x = y.yieldWith (.rebuild { v with position := w.position + 1 }) := by
  unfold State.rebuildSweep
  rw [h]
  exact if_pos more

theorem State.rebuildSweep_last {s y : State} {w v : RebuildWork} {x : Transmitter} (h : s.rebuildJudge w x = (y, v))
    (last : w.position + 1 = s.plan.transmitters.length) : s.rebuildSweep w x = y.rebuildComplete v := by
  unfold State.rebuildSweep
  rw [h]
  exact if_neg (by omega)

theorem State.endRebuild_loud {x : State} {w : RebuildWork} {outcome : OrderOutcome}
    (h : ∀ o, w.order = some o → o.silent outcome = false) (reason : Reason) :
    (x.endRebuild w outcome reason).reports = x.reports := by
  cases order : w.order with
  | none => rw [State.endRebuild_internal order]; rfl
  | some o =>
    rw [State.endRebuild_order order]
    exact (State.conclude_loud (h o order) ..).1

/-- What the completion of a REBUILD leaves, from a state that its last step has reached by a mark at most (R48). -/
theorem State.runs.completes {s y : State} {w v : RebuildWork} (h : s.runs (.rebuild w)) (order : v.order = w.order)
    (same : y = { s with port := y.port, reports := y.reports }) (k : s.port.Keeps y.port) (r : s.port.Reports y.port) :
    let t := s.finish (y.rebuildComplete v)
    t.census = { s.census with state := .valid, cause := .none } ∧ t.site = s.site ∧ t.plan = s.plan ∧
      t.spares = s.spares ∧ s.sameSpectrum t ∧ t.free = s.free ∧ s.rests t [] ∧
      (w.order = none → t.port = { y.port with header := t.port.header, line := t.port.line } ∧ t.reports = y.reports) ∧
      ∀ o, w.order = some o →
        let bytes := half v.added ++ half v.marked.length ++ word v.restarts ++ [0#8, 0#8] ++ half 0 ++ word v.epoch
          ++ word v.generation
        s.ends t o .done .none 0 [bytes] ∧ y.aloneWith t o .done [bytes] := by
  let x : State := { y with census := { y.census with state := .valid, cause := .none } }
  have census : y.census = s.census := by rw [same]
  have reached := s.concluded_endRebuild x v .done .none
  refine ⟨?_, ?_, ?_, ?_, ⟨?_, ?_⟩, ?_, State.rests_of (x := x) h.idle ?_ reached ?_ ?_, fun internal => ?_, fun o ho => ?_⟩
  · exact reached.census.trans (congrArg (fun c : Census => { c with state := .valid, cause := .none }) census)
  · exact reached.site.trans (by rw [show x.site = y.site from rfl, same])
  · exact reached.plan.trans (by rw [show x.plan = y.plan from rfl, same])
  · exact reached.spares.trans (by rw [show x.spares = y.spares from rfl, same])
  · exact reached.links.trans (by rw [show x.links = y.links from rfl, same])
  · exact reached.zones.trans (by rw [show x.zones = y.zones from rfl, same])
  · exact reached.free.trans (by rw [show x.free = y.free from rfl, same])
  · rw [show x.engine = y.engine from rfl, same]
  · rw [show x.now = y.now from rfl, same]
  · rw [show x.pending = y.pending from rfl, same]
  · unfold State.rebuildComplete
    rw [State.endRebuild_internal (order.trans internal)]
    exact ⟨rfl, rfl⟩
  · have result : x.rebuildResult v = half v.added ++ half v.marked.length ++ word v.restarts ++ [0#8, 0#8] ++ half 0
        ++ word v.epoch ++ word v.generation := rfl
    unfold State.rebuildComplete
    dsimp only
    rw [State.endRebuild_order (order.trans ho), ← result]
    refine ⟨h.ends (x := x) ho _ _ _ _ k r ?_ ?_ (x.rebuildResult_length v),
      State.aloneWith_congr (h.alone (x := x) ho _ _ _ _ k r (x.rebuildResult_length v)) rfl rfl⟩
    · rw [show x.now = y.now from rfl, same]
    · rw [show x.pending = y.pending from rfl, same]

end Sys2Proof.Machine

open Sys2Proof Sys2Proof.Machine

/-- Settles O23. -/
theorem rebuildStepSweepsAndEnds : Obligations.RebuildStepSweepsAndEnds := by
  refine ⟨fun s x => ⟨?_, fun exact mem other => State.built_check5 exact mem other _⟩, fun s w h => ⟨fun x phase hx => ?_, fun none => ?_⟩⟩
  · dsimp only
    rw [State.sweepPasses_eq, Bool.and_eq_true, Bool.and_eq_true, and_assoc]
    rfl
  · have step := State.rebuildStep_sweep phase hx
    cases marks : s.sweepMarks w x with
    | false =>
      have judged := State.rebuildJudge_passes marks
      dsimp only
      rw [show (!s.sweepPasses x && !w.marked.contains x.channel) = false from marks]
      refine ⟨fun more => ?_, fun last => ?_⟩
      · exact ⟨_, exec_rebuildStep h.1 (step.trans (State.rebuildSweep_more judged more)), ⟨rfl, rfl, rfl, rfl⟩,
          ⟨rfl, rfl⟩, rfl, State.reportsOnly_of (.refl _) (.refl _) rfl, State.yields_of rfl rfl rfl rfl s,
          fun _ => ⟨rfl, rfl⟩, nofun⟩
      · obtain ⟨census, site, plan, spares, spectrum, free, rests, internal, order⟩ :=
          h.completes (y := s) (v := w) rfl rfl (.refl _) (.refl _)
        exact ⟨_, exec_rebuildStep h.1 (step.trans (State.rebuildSweep_last judged last)), census, site, plan, spares,
          spectrum, free, rests,
          fun e => ⟨State.reportsOnly_of (.refl _) (.refl _) (internal e).1, fun _ => internal e, nofun⟩, order, nofun⟩
    | true =>
      have judged := State.rebuildJudge_marks marks
      have kept := s.mark_keeps (.channel x.channel) conflictFlag none
      have reported := s.mark_reports (.channel x.channel) conflictFlag none
      dsimp only
      rw [show (!s.sweepPasses x && !w.marked.contains x.channel) = true from marks]
      refine ⟨fun more => ?_, fun last => ?_⟩
      · obtain ⟨-, switch, -⟩ := kept
        exact ⟨_, exec_rebuildStep h.1 (step.trans (State.rebuildSweep_more judged more)), ⟨rfl, rfl, rfl, rfl⟩,
          ⟨rfl, rfl⟩, rfl, State.reportsOnly_of (s.mark_keeps ..) reported rfl,
          State.yields_of (s := s) (x := s.mark (.channel x.channel) conflictFlag) rfl switch rfl rfl s, nofun,
          fun _ => ⟨⟨rfl, rfl⟩, fun held => State.flagged_mark held ..⟩⟩
      · obtain ⟨census, site, plan, spares, spectrum, free, rests, internal, order⟩ :=
          h.completes (y := s.mark (.channel x.channel) conflictFlag) (v := w.conflicted x.channel) rfl rfl kept reported
        refine ⟨_, exec_rebuildStep h.1 (step.trans (State.rebuildSweep_last judged last)), census, site, plan, spares,
          spectrum, free, rests, fun e => ⟨State.reportsOnly_of kept reported (internal e).1, nofun,
            fun _ => ⟨(internal e).2, (internal e).1⟩⟩, order, fun _ held loud => ?_⟩
        have reports := State.endRebuild_loud (x := { s.mark (.channel x.channel) conflictFlag with
            census := { s.census with state := .valid, cause := .none } }) (w := w.conflicted x.channel)
          (outcome := .done) (fun o e => Handed.silent_loud (loud o e) .done) .none
        have flagged := State.flagged_mark held (.channel x.channel) conflictFlag none
        rw [State.flagged_iff] at flagged ⊢
        exact (congrArg (fun r : Reports => flaggedIn r.pending _ _) reports).mpr flagged
  · obtain ⟨census, site, plan, spares, spectrum, free, rests, internal, order⟩ :=
      h.completes (y := s) (v := w) rfl rfl (.refl _) (.refl _)
    exact ⟨_, exec_rebuildStep h.1 (State.rebuildStep_none none), census, site, plan, spares, spectrum, free, rests,
      internal, order⟩

end


section
/-! CHECK LIST, entry by entry (R65, R66). -/

namespace Sys2Proof.Machine

theorem pieces_length {α : Type} (n fuel : Nat) (l : List α) : ∀ p ∈ pieces n fuel l, p.length ≤ n := by
  induction fuel generalizing l with
  | zero => exact fun p m => absurd m List.not_mem_nil
  | succ fuel ih =>
    intro p m
    unfold pieces at m
    split at m
    · exact absurd m List.not_mem_nil
    · rcases List.mem_cons.1 m with rfl | m
      · exact List.length_take_le ..
      · exact ih _ p m

/-! ### The entries that an order carries -/

theorem Handed.cells_eq (o : Handed) : o.cells = o.head :: o.rest := rfl

/-- The records of a chain stand in order, the same number in each cell. -/
theorem getElem?_flatMap_range {α β : Type} (f : α → Nat → β) (k : Nat) (l : List α) (i : Nat) (c : α)
    (h : l[i / k]? = some c) (pos : 0 < k) :
    (l.flatMap fun c => (List.range k).map (f c))[i]? = some (f c (i % k)) := by
  induction l generalizing i with
  | nil => simp at h
  | cons a l ih =>
    rw [List.flatMap_cons]
    by_cases small : i < k
    · rw [Nat.div_eq_of_lt small] at h
      cases h
      rw [List.getElem?_append_left (by simpa using small), Nat.mod_eq_of_lt small]
      simp [small]
    · have more : i / k = (i - k) / k + 1 := by
        rw [Nat.div_eq_sub_div pos (Nat.not_lt.1 small)]
      rw [more] at h
      rw [List.getElem?_append_right (by simpa using Nat.not_lt.1 small)]
      simp only [List.length_map, List.length_range]
      rw [ih (i - k) h, Nat.mod_eq_sub_mod (Nat.not_lt.1 small)]

theorem Handed.records_eq (o : Handed) (size k : Nat) :
    o.records 0 size k k = o.cells.flatMap fun c => (List.range k).map fun i => (c, size * i) := by
  unfold Handed.records
  rw [o.cells_eq, List.flatMap_cons]
  simp only [Nat.zero_add]

theorem Handed.length_records (o : Handed) (size k : Nat) : (o.records 0 size k k).length = k * o.length := by
  unfold Handed.records Handed.length
  rw [List.length_append, List.length_flatMap]
  simp [Nat.mul_add, Nat.mul_comm, Nat.add_comm]

theorem State.checkEntries_length (s : State) (o : Handed) {n : Nat} (h : n ≤ 60 * o.length) :
    (s.checkEntries o n).length = n := by
  unfold State.checkEntries
  rw [List.length_map, List.length_take, o.length_records]
  exact Nat.min_eq_left h

theorem State.getElem?_checkEntries (s : State) (o : Handed) {n i c : Nat} (h : i < n) (hc : o.cells[i / 60]? = some c) :
    (s.checkEntries o n)[i]? =
      some (s.port.field c (4 * (i % 60)) 2, s.port.field c (4 * (i % 60) + 2) 2) := by
  unfold State.checkEntries
  rw [List.getElem?_map, List.getElem?_take_of_lt h, o.records_eq,
    getElem?_flatMap_range (fun c i => (c, 4 * i)) 60 o.cells i c hc (by decide)]
  rfl

theorem State.begin_field (s : State) (u : Bool) (o : Handed) (c i n : Nat) :
    (s.begin u o).port.field c i n = s.port.field c i n := by
  unfold Port.field
  rw [State.begin_memory]

theorem checkListOrder_starts {o : Handed} {x : State} (h1 : 1 ≤ x.port.headField o.head 12 2)
    (h2 : x.port.headField o.head 12 2 ≤ 480) (h3 : x.port.headField o.head 12 2 ≤ 60 * o.length) :
    checkListOrder o x = x.runWith (.check
      { order := o, strict := (x.port.headField o.head 14 1).testBit 0
        todo := x.checkEntries o (x.port.headField o.head 12 2), judged := [], evaluations := 0 }) := by
  unfold checkListOrder
  exact if_neg (by omega)

/-! ### A step -/

theorem exec_checkListEntry {s x : State} {w : CheckWork} (h : s.running = some (.check w)) (p : s.checkStep w = x) :
    exec .checkListEntry s = .next (s.finish x).arbitrate := by
  subst p
  show execCheckListEntry s = _
  unfold execCheckListEntry
  rw [h]

theorem State.checkStep_cons {s : State} {w : CheckWork} {e : Nat × Nat} {l : List (Nat × Nat)} (h : w.todo = e :: l) :
    s.checkStep w = if l = [] then s.endCheck (w.judgedOne e (s.judge w.strict e))
      else s.yieldWith (.check (w.judgedOne e (s.judge w.strict e))) := by
  have todo : ∀ v, (w.judgedOne e v).todo = l := fun v => by
    unfold CheckWork.judgedOne
    rw [h]
    rfl
  unfold State.checkStep
  rw [h]
  dsimp only
  rw [todo]

theorem CheckWork.judgedOne_eq {w : CheckWork} {e : Nat × Nat} {l : List (Nat × Nat)} (h : w.todo = e :: l) (v : Nat)
    (b : Bool) : w.judgedOne e (v, b) = { w with
      todo := l, judged := w.judged ++ [(e.2, v)], evaluations := w.evaluations + (if b then 1 else 0) } := by
  unfold CheckWork.judgedOne
  rw [h]
  rfl

/-- What is judged of an entry (R66). -/
theorem State.judge_bad {s : State} {strict : Bool} {e : Nat × Nat} (h : 255 < e.1 ∨ validStep e.2 = false) :
    s.judge strict e = (0x9000, false) := by
  unfold State.judge
  rcases h with h | h
  · rw [index_eq_none h]
  · cases index 256 e.1 with
    | none => rfl
    | some c =>
      refine if_pos ?_
      rw [h]
      rfl

theorem State.judge_valid {s : State} {strict : Bool} {e : Nat × Nat} {c : Fin 256} (hc : index 256 e.1 = some c)
    (step : validStep e.2 = true) :
    (s.channel c = none → s.judge strict e = (0x8000, false)) ∧
      ∀ r, s.channel c = some r → s.judge strict e = ((s.evaluateAlone c r e.2 strict).word, true) := by
  have judged : s.judge strict e = match s.channel c with
      | none => (8 * 4096, false)
      | some r => ((s.evaluateAlone c r e.2 strict).word, true) := by
    unfold State.judge
    rw [hc]
    exact if_neg (by rw [step]; decide)
  rw [judged]
  refine ⟨fun vacant => ?_, fun r hr => ?_⟩
  · rw [vacant]
  · rw [hr]

end Sys2Proof.Machine

open Sys2Proof Sys2Proof.Machine

/-- Settles O30. -/
theorem checkListJudgesEntries : Obligations.CheckListJudgesEntries := by
  refine ⟨fun s o h h1 h2 h3 => ?_, fun s w e l h todo => ?_⟩
  · have head := s.begin_headField false o o.head
    have starts := checkListOrder_starts (o := o) (x := s.begin false o) (by rwa [head]) (by rwa [head]) (by rwa [head])
    rw [head, head] at starts
    refine ⟨_, _, h.run starts, ⟨⟨rfl, rfl⟩, rfl⟩, ⟨⟨rfl, rfl, rfl, rfl⟩, ⟨rfl, rfl⟩, ⟨rfl, rfl⟩⟩, rfl, rfl, rfl, rfl, rfl,
      rfl, rfl, State.checkEntries_length _ o h3, fun i c hi hc => ?_⟩
    rw [State.getElem?_checkEntries _ o hi hc, State.begin_field, State.begin_field]
  · have judged := State.checkStep_cons (s := s) todo
    rw [CheckWork.judgedOne_eq todo] at judged
    have verdicts : (255 < e.1 ∨ validStep e.2 = false →
        (s.judge w.strict e).1 = 0x9000 ∧ (if (s.judge w.strict e).2 then 1 else 0) = 0) ∧
      ∀ c, index 256 e.1 = some c → validStep e.2 = true →
        (s.channel c = none → (s.judge w.strict e).1 = 0x8000 ∧ (if (s.judge w.strict e).2 then 1 else 0) = 0) ∧
        ∀ r, s.channel c = some r → (if (s.judge w.strict e).2 then 1 else 0) = 1 ∧
          (∀ n, s.evaluateAlone c r e.2 w.strict = .pass n → (s.judge w.strict e).1 = n) ∧
          (∀ n, s.evaluateAlone c r e.2 w.strict = .fail n → (s.judge w.strict e).1 = n * 4096) := by
      refine ⟨fun bad => ?_, fun c hc valid => ⟨fun vacant => ?_, fun r hr => ?_⟩⟩
      · rw [State.judge_bad bad]
        exact ⟨rfl, rfl⟩
      · rw [(State.judge_valid hc valid).1 vacant]
        exact ⟨rfl, rfl⟩
      · rw [(State.judge_valid hc valid).2 r hr]
        exact ⟨rfl, fun n pass => congrArg Verdict.word pass, fun n fail => congrArg Verdict.word fail⟩
    by_cases last : l = []
    · subst last
      rw [if_pos rfl] at judged
      have short := pieces_length 240 8 ((w.judged ++ [(e.2, (s.judge w.strict e).1)]).flatMap fun x => half x.1 ++ half x.2)
      have result : CheckWork.result { w with
          todo := [], judged := w.judged ++ [(e.2, (s.judge w.strict e).1)]
          evaluations := w.evaluations + (if (s.judge w.strict e).2 then 1 else 0) } =
          (w.judged ++ [(e.2, (s.judge w.strict e).1)]).flatMap fun x => half x.1 ++ half x.2 := List.append_nil _
      unfold State.endCheck at judged
      rw [result] at judged
      have reached := s.concluded s w.order .done .none
        (BitVec.ofNat 32 (w.evaluations + (if (s.judge w.strict e).2 then 1 else 0)))
        (pieces 240 8 ((w.judged ++ [(e.2, (s.judge w.strict e).1)]).flatMap fun x => half x.1 ++ half x.2))
      exact ⟨_, _, _, exec_checkListEntry h.1 judged, ⟨⟨reached.site, reached.plan, reached.census, reached.spares⟩,
        ⟨reached.links, reached.zones⟩, ⟨reached.now, reached.pending⟩⟩, reached.free, verdicts.1, verdicts.2,
        fun ne => absurd rfl ne, fun _ => ⟨State.rests_of h.idle rfl reached rfl rfl,
          h.ends rfl _ _ _ _ (.refl _) (.refl _) rfl rfl short, h.alone rfl _ _ _ _ (.refl _) (.refl _) short⟩⟩
    · rw [if_neg last] at judged
      exact ⟨_, _, _, exec_checkListEntry h.1 judged, ⟨⟨rfl, rfl, rfl, rfl⟩, ⟨rfl, rfl⟩, ⟨rfl, rfl⟩⟩, rfl, verdicts.1,
        verdicts.2, fun _ => ⟨rfl, rfl, State.yields_of rfl rfl rfl rfl s⟩, fun e => absurd e last⟩

end


section
/-! Screening, channel order and walks of PLACE (R68 to R70). -/

namespace Sys2Proof.Machine

/-! ### Screening (R68) -/

theorem State.screen_length (s : State) (named : List Nat) (sent : List (Nat × Nat)) :
    (s.screen named sent).length = sent.length := by
  induction sent generalizing named with
  | nil => rfl
  | cons e t ih => exact congrArg (· + 1) (ih _)

/-- An entry is screened with the channels named before it. -/
theorem State.getElem?_screen (s : State) (named : List Nat) (sent : List (Nat × Nat)) (i : Nat) (e : Nat × Nat)
    (h : sent[i]? = some e) : ∃ before, (s.screen named sent)[i]? = some (s.screenOne before e) ∧
      ∀ n, n ∈ before ↔ n ∈ named ∨ ∃ j x, j < i ∧ sent[j]? = some x ∧ x.1 = n := by
  induction sent generalizing named i with
  | nil => simp at h
  | cons y t ih =>
    cases i with
    | zero =>
      cases h
      refine ⟨named, rfl, fun n => ⟨.inl, fun m => m.elim id ?_⟩⟩
      rintro ⟨j, x, lt, -⟩
      exact absurd lt (Nat.not_lt_zero j)
    | succ i =>
      obtain ⟨before, screened, mem⟩ := ih (y.1 :: named) i h
      refine ⟨before, screened, fun n => (mem n).trans ?_⟩
      rw [List.mem_cons]
      constructor
      · rintro ((rfl | m) | ⟨j, x, lt, hx, e⟩)
        · exact .inr ⟨0, y, Nat.succ_pos i, rfl, rfl⟩
        · exact .inl m
        · exact .inr ⟨j + 1, x, Nat.succ_lt_succ lt, hx, e⟩
      · rintro (m | ⟨j, x, lt, hx, e⟩)
        · exact .inl (.inr m)
        · cases j with
          | zero =>
            cases hx
            exact .inl (.inl e.symm)
          | succ j => exact .inr ⟨j, x, Nat.lt_of_succ_lt_succ lt, hx, e⟩

/-- A channel number or a preferred frequency outside its values (R67). -/
def badPlaceEntry (e : Nat × Nat) : Prop := 255 < e.1 ∨ (validStep e.2 = false ∧ e.2 ≠ 0xFFFF)

theorem State.screenOne_bad {s : State} {named : List Nat} {e : Nat × Nat} (h : badPlaceEntry e) :
    s.screenOne named e = .skipped e.1 .badArgument := by
  unfold State.screenOne
  rcases h with big | ⟨step, none⟩
  · rw [index_eq_none big]
  · cases index 256 e.1 with
    | none => rfl
    | some c => exact if_pos (by simp [step, none])

theorem State.screenOne_good {s : State} {named : List Nat} {e : Nat × Nat} {c : Fin 256} (h : ¬ badPlaceEntry e)
    (hc : e.1 = c.val) : s.screenOne named e =
      if e.1 ∈ named then .skipped e.1 .duplicate
      else if s.hold c = some .defined then .working c else .skipped e.1 .state := by
  have step : ¬ ((!(validStep e.2 || e.2 = 0xFFFF)) = true) := by
    intro bad
    apply h
    cases v : validStep e.2 <;> simp_all [badPlaceEntry]
  unfold State.screenOne
  rw [hc, index_eq_some c]
  dsimp only
  rw [if_neg step]
  simp only [List.contains_eq_mem, decide_eq_true_eq]

theorem good_channel {e : Nat × Nat} (h : ¬ badPlaceEntry e) : ∃ c : Fin 256, e.1 = c.val :=
  ⟨⟨e.1, Nat.lt_succ_of_le (Nat.not_lt.1 fun big => h (.inl big))⟩, rfl⟩

/-- What joins the working set: the first entry that names a DEFINED channel. -/
theorem State.screenOne_working {s : State} {named : List Nat} {e : Nat × Nat} {c : Fin 256} :
    s.screenOne named e = .working c ↔
      ¬ badPlaceEntry e ∧ e.1 = c.val ∧ e.1 ∉ named ∧ s.hold c = some .defined := by
  constructor
  · intro h
    by_cases bad : badPlaceEntry e
    · rw [State.screenOne_bad bad] at h
      cases h
    · obtain ⟨d, hd⟩ := good_channel bad
      rw [State.screenOne_good bad hd] at h
      split at h
      · cases h
      · rename_i new
        split at h
        · rename_i defined
          cases h
          exact ⟨bad, hd, new, defined⟩
        · cases h
  · rintro ⟨good, hc, new, defined⟩
    rw [State.screenOne_good good hc, if_neg new, if_pos defined]

/-! ### Channel order (R69) -/

/-- The order of R69: descending priority, fewest grid points, lowest number. -/
def RankedItem.before (a b : RankedItem) : Prop :=
  b.1 < a.1 ∨ (a.1 = b.1 ∧
    (a.2.walk.length < b.2.walk.length ∨ (a.2.walk.length = b.2.walk.length ∧ a.2.channel < b.2.channel)))

theorem rankedBefore_iff (a b : RankedItem) : rankedBefore a b = true ↔ RankedItem.before a b := by
  unfold rankedBefore RankedItem.before
  split
  · rw [decide_eq_true_eq]
    omega
  · split
    · rw [decide_eq_true_eq]
      omega
    · rw [decide_eq_true_eq]
      omega

theorem RankedItem.before_trans {a b c : RankedItem} (h : RankedItem.before a b) (k : RankedItem.before b c) :
    RankedItem.before a c := by
  unfold RankedItem.before at *
  omega

theorem RankedItem.before_of_not {a b : RankedItem} (h : ¬ RankedItem.before a b) (ne : a.2.channel ≠ b.2.channel) :
    RankedItem.before b a := by
  unfold RankedItem.before at *
  omega

theorem insertRanked_perm (a : RankedItem) (l : List RankedItem) : (insertRanked a l).Perm (a :: l) := by
  induction l with
  | nil => exact .refl _
  | cons x t ih =>
    unfold insertRanked
    split
    · exact .refl _
    · exact (ih.cons x).trans (.swap a x t)

theorem insertRanked_sorted (a : RankedItem) (l : List RankedItem) (h : l.Pairwise RankedItem.before)
    (new : ∀ x ∈ l, a.2.channel ≠ x.2.channel) : (insertRanked a l).Pairwise RankedItem.before := by
  induction l with
  | nil => exact List.pairwise_singleton _ _
  | cons x t ih =>
    obtain ⟨first, rest⟩ := List.pairwise_cons.1 h
    unfold insertRanked
    split
    · rename_i before
      have ax := (rankedBefore_iff a x).1 before
      refine List.pairwise_cons.2 ⟨fun y m => ?_, h⟩
      rcases List.mem_cons.1 m with rfl | m
      · exact ax
      · exact RankedItem.before_trans ax (first y m)
    · rename_i after
      have xa := RankedItem.before_of_not (fun k => after ((rankedBefore_iff a x).2 k)) (new x (.head _))
      refine List.pairwise_cons.2 ⟨fun y m => ?_, ih rest fun y m => new y (.tail _ m)⟩
      rcases List.mem_cons.1 ((insertRanked_perm a t).mem_iff.1 m) with rfl | m
      · exact xa
      · exact first y m

theorem foldl_insertRanked (l a : List RankedItem) :
    (l.foldl (fun l x => insertRanked x l) a).Perm (l ++ a) ∧
      (a.Pairwise RankedItem.before → ((l ++ a).map fun x => x.2.channel).Nodup →
        (l.foldl (fun l x => insertRanked x l) a).Pairwise RankedItem.before) := by
  induction l generalizing a with
  | nil => exact ⟨.refl _, fun h _ => h⟩
  | cons x l ih =>
    obtain ⟨perm, sorted⟩ := ih (insertRanked x a)
    have joined := insertRanked_perm x a
    refine ⟨perm.trans ((joined.append_left l).trans List.perm_middle), fun h nodup => sorted ?_ ?_⟩
    · refine insertRanked_sorted x a h fun y m e => ?_
      obtain ⟨new, -⟩ := List.nodup_cons.1 nodup
      exact new (List.mem_map.2 ⟨y, List.mem_append_right _ m, e.symm⟩)
    · exact ((((joined.append_left l).trans List.perm_middle).map fun x : RankedItem => x.2.channel).nodup_iff).2 nodup

/-- The working set as ranked items, in the order in which their entries were sent. -/
def State.rankedItems (s : State) (entries : List PlaceEntry) (sent : List (Nat × Nat)) : List RankedItem :=
  (entries.zip sent).filterMap fun e =>
    match e.1 with
    | .skipped _ _ => none
    | .working c => (s.channel c).map fun r =>
        (r.fields.priority, { channel := c, walk := walkOf (r.fields.grid s.site.window) e.2.2 })

theorem State.rank_eq (s : State) (entries : List PlaceEntry) (sent : List (Nat × Nat)) :
    s.rank entries sent = ((s.rankedItems entries sent).foldl (fun l x => insertRanked x l) []).map Prod.snd := by
  unfold State.rank State.rankedItems
  congr 1
  generalize entries.zip sent = l
  generalize ([] : List RankedItem) = a
  induction l generalizing a with
  | nil => rfl
  | cons e l ih =>
    obtain ⟨entry, e⟩ := e
    cases entry with
    | skipped c r => exact ih a
    | working c =>
      cases hr : s.channel c with
      | none =>
        rw [List.filterMap_cons_none (by simp [hr]), List.foldl_cons]
        simp only [hr]
        exact ih a
      | some r =>
        rw [List.filterMap_cons_some (by simp [hr]; rfl), List.foldl_cons, List.foldl_cons]
        simp only [hr]
        exact ih _

/-- What a ranked item says of the channel and of the entry that named it first. -/
def State.itemOf (s : State) (sent : List (Nat × Nat)) (a : RankedItem) : Prop :=
  ∃ r l preferred l', s.channel a.2.channel = some r ∧ a.1 = r.fields.priority ∧
    sent = l ++ (a.2.channel.val, preferred) :: l' ∧ (∀ e ∈ l, e.1 ≠ a.2.channel.val) ∧
    a.2.walk = walkOf (gridOf r.fields.multiple (r.fields.effective s.site.window)) preferred

theorem State.rankedItems_screen (s : State) (named : List Nat) (sent : List (Nat × Nat)) :
    let items := s.rankedItems (s.screen named sent) sent
    (items.map fun a => a.2.channel).Nodup ∧ (∀ a ∈ items, a.2.channel.val ∉ named) ∧
      (∀ c, (∃ a ∈ items, a.2.channel = c) ↔ PlaceEntry.working c ∈ s.screen named sent) ∧
      ∀ a ∈ items, s.itemOf sent a := by
  induction sent generalizing named with
  | nil => exact ⟨List.nodup_nil, nofun, fun c => ⟨fun ⟨_, m, _⟩ => absurd m List.not_mem_nil,
      fun m => absurd m List.not_mem_nil⟩, nofun⟩
  | cons e t ih =>
    obtain ⟨nodup, fresh, mem, made⟩ := ih (e.1 :: named)
    have further : ∀ a, a.2.channel.val ∉ e.1 :: named → s.itemOf t a → s.itemOf (e :: t) a := by
      rintro a new ⟨r, l, preferred, l', hr, priority, rfl, first, walk⟩
      refine ⟨r, e :: l, preferred, l', hr, priority, rfl, fun y m => ?_, walk⟩
      rcases List.mem_cons.1 m with rfl | m
      · exact fun h => new (h ▸ .head _)
      · exact first y m
    cases screened : s.screenOne named e with
    | skipped c r =>
      have items : s.rankedItems (s.screen named (e :: t)) (e :: t) =
          s.rankedItems (s.screen (e.1 :: named) t) t := by
        show s.rankedItems (s.screenOne named e :: _) _ = _
        rw [screened]
        rfl
      have entries : s.screen named (e :: t) = .skipped c r :: s.screen (e.1 :: named) t := by
        rw [← screened]
        rfl
      dsimp only
      rw [items, entries]
      refine ⟨nodup, fun a m h => fresh a m (.tail _ h), fun c => (mem c).trans ?_, fun a m => further a (fresh a m) (made a m)⟩
      rw [List.mem_cons]
      exact ⟨.inr, fun h => h.resolve_left nofun⟩
    | working c =>
      obtain ⟨-, hc, new, defined⟩ := State.screenOne_working.1 screened
      obtain ⟨r, hr, -⟩ := State.hold_some defined
      let a : RankedItem := (r.fields.priority, { channel := c, walk := walkOf (r.fields.grid s.site.window) e.2 })
      have entries : s.screen named (e :: t) = .working c :: s.screen (e.1 :: named) t := by
        rw [← screened]
        rfl
      have items : s.rankedItems (s.screen named (e :: t)) (e :: t) =
          a :: s.rankedItems (s.screen (e.1 :: named) t) t := by
        rw [entries]
        exact List.filterMap_cons_some (by simp [hr]; rfl)
      dsimp only
      rw [items, entries]
      refine ⟨List.nodup_cons.2 ⟨fun m => ?_, nodup⟩, fun x m => ?_, fun d => ?_, fun x m => ?_⟩
      · obtain ⟨x, m, same⟩ := List.mem_map.1 m
        exact fresh x m (by rw [same, ← hc]; exact .head _)
      · rcases List.mem_cons.1 m with rfl | m
        · exact fun h => new (hc ▸ h)
        · exact fun h => fresh x m (.tail _ h)
      · simp only [List.mem_cons, PlaceEntry.working.injEq, ← mem d]
        constructor
        · rintro ⟨x, rfl | m, same⟩
          · exact .inl same.symm
          · exact .inr ⟨x, m, same⟩
        · rintro (rfl | ⟨x, m, same⟩)
          · exact ⟨a, .inl rfl, rfl⟩
          · exact ⟨x, .inr m, same⟩
      · rcases List.mem_cons.1 m with rfl | m
        · exact ⟨r, [], e.2, t, hr, rfl, by rw [← hc]; rfl, nofun, rfl⟩
        · exact further x (fresh x m) (made x m)

/-! ### Grid points and walks (R69, R70) -/

theorem ChannelFields.effective_iff (w : Window) (f : ChannelFields) (l h : Nat) :
    f.effective w = some (l, h) ↔ l = max f.low w.w0 ∧ h = min f.high w.top ∧ l ≤ h := by
  unfold ChannelFields.effective Window.clip
  dsimp only
  split
  · rw [Option.some.injEq, Prod.mk.injEq]
    omega
  · constructor
    · exact nofun
    · omega

theorem Grid.mem_points {g : Grid} {n : Nat} : n ∈ g.points ↔ ∃ i, i < g.count ∧ g.at i = n := by
  unfold Grid.points
  rw [List.mem_map]
  simp only [List.mem_range]

theorem gridOf_points (k l h n : Nat) (pos : 1 ≤ k) :
    n ∈ (gridOf k (some (l, h))).points ↔ l ≤ n ∧ n ≤ h ∧ n % k = 0 := by
  have first : l ≤ (l + k - 1) / k * k ∧ (l + k - 1) / k * k < l + k := by
    have := Nat.div_add_mod' (l + k - 1) k
    have := Nat.mod_lt (l + k - 1) pos
    omega
  rw [Grid.mem_points]
  unfold gridOf Grid.at
  dsimp only
  generalize hq : (l + k - 1) / k = q at first
  constructor
  · rintro ⟨i, small, rfl⟩
    split at small
    · have bound : i * k ≤ h - q * k := by
        have := Nat.div_mul_le_self (h - q * k) k
        have := Nat.mul_le_mul_right k (Nat.le_of_lt_succ small)
        omega
      refine ⟨by omega, by omega, ?_⟩
      rw [← Nat.add_mul]
      exact Nat.mul_mod_left _ _
    · exact absurd small (Nat.not_lt_zero i)
  · rintro ⟨low, high, multiple⟩
    obtain ⟨m, rfl⟩ := Nat.dvd_of_mod_eq_zero multiple
    have above : q ≤ m := by
      by_contra below
      have := Nat.mul_le_mul_left k (Nat.not_le.1 below)
      rw [Nat.mul_succ, Nat.mul_comm k q] at this
      omega
    have reach : q * k ≤ h := by
      have := Nat.mul_le_mul_left k above
      rw [Nat.mul_comm k q] at this
      omega
    refine ⟨m - q, ?_, ?_⟩
    · rw [if_pos reach]
      refine Nat.lt_succ_of_le ((Nat.le_div_iff_mul_le pos).2 ?_)
      rw [Nat.sub_mul, Nat.mul_comm m k]
      omega
    · rw [Nat.sub_mul, Nat.mul_comm m k]
      have := Nat.mul_le_mul_left k above
      rw [Nat.mul_comm k q] at this
      omega

theorem Grid.at_lt {g : Grid} (pos : 1 ≤ g.multiple) {i j : Nat} : g.at i < g.at j ↔ i < j := by
  unfold Grid.at
  rw [Nat.add_lt_add_iff_left]
  exact Nat.mul_lt_mul_right pos

theorem Grid.at_inj {g : Grid} (pos : 1 ≤ g.multiple) {i j : Nat} (h : g.at i = g.at j) : i = j := by
  rcases Nat.lt_trichotomy i j with lt | e | lt
  · exact absurd ((Grid.at_lt pos).2 lt) (by omega)
  · exact e
  · exact absurd ((Grid.at_lt pos).2 lt) (by omega)

theorem Grid.points_sorted {g : Grid} (pos : 1 ≤ g.multiple) : g.points.Pairwise (· < ·) :=
  List.pairwise_map.2 (List.pairwise_lt_range.imp (Grid.at_lt pos).2)

theorem Grid.has_iff {g : Grid} (pos : 1 ≤ g.multiple) (n : Nat) : g.has n = true ↔ n ∈ g.points := by
  rw [Grid.mem_points]
  unfold Grid.has Grid.at
  rw [decide_eq_true_eq]
  constructor
  · rintro ⟨first, multiple, small⟩
    refine ⟨_, small, ?_⟩
    rw [Nat.div_mul_cancel (Nat.dvd_of_mod_eq_zero multiple)]
    omega
  · rintro ⟨i, small, rfl⟩
    rw [Nat.add_sub_cancel_left, Nat.mul_div_cancel i pos]
    exact ⟨Nat.le_add_right .., Nat.mul_mod_left .., small⟩

/-- The positions of a list but one. -/
theorem range_filter_ne (n i : Nat) (h : i ≤ n) :
    (List.range (n + 1)).filter (fun j => j ≠ i) = (List.range n).map fun j => if j < i then j else j + 1 := by
  induction n with
  | zero =>
    obtain rfl : i = 0 := Nat.le_zero.1 h
    rfl
  | succ n ih =>
    rw [List.range_succ, List.filter_append]
    by_cases last : i = n + 1
    · subst last
      have low : ∀ j ∈ List.range (n + 1), j < n + 1 := fun j m => List.mem_range.1 m
      rw [List.filter_eq_self.2 fun j m => decide_eq_true (Nat.ne_of_lt (low j m)),
        List.filter_cons_of_neg (by simp)]
      refine (List.append_nil _).trans ((List.map_id _).symm.trans (List.map_congr_left fun j m => ?_))
      exact (if_pos (low j m)).symm
    · rw [ih (by omega), List.filter_cons_of_pos (by simpa using Ne.symm last), List.range_succ (n := n), List.map_append,
        List.map_singleton, if_neg (by omega)]
      rfl

theorem Walk.at_first {g : Grid} {p : Nat} : Walk.at { preferred := some p, grid := g } 0 = p := rfl

theorem Walk.at_later {g : Grid} {p i : Nat} :
    Walk.at { preferred := some p, grid := g } (i + 1) = if g.at i < p then g.at i else g.at (i + 1) := rfl

/-- The preferred frequency stands first if it is a grid point (R70). -/
theorem walkOf_points (g : Grid) (p : Nat) (pos : 1 ≤ g.multiple) :
    (List.range (walkOf g p).length).map (walkOf g p).at =
      if p ∈ g.points then p :: g.points.filter (fun n => n ≠ p) else g.points := by
  by_cases mem : p ∈ g.points
  · have preferred : walkOf g p = { preferred := some p, grid := g } := by
      unfold walkOf
      rw [if_pos ((Grid.has_iff pos p).2 mem)]
    obtain ⟨i, small, rfl⟩ := Grid.mem_points.1 mem
    obtain ⟨n, hn⟩ : ∃ n, g.count = n + 1 := ⟨g.count - 1, by omega⟩
    have others : g.points.filter (fun n => n ≠ g.at i) =
        (List.range n).map fun j => if g.at j < g.at i then g.at j else g.at (j + 1) := by
      unfold Grid.points
      rw [hn, List.filter_map, List.filter_congr (q := fun j => decide (j ≠ i)) fun j _ => ?_,
        range_filter_ne n i (by omega), List.map_map]
      · refine List.map_congr_left fun j _ => ?_
        simp only [Function.comp_apply, Grid.at_lt pos]
        split <;> rfl
      · have same : g.at j = g.at i ↔ j = i := ⟨Grid.at_inj pos, fun e => e ▸ rfl⟩
        simp only [Function.comp_apply, ne_eq, same]
    rw [if_pos mem, preferred, others]
    unfold Walk.length
    dsimp only
    rw [hn, List.range_succ_eq_map, List.map_cons, List.map_map]
    rfl
  · have plain : walkOf g p = { preferred := none, grid := g } := by
      unfold walkOf
      rw [if_neg fun has => mem ((Grid.has_iff pos p).1 has)]
    rw [if_neg mem, plain]
    rfl

theorem gridOf_multiple (k : Nat) (range : Option (Nat × Nat)) : (gridOf k range).multiple = k := by
  unfold gridOf
  split <;> rfl

end Sys2Proof.Machine

open Sys2Proof Sys2Proof.Machine

/-- Settles O31. -/
theorem placeRanksAndWalks : Obligations.PlaceRanksAndWalks := by
  refine ⟨fun s sent => ⟨s.screen_length [] sent, fun i e he => ?_⟩, fun s sent => ?_,
    fun w f l h => ChannelFields.effective_iff w f l h, fun k l h n pos =>
      ⟨gridOf_points k l h n pos, Grid.points_sorted (by rw [gridOf_multiple]; exact pos), rfl⟩,
    fun k p range pos => walkOf_points _ p (by rw [gridOf_multiple]; exact pos)⟩
  · obtain ⟨before, screened, mem⟩ := s.getElem?_screen [] sent i e he
    have named : e.1 ∈ before ↔ ∃ j x, j < i ∧ sent[j]? = some x ∧ x.1 = e.1 :=
      (mem e.1).trans ⟨fun h => h.resolve_left List.not_mem_nil, .inr⟩
    refine ⟨fun bad => by rw [screened, State.screenOne_bad bad], fun good again => ?_, fun c good new hc => ?_⟩
    · obtain ⟨c, hc⟩ := good_channel good
      rw [screened, State.screenOne_good good hc, if_pos (named.2 again)]
    · rw [screened, State.screenOne_good good hc, if_neg fun m => new (named.1 m)]
  · obtain ⟨nodup, -, mem, made⟩ := s.rankedItems_screen [] sent
    obtain ⟨perm, sorted⟩ := foldl_insertRanked (s.rankedItems (s.screen [] sent) sent) []
    rw [List.append_nil] at perm sorted
    have order := sorted .nil nodup
    dsimp only
    rw [State.rank_eq]
    refine ⟨fun c => Iff.trans ?_ (mem c), ?_, ?_, fun i m => ?_⟩
    · simp only [List.mem_map, perm.mem_iff]
      exact ⟨fun ⟨_, ⟨a, m, e⟩, h⟩ => ⟨a, m, e ▸ h⟩, fun ⟨a, m, h⟩ => ⟨_, ⟨a, m, rfl⟩, h⟩⟩
    · rw [List.map_map]
      exact ((perm.map fun a : RankedItem => a.2.channel).nodup_iff).2 nodup
    · refine List.pairwise_map.2 (order.imp_of_mem fun {a b} ma mb h => ?_)
      obtain ⟨r, -, -, -, hr, pa, -⟩ := made a (perm.mem_iff.1 ma)
      obtain ⟨r', -, -, -, hr', pb, -⟩ := made b (perm.mem_iff.1 mb)
      rw [hr, hr']
      show r'.fields.priority < r.fields.priority ∨ (r.fields.priority = r'.fields.priority ∧ _)
      rw [← pa, ← pb]
      exact h
    · obtain ⟨a, ma, rfl⟩ := List.mem_map.1 m
      obtain ⟨r, l, preferred, l', hr, -, hs, first, walk⟩ := made a (perm.mem_iff.1 ma)
      exact ⟨r, l, preferred, l', hr, hs, first, walk⟩

end


section
/-! The take-up of PLACE (R67 to R71), and orders that read the blocks. -/

namespace Sys2Proof.Machine

/-! ### Orders that change no block -/

/-- An order that is taken up and ended in one event, draws free values and changes no block. -/
theorem State.takes.reads {s : State} {code : OrderCode} {u : Bool} {o : Handed} {outcome : OrderOutcome}
    {reason : Reason} {argument : Word} {payloads : List (List Byte)} {n : Nat} (h : s.takes code u o)
    (p : code.procedure o (s.begin u o) = ((s.begin u o).draw n).conclude o outcome reason argument payloads)
    (hp : ∀ l ∈ payloads, l.length ≤ 240) :
    ∃ t, exec code.command s = .next t.arbitrate ∧ s.reads t u o outcome reason argument payloads n := by
  obtain ⟨t, run, reached, ends, alone⟩ := h.concluded p rfl rfl rfl rfl hp
  exact ⟨t, run, ends, alone, ⟨⟨reached.site, reached.plan, reached.census, reached.spares⟩,
    ⟨reached.links, reached.zones⟩, ⟨reached.now, reached.pending⟩⟩, reached.engine, reached.free⟩

/-! ### The take-up of PLACE -/

theorem State.screen_congr {s t : State} (h : ∀ c, t.hold c = s.hold c) (named : List Nat) (sent : List (Nat × Nat)) :
    t.screen named sent = s.screen named sent := by
  induction sent generalizing named with
  | nil => rfl
  | cons e l ih =>
    show t.screenOne named e :: t.screen (e.1 :: named) l = s.screenOne named e :: s.screen (e.1 :: named) l
    rw [ih]
    congr 1
    unfold State.screenOne
    simp only [h]

theorem State.begin_placeEntries (s : State) (u : Bool) (o : Handed) (n : Nat) :
    (s.begin u o).placeEntries o n = s.placeEntries o n := by
  unfold State.placeEntries
  simp only [State.begin_field]

theorem State.begin_screen (s : State) (u : Bool) (o : Handed) (n : Nat) :
    (s.begin u o).screen [] ((s.begin u o).placeEntries o n) = s.screen [] (s.placeEntries o n) := by
  rw [State.begin_placeEntries]
  exact State.screen_congr (s := s) (t := s.begin u o) (fun _ => rfl) _ _

/-- Working marks are set on the channels of the working set alone (R68). -/
theorem Plan.setMarks_get (head : Nat) (items : List PlaceItem) (p : Plan) (c : Fin 256) :
    (p.setMarks head items).channels[c] =
      if c ∈ items.map PlaceItem.channel then (p.channels[c]).map fun r => { r with mark := some head }
      else p.channels[c] := by
  induction items generalizing p with
  | nil => rfl
  | cons i l ih =>
    have first := p.setChannel_get i.channel c ((p.channels[i.channel]).map fun r => { r with mark := some head })
    have rest := ih (p.setChannel i.channel ((p.channels[i.channel]).map fun r => { r with mark := some head }))
    refine rest.trans ?_
    rw [first]
    simp only [List.map_cons, List.mem_cons]
    by_cases e : c = i.channel
    · subst e
      simp only [if_true, true_or, Option.map_map]
      split
      · rfl
      · rfl
    · simp only [e, if_false, false_or]

theorem Plan.setMarks_epoch (head : Nat) (items : List PlaceItem) (p : Plan) :
    (p.setMarks head items).epoch = p.epoch := by
  induction items generalizing p with
  | nil => rfl
  | cons i l ih => exact ih _

/-- What PLACE does once its arguments are right. -/
theorem placeOrder_accepted {o : Handed} {x : State} (h1 : 1 ≤ x.param o 0 2) (h2 : x.param o 0 2 ≤ 256)
    (h3 : x.param o 0 2 ≤ 36 + 40 * o.rest.length) (h4 : x.param o 2 1 < 4) :
    placeOrder o x =
      if x.workingSet o = [] then
        (x.draw 1).conclude o .done .none 0
          (pieces 240 8 ((x.searchFor o).result true .none (x.freeHalf 0) x.plan.epoch))
      else
        match (x.workingSet o).findIdx? fun i => i.walk.length = 0 with
        | some d =>
          if (x.searchFor o).bestEffort then x.startPlace (x.searchFor o) (x.workingSet o)
          else x.endPlace (x.searchFor o) false .failed .noCandidate d
        | none => x.startPlace (x.searchFor o) (x.workingSet o) := by
  unfold placeOrder
  rw [if_neg (by omega)]
  rfl

theorem State.begin_searchFor (s : State) (u : Bool) (o : Handed) : (s.begin u o).searchFor o = s.searchFor o := by
  unfold State.searchFor
  simp only [State.begin_param, State.begin_screen]
  rfl

theorem State.begin_workingSet (s : State) (u : Bool) (o : Handed) : (s.begin u o).workingSet o = s.workingSet o := by
  unfold State.workingSet
  rw [State.begin_param, State.begin_screen, State.begin_placeEntries]
  rfl

/-- The search begins with its first channel. -/
theorem placeOrder_starts {o : Handed} {x : State} {i : PlaceItem} {l : List PlaceItem} (h1 : 1 ≤ x.param o 0 2)
    (h2 : x.param o 0 2 ≤ 256) (h3 : x.param o 0 2 ≤ 36 + 40 * o.rest.length) (h4 : x.param o 2 1 < 4)
    (set : x.workingSet o = i :: l)
    (walks : (x.searchFor o).bestEffort = true ∨ ∀ y ∈ x.workingSet o, y.walk.length ≠ 0) :
    placeOrder o x = x.startPlace (x.searchFor o) (i :: l) := by
  rw [placeOrder_accepted h1 h2 h3 h4, if_neg (by rw [set]; exact nofun)]
  rw [set] at walks ⊢
  split
  · rename_i d found
    rcases walks with best | walks
    · exact if_pos best
    · obtain ⟨small, empty, -⟩ := List.findIdx?_eq_some_iff_getElem.1 found
      exact absurd (of_decide_eq_true empty) (walks _ (List.getElem_mem small))
  · rfl

/-- A channel without a grid point ends ALL_OR_NOTHING (R69). -/
theorem placeOrder_noWalk {o : Handed} {x : State} {d : Nat} {i : PlaceItem} (h1 : 1 ≤ x.param o 0 2)
    (h2 : x.param o 0 2 ≤ 256) (h3 : x.param o 0 2 ≤ 36 + 40 * o.rest.length) (h4 : x.param o 2 1 < 4)
    (all : (x.searchFor o).bestEffort = false) (hi : (x.workingSet o)[d]? = some i) (empty : i.walk.length = 0)
    (first : ∀ j y, j < d → (x.workingSet o)[j]? = some y → y.walk.length ≠ 0) :
    placeOrder o x = x.endPlace (x.searchFor o) false .failed .noCandidate d := by
  obtain ⟨small, at_d⟩ := List.getElem?_eq_some_iff.1 hi
  have found : ((x.workingSet o).findIdx? fun i => i.walk.length = 0) = some d :=
    List.findIdx?_eq_some_iff_getElem.2 ⟨small, by rw [at_d]; exact decide_eq_true empty, fun j lt e =>
      first j _ lt (List.getElem?_eq_getElem (by omega)) (of_decide_eq_true e)⟩
  rw [placeOrder_accepted h1 h2 h3 h4, if_neg (by intro nil; rw [nil] at hi; exact absurd hi nofun), found]
  dsimp only
  rw [all]
  exact if_neg nofun

end Sys2Proof.Machine

open Sys2Proof Sys2Proof.Machine

/-- Settles O32. -/
theorem placeTakeUp : Obligations.PlaceTakeUp := by
  intro s o h h1 h2 h3 h4
  have p1 := (s.begin_param false o 0 2).symm ▸ h1
  have p2 := (s.begin_param false o 0 2).symm ▸ h2
  have p3 := (s.begin_param false o 0 2).symm ▸ h3
  have p4 := (s.begin_param false o 2 1).symm ▸ h4
  have search := s.begin_searchFor false o
  have set := s.begin_workingSet false o
  refine ⟨fun i l list walks => ?_, fun d i all hi empty first => ?_, fun none => ?_⟩
  · have starts := placeOrder_starts (x := s.begin false o) p1 p2 p3 p4 (set.trans list) (by rwa [search, set])
    rw [search] at starts
    refine ⟨_, h.run starts, ⟨⟨rfl, rfl⟩, rfl⟩, fun c => ?_, Plan.setMarks_epoch .., rfl, rfl, rfl, ⟨rfl, rfl⟩, rfl, rfl,
      rfl⟩
    rw [list]
    exact Plan.setMarks_get o.head (i :: l) s.plan c
  · have ended := placeOrder_noWalk (x := s.begin false o) p1 p2 p3 p4 (by rwa [search]) (by rwa [set]) empty
      (by rwa [set])
    rw [search] at ended
    exact h.reads (n := 0) ended (pieces_length _ _ _)
  · have ended := (placeOrder_accepted (x := s.begin false o) p1 p2 p3 p4).trans (if_pos (set.trans none))
    rw [search] at ended
    obtain ⟨t, run, reads⟩ := h.reads (n := 1) ended (pieces_length _ _ _)
    exact ⟨t, _, rfl, run, reads⟩

end


section
/-! The searches of REPLACE (R96, R97). -/

namespace Sys2Proof.Machine

/-! ### The spare search -/

theorem State.spareSearch_pass {s : State} {r : ChannelRecord} {x : Spare} {n : Nat} (t : List Spare)
    (h : s.evaluateFor r x.step false = .pass n) : s.spareSearch r (x :: t) = (some (x.step, n), 1) := by
  unfold State.spareSearch
  rw [h]

theorem State.spareSearch_fail {s : State} {r : ChannelRecord} {x : Spare} {k : Nat} (t : List Spare)
    (h : s.evaluateFor r x.step false = .fail k) :
    s.spareSearch r (x :: t) = ((s.spareSearch r t).1, (s.spareSearch r t).2 + 1) := by
  rw [State.spareSearch, h]

/-- The first spare that passes is taken, and the spares up to it are counted. -/
theorem State.spareSearch_first {s : State} {r : ChannelRecord} {a b : List Spare} {x : Spare} {n : Nat}
    (pass : s.evaluateFor r x.step false = .pass n) (fails : ∀ y ∈ a, ∃ k, s.evaluateFor r y.step false = .fail k) :
    s.spareSearch r (a ++ x :: b) = (some (x.step, n), a.length + 1) := by
  induction a with
  | nil => exact State.spareSearch_pass b pass
  | cons y a ih =>
    obtain ⟨k, fail⟩ := fails y (.head _)
    rw [List.cons_append, State.spareSearch_fail _ fail, ih fun z m => fails z (.tail _ m)]
    rfl

theorem State.spareSearch_none {s : State} {r : ChannelRecord} {l : List Spare}
    (fails : ∀ y ∈ l, ∃ k, s.evaluateFor r y.step false = .fail k) : s.spareSearch r l = (none, l.length) := by
  induction l with
  | nil => rfl
  | cons y l ih =>
    obtain ⟨k, fail⟩ := fails y (.head _)
    rw [State.spareSearch_fail _ fail, ih fun z m => fails z (.tail _ m)]
    rfl

/-- Either every spare fails, or there is a first that passes. -/
theorem State.spares_split (s : State) (r : ChannelRecord) (l : List Spare) :
    (∀ y ∈ l, ∃ k, s.evaluateFor r y.step false = .fail k) ∨
      ∃ a x b n, l = a ++ x :: b ∧ s.evaluateFor r x.step false = .pass n ∧
        ∀ y ∈ a, ∃ k, s.evaluateFor r y.step false = .fail k := by
  induction l with
  | nil => exact .inl nofun
  | cons y l ih =>
    cases judged : s.evaluateFor r y.step false with
    | pass n => exact .inr ⟨[], y, l, n, rfl, judged, nofun⟩
    | fail k =>
      rcases ih with fails | ⟨a, x, b, n, rfl, pass, fails⟩
      · exact .inl (List.forall_mem_cons.2 ⟨⟨k, judged⟩, fails⟩)
      · exact .inr ⟨y :: a, x, b, n, rfl, pass, List.forall_mem_cons.2 ⟨⟨k, judged⟩, fails⟩⟩

/-! ### The full-range search -/

/-- A candidate is the best of a list: no other has a higher score, none earlier an equal one. -/
def State.isBest (s : State) (r : ChannelRecord) (fs : List Nat) (f n : Nat) : Prop :=
  f ∈ fs ∧ s.evaluateFor r f false = .pass n ∧
    ∀ g ∈ fs, ∀ m, s.evaluateFor r g false = .pass m → m < n ∨ (m = n ∧ f ≤ g)

theorem State.isBest.unique {s : State} {r : ChannelRecord} {fs : List Nat} {f n g m : Nat} (h : s.isBest r fs f n)
    (k : s.isBest r fs g m) : f = g ∧ n = m := by
  obtain ⟨hf, pf, bf⟩ := h
  obtain ⟨hg, pg, bg⟩ := k
  have := bf g hg m pg
  have := bg f hf n pf
  omega

/-- What the search has found among the candidates judged so far. -/
def State.bestSoFar (s : State) (r : ChannelRecord) (fs : List Nat) : Option (Nat × Nat) → Prop
  | none => ∀ g ∈ fs, ∃ k, s.evaluateFor r g false = .fail k
  | some (f, n) => s.isBest r fs f n

theorem State.bestSoFar_better {s : State} {r : ChannelRecord} {fs : List Nat} {best : Option (Nat × Nat)} {g : Nat}
    (h : s.bestSoFar r fs best) (later : ∀ f ∈ fs, f < g) :
    s.bestSoFar r (fs ++ [g]) (better best g (s.evaluateFor r g false)) := by
  have mem : ∀ x, x ∈ fs ++ [g] ↔ x ∈ fs ∨ x = g := fun x => by rw [List.mem_append, List.mem_singleton]
  cases judged : s.evaluateFor r g false with
  | fail k =>
    cases best with
    | none => exact fun x m => ((mem x).1 m).elim (h x) fun e => e ▸ ⟨k, judged⟩
    | some b =>
      obtain ⟨hf, pass, top⟩ := h
      refine ⟨(mem _).2 (.inl hf), pass, fun x m n px => ((mem x).1 m).elim (fun m => top x m n px) fun e => ?_⟩
      rw [e, judged] at px
      cases px
  | pass score =>
    cases best with
    | none =>
      refine ⟨(mem g).2 (.inr rfl), judged, fun x m n px => ((mem x).1 m).elim (fun m => ?_) fun e => ?_⟩
      · obtain ⟨k, fail⟩ := h x m
        rw [fail] at px
        cases px
      · rw [e, judged] at px
        cases px
        exact .inr ⟨rfl, e.symm.le⟩
    | some b =>
      obtain ⟨f, n⟩ := b
      obtain ⟨hf, pass, top⟩ := h
      show s.bestSoFar r (fs ++ [g]) (if n < score then some (g, score) else some (f, n))
      split
      · rename_i higher
        refine ⟨(mem g).2 (.inr rfl), judged, fun x m k px => ((mem x).1 m).elim (fun m => ?_) fun e => ?_⟩
        · have := top x m k px
          omega
        · rw [e, judged] at px
          cases px
          exact .inr ⟨rfl, e.symm.le⟩
      · rename_i lower
        refine ⟨(mem f).2 (.inl hf), pass, fun x m k px => ((mem x).1 m).elim (fun m => top x m k px) fun e => ?_⟩
        rw [e, judged] at px
        cases px
        have := later f hf
        omega

theorem State.bestSoFar_foldl {s : State} {r : ChannelRecord} (fs done : List Nat) (best : Option (Nat × Nat))
    (sorted : (done ++ fs).Pairwise (· < ·)) (h : s.bestSoFar r done best) :
    s.bestSoFar r (done ++ fs) (fs.foldl (fun best f => better best f (s.evaluateFor r f false)) best) := by
  induction fs generalizing done best with
  | nil => rwa [List.append_nil]
  | cons g fs ih =>
    have later : ∀ f ∈ done, f < g := fun f m => (List.pairwise_append.1 sorted).2.2 f m g (.head _)
    have next := ih (done ++ [g]) _ (by rwa [List.append_assoc]) (State.bestSoFar_better h later)
    rwa [List.append_assoc] at next

theorem State.bestOf_best (s : State) (r : ChannelRecord) {fs : List Nat} (sorted : fs.Pairwise (· < ·)) :
    s.bestSoFar r fs (s.bestOf r fs) := State.bestSoFar_foldl fs [] none sorted nofun

theorem State.mem_fullRange {s : State} {r : ChannelRecord} {current f : Nat} (pos : 1 ≤ r.fields.multiple) :
    f ∈ s.fullRange r current ↔ f ≠ current ∧ f % r.fields.multiple = 0 ∧
      ∃ l h, r.fields.effective s.site.window = some (l, h) ∧ l ≤ f ∧ f ≤ h := by
  unfold State.fullRange
  rw [List.mem_filter, decide_eq_true_eq]
  cases range : r.fields.effective s.site.window with
  | none =>
    refine ⟨fun ⟨m, _⟩ => absurd m List.not_mem_nil, ?_⟩
    rintro ⟨-, -, l, h, e, -⟩
    cases e
  | some e =>
    obtain ⟨l, h⟩ := e
    rw [gridOf_points _ _ _ _ pos]
    constructor
    · rintro ⟨⟨low, high, multiple⟩, other⟩
      exact ⟨other, multiple, l, h, rfl, low, high⟩
    · rintro ⟨other, multiple, l', h', e, low, high⟩
      cases e
      exact ⟨⟨low, high, multiple⟩, other⟩

/-! ### The search -/

theorem State.search_spare {s : State} {r : ChannelRecord} {current f n : Nat} {only : Bool}
    (h : (s.spareSearch r s.spares[r.fields.stage]).1 = some (f, n)) :
    s.search r current only = (some (f, n, true), (s.spareSearch r s.spares[r.fields.stage]).2) := by
  unfold State.search
  generalize s.spareSearch r s.spares[r.fields.stage] = x at h ⊢
  obtain ⟨found, count⟩ := x
  cases h
  rfl

theorem State.search_range {s : State} {r : ChannelRecord} {current : Nat} {only : Bool}
    (h : (s.spareSearch r s.spares[r.fields.stage]).1 = none) :
    s.search r current only = if only then (none, (s.spareSearch r s.spares[r.fields.stage]).2)
      else ((s.bestOf r (s.fullRange r current)).map fun e => (e.1, e.2, false),
        (s.spareSearch r s.spares[r.fields.stage]).2 + (s.fullRange r current).length) := by
  unfold State.search
  generalize s.spareSearch r s.spares[r.fields.stage] = x at h ⊢
  obtain ⟨found, count⟩ := x
  cases h
  rfl

theorem State.spareSearch_count {s : State} {r : ChannelRecord} {l : List Spare} (h : (s.spareSearch r l).1 = none) :
    (s.spareSearch r l).2 = l.length := by
  rcases s.spares_split r l with fails | ⟨a, x, b, n, rfl, pass, fails⟩
  · rw [State.spareSearch_none fails]
  · rw [State.spareSearch_first pass fails] at h
    cases h

end Sys2Proof.Machine

open Sys2Proof Sys2Proof.Machine

/-- Settles O36. -/
theorem replaceSearchPicksBest : Obligations.ReplaceSearchPicksBest := by
  intro s r current
  refine ⟨fun l => ⟨fun f n => ⟨fun h => ?_, ?_⟩, ⟨fun h => ?_, fun fails => by rw [State.spareSearch_none fails]⟩,
    ?_, State.spareSearch_count⟩, fun pos => ?_,
    fun only => ⟨fun f n h => State.search_spare h, fun none spares => ?_, fun none spares => ?_⟩⟩
  · rcases s.spares_split r l with fails | ⟨a, x, b, m, rfl, pass, fails⟩
    · rw [State.spareSearch_none fails] at h
      cases h
    · rw [State.spareSearch_first pass fails] at h
      cases h
      exact ⟨a, x, b, rfl, rfl, pass, fails⟩
  · rintro ⟨a, x, b, rfl, rfl, pass, fails⟩
    rw [State.spareSearch_first pass fails]
  · rcases s.spares_split r l with fails | ⟨a, x, b, m, rfl, pass, fails⟩
    · exact fails
    · rw [State.spareSearch_first pass fails] at h
      cases h
  · rintro a x b n rfl pass fails
    rw [State.spareSearch_first pass fails]
  · have sorted : (s.fullRange r current).Pairwise (· < ·) :=
      (Grid.points_sorted (by rw [gridOf_multiple]; exact pos)).filter _
    have best := s.bestOf_best r sorted
    refine ⟨sorted, fun f => State.mem_fullRange pos, fun f n => ?_, ?_⟩
    · cases found : s.bestOf r (s.fullRange r current) with
      | none =>
        rw [found] at best
        refine ⟨nofun, fun ⟨mem, pass, _⟩ => ?_⟩
        obtain ⟨k, fail⟩ := best f mem
        rw [pass] at fail
        cases fail
      | some b =>
        obtain ⟨g, m⟩ := b
        rw [found] at best
        refine ⟨fun e => by cases e; exact best, fun h => ?_⟩
        obtain ⟨rfl, rfl⟩ := State.isBest.unique h best
        rfl
    · cases found : s.bestOf r (s.fullRange r current) with
      | none =>
        rw [found] at best
        exact ⟨fun _ => best, fun _ => rfl⟩
      | some b =>
        obtain ⟨g, m⟩ := b
        rw [found] at best
        obtain ⟨mem, pass, -⟩ := best
        refine ⟨nofun, fun fails => ?_⟩
        obtain ⟨k, fail⟩ := fails g mem
        rw [pass] at fail
        cases fail
  · rw [State.search_range none, if_pos spares]
  · rw [State.search_range none, spares, if_neg nofun, State.spareSearch_count none]
    refine ⟨fun f n h => ?_, fun h => ?_, rfl⟩
    · rw [h]
      rfl
    · rw [h]
      rfl

end


section
/-! The reads of the tables, the maps, the links and the Watch (R34, R51, R94, R116, R117, R130). -/

namespace Sys2Proof.Machine

theorem State.doneOrShort_eq (x : State) (o : Handed) (short : Bool) (argument : Word) (payloads : List (List Byte)) :
    x.doneOrShort o short argument payloads =
      x.conclude o (shortOutcome short).1 (shortOutcome short).2 argument payloads := by
  cases short <;> rfl

theorem Window.span_eq {w : Window} {start : Nat} (h : w.has start = true) : w.top + 1 - start = w.w0 + w.width - start := by
  unfold Window.has at h
  unfold Window.top
  rw [decide_eq_true_eq] at h
  omega

/-! ### READ CHANNELS -/

theorem State.spanned_eq (x : State) (first count : Nat) (skip : Bool) :
    x.spanned first count skip = (List.finRange 256).filter fun c =>
      decide (first ≤ c.val ∧ c.val < first + count) && (!skip || (x.channel c).isSome) := by
  unfold State.spanned
  rw [List.filter_filter]
  exact List.filter_congr fun c _ => Bool.and_comm _ _

theorem readChannelsOrder_reads {o : Handed} {x : State} (h1 : x.param o 0 2 ≤ 255) (h2 : 1 ≤ x.param o 2 2) :
    let cs := x.spanned (x.param o 0 2) (x.param o 2 2) ((x.param o 4 1).testBit 0)
    let fit := 10 * o.length
    let n := ((cs[fit]?).map Fin.val).getD cs.length
    readChannelsOrder o x = (x.draw 512).conclude o (shortOutcome (fit < cs.length)).1 (shortOutcome (fit < cs.length)).2
      (BitVec.ofNat 32 (n + 65536 * (x.plan.epoch.toNat % 65536))) (pieces 240 8 ((cs.take fit).flatMap x.channelEntry)) := by
  unfold readChannelsOrder
  rw [if_neg (by omega)]
  dsimp only
  rw [State.doneOrShort_eq, ← List.head?_drop]
  generalize List.drop _ _ = left
  cases left <;> rfl

/-! ### READ CENSUS -/

theorem planeOf_plane (fifth : Bool) : planeOf (if fifth then 5 else 3) = some fifth := by
  cases fifth <;> rfl

theorem readCensusOrder_reads {o : Handed} {x : State} {b : Fin 8} {fifth : Bool} (hb : x.param o 0 1 = b.val)
    (plane : x.param o 1 1 = if fifth then 5 else 3) (h1 : 1 ≤ x.param o 4 2)
    (h2 : x.site.window.has (x.param o 2 2) = true) :
    let start := x.param o 2 2
    let span := min (x.param o 4 2) (x.site.window.w0 + x.site.window.width - start)
    let n := min span (112 + 120 * o.rest.length)
    let short : Bool := n < span
    readCensusOrder o x = x.conclude o (shortOutcome short).1 (shortOutcome short).2
      (BitVec.ofNat 32 (if short then start + n else n))
      (pieces 240 8 (x.censusSummary b fifth start n
        ++ (List.range n).flatMap fun i => half (x.census.count (b, fifth, start + i)))) := by
  unfold readCensusOrder
  dsimp only
  rw [hb, plane, index_eq_some, planeOf_plane]
  dsimp only
  rw [h2, if_neg (by simp; omega), State.doneOrShort_eq, Window.span_eq h2]
  simp only [decide_eq_true_eq]

/-! ### READ SPARES -/

theorem readSparesOrder_reads {o : Handed} {x : State} (h : stagesOf (BitVec.ofNat 8 (x.param o 0 1)) ≠ []) :
    let bs := stagesOf (BitVec.ofNat 8 (x.param o 0 1))
    let fit := 3 * o.length
    let n := ((bs[fit]?).map Fin.val).getD bs.length
    readSparesOrder o x = (x.draw 64).conclude o (shortOutcome (fit < bs.length)).1 (shortOutcome (fit < bs.length)).2
      (BitVec.ofNat 32 n) (pieces 216 8 ((bs.take fit).flatMap x.spareBlock)) := by
  unfold readSparesOrder
  rw [if_neg h]
  dsimp only
  rw [State.doneOrShort_eq, ← List.head?_drop]
  generalize List.drop _ _ = left
  cases left <;> rfl

theorem stagesOf_ne_nil {m : BitVec 8} (h : m ≠ 0) : stagesOf m ≠ [] := by
  intro none
  apply h
  refine BitVec.eq_of_getLsbD_eq fun i hi => ?_
  have out := List.filter_eq_nil_iff.1 none ⟨i, hi⟩ (mem_allStages _)
  rw [Bool.not_eq_true] at out
  rw [out]
  simp

/-- The block of a stage shows its UPKEEP state, which a take-up leaves as it is. -/
theorem State.begin_spareBlock {s : State} {code : OrderCode} {u : Bool} {o : Handed} (h : s.granted code = some (u, o))
    (b : Fin 8) : (s.begin u o).spareBlock b = s.spareBlock b := by
  obtain ⟨entry, active⟩ := State.granted_upkeep h b
  have upkeep : (s.begin u o).engine.upkeepState b = s.engine.upkeepState b := by
    unfold Engine.upkeepState
    rw [State.begin_engine, entry, active]
  unfold State.spareBlock
  rw [upkeep]
  rfl

/-! ### READ SPECTRUM, READ LINKS and READ WATCH -/

theorem readSpectrumOrder_reads {o : Handed} {x : State} {z : Fin 4} (hz : x.param o 0 1 = z.val)
    (h1 : 1 ≤ x.param o 4 2) (h2 : x.site.window.has (x.param o 2 2) = true) :
    let start := x.param o 2 2
    let span := min (x.param o 4 2) (x.site.window.w0 + x.site.window.width - start)
    let n := min span (112 + 120 * o.rest.length)
    let short : Bool := n < span
    readSpectrumOrder o x = x.conclude o (shortOutcome short).1 (shortOutcome short).2
      (BitVec.ofNat 32 (if short then start + n else n))
      (pieces 240 8 (x.zones[z].spectrumSummary z start n
        ++ (List.range n).flatMap fun i => x.zones[z].binBytes (start + i))) := by
  unfold readSpectrumOrder
  dsimp only
  rw [hz, index_eq_some]
  dsimp only
  rw [h2, if_neg (by simp; omega), State.doneOrShort_eq, Window.span_eq h2]
  simp only [decide_eq_true_eq]
  rfl

theorem readWatchOrder_reads {o : Handed} {x : State} {z : Fin 4} (hz : x.param o 0 1 = z.val) :
    readWatchOrder o x = (x.draw 128).conclude o .done .none
      (BitVec.ofNat 32 (x.zones[z].segments.toList.countP Segment.hit)) [x.watchResult z] := by
  unfold readWatchOrder
  rw [hz, index_eq_some]
  rfl

/-- The links with the counts of some zones cleared. -/
theorem foldl_clearCounts (zs : List (Fin 4)) (x : State) (nodup : zs.Nodup) :
    (zs.foldl (fun t z => t.onLink z Link.clearCounts) x) = { x with
      links := (zs.foldl (fun t z => t.onLink z Link.clearCounts) x).links } ∧
    ∀ z : Fin 4, (zs.foldl (fun t z => t.onLink z Link.clearCounts) x).links[z] =
      if z ∈ zs then (x.links[z]).clearCounts else x.links[z] := by
  induction zs generalizing x with
  | nil => exact ⟨rfl, fun z => rfl⟩
  | cons y zs ih =>
    obtain ⟨new, nodup⟩ := List.nodup_cons.1 nodup
    obtain ⟨rest, links⟩ := ih (x.onLink y Link.clearCounts) nodup
    refine ⟨rest, fun z => (links z).trans ?_⟩
    have one : (x.onLink y Link.clearCounts).links[z] = if z = y then (x.links[y]).clearCounts else x.links[z] :=
      vector_set_get _ _ _ _
    rw [one]
    by_cases e : z = y
    · subst e
      rw [if_neg new, if_pos rfl, if_pos (List.mem_cons_self ..)]
    · rw [if_neg e]
      simp only [List.mem_cons, e, false_or]

/-- The state of a READ LINKS, with its counts cleared where its option says so. -/
def State.linksRead (x : State) (zs : List (Fin 4)) (clears : Bool) : State :=
  if clears then zs.foldl (fun t z => t.onLink z Link.clearCounts) x else x

theorem State.linksRead_eq (x : State) (zs : List (Fin 4)) (clears : Bool) (nodup : zs.Nodup) :
    x.linksRead zs clears = { x with links := (x.linksRead zs clears).links } ∧
      ∀ z : Fin 4, (x.linksRead zs clears).links[z] =
        if clears = true ∧ z ∈ zs then (x.links[z]).clearCounts else x.links[z] := by
  unfold State.linksRead
  cases clears with
  | true =>
    obtain ⟨rest, links⟩ := foldl_clearCounts zs x nodup
    exact ⟨rest, fun z => (links z).trans (by simp only [true_and])⟩
  | false => exact ⟨rfl, fun z => rfl⟩

theorem readLinksOrder_reads {o : Handed} {x : State} (h : zonesOf (x.param o 0 1) ≠ []) :
    readLinksOrder o x =
      ((x.linksRead (zonesOf (x.param o 0 1)) ((x.param o 1 1).testBit 0)).draw 4).done o
        (BitVec.ofNat 32 (zonesOf (x.param o 0 1)).length) ((zonesOf (x.param o 0 1)).flatMap x.linkBlock) := by
  unfold readLinksOrder
  exact if_neg h

theorem zonesOf_nodup (n : Nat) : (zonesOf n).Nodup := (by decide : allZones.Nodup).filter _

theorem zonesOf_length (n : Nat) : (zonesOf n).length ≤ 4 := List.length_filter_le _ allZones

theorem State.linkBlock_length (x : State) (z : Fin 4) : (x.linkBlock z).length = 24 := by
  have last : ∀ (n : Int) (i : Nat), (lastCoveredField n (x.freeHalf i)).length = 2 := fun n i => by
    unfold lastCoveredField
    split <;> rfl
  unfold State.linkBlock
  dsimp only
  cases x.links[z].sweep with
  | none => rfl
  | some w =>
    simp only [List.length_append, last]
    rfl

theorem State.segmentRecord_length (x : State) (z : Fin 4) (watched : List (Nat × Nat)) (j : Fin 64) (g : Segment) :
    (x.segmentRecord z watched j g).length = 3 := rfl

theorem State.watchResult_length (x : State) (z : Fin 4) : (x.watchResult z).length ≤ 240 := by
  have records : ((allSegments.zip (x.zones[z]).segments.toList).flatMap fun e =>
      x.segmentRecord z (x.watchedIn z) e.1 e.2).length = 3 * 64 := by
    rw [flatMap_length_le _ 3 _ fun e => x.segmentRecord_length ..]
    simp [allSegments]
  have mask : ∀ m : BitVec 64, (maskBytes m).length = 8 := fun m => by simp [maskBytes]
  unfold State.watchResult
  simp only [List.length_append, records, mask, List.length_replicate, half_length, List.length_cons, List.length_nil]
  decide

end Sys2Proof.Machine

open Sys2Proof Sys2Proof.Machine

/-- Settles O41. -/
theorem tableReadsDeliver : Obligations.TableReadsDeliver := by
  refine fun s u o => ⟨fun h h1 h2 => ?_, fun b fifth h hb plane h1 h2 => ?_, fun h mask => ?_⟩
  · have p1 := (s.begin_param u o 0 2).symm ▸ h1
    have p2 := (s.begin_param u o 2 2).symm ▸ h2
    have reads := readChannelsOrder_reads (x := s.begin u o) p1 p2
    dsimp only at reads
    rw [State.begin_param, State.begin_param, State.begin_param, State.spanned_eq] at reads
    obtain ⟨t, run, delivered⟩ := h.reads reads (pieces_length _ _ _)
    refine ⟨t, (s.begin u o).channelEntry, run, fun c r hr => ?_, fun c vacant => ?_, delivered⟩
    · unfold State.channelEntry
      rw [show (s.begin u o).channel c = some r from hr]
      rfl
    · unfold State.channelEntry
      rw [show (s.begin u o).channel c = none from vacant]
      exact ⟨_, _, rfl⟩
  · have reads := readCensusOrder_reads (x := s.begin u o) (b := b) (fifth := fifth)
      ((State.begin_param ..).trans hb) ((State.begin_param ..).trans plane) (h1.trans_eq (State.begin_param ..).symm)
      ((congrArg s.site.window.has (State.begin_param ..)).trans h2)
    dsimp only at reads
    rw [State.begin_param, State.begin_param] at reads
    exact h.reads (n := 0) reads (pieces_length _ _ _)
  · have reads := readSparesOrder_reads (x := s.begin u o) (by rw [State.begin_param]; exact stagesOf_ne_nil mask)
    dsimp only at reads
    rw [State.begin_param, funext fun b => State.begin_spareBlock h.1 b] at reads
    exact h.reads reads fun l m => (pieces_length _ _ _ l m).trans (by decide)

/-- Settles O42. -/
theorem zoneReadsDeliver : Obligations.ZoneReadsDeliver := by
  refine fun s u o => ⟨fun z h hz h1 h2 => ?_, fun h zones => ?_, fun z h hz => ?_⟩
  · have reads := readSpectrumOrder_reads (x := s.begin u o) (z := z) ((State.begin_param ..).trans hz)
      (h1.trans_eq (State.begin_param ..).symm) ((congrArg s.site.window.has (State.begin_param ..)).trans h2)
    dsimp only at reads
    rw [State.begin_param, State.begin_param] at reads
    exact h.reads (n := 0) reads (pieces_length _ _ _)
  · have reads := readLinksOrder_reads (x := s.begin u o) (by rwa [State.begin_param])
    rw [State.begin_param, State.begin_param] at reads
    obtain ⟨rest, links⟩ := (s.begin u o).linksRead_eq (zonesOf (s.param o 0 1)) ((s.param o 1 1).testBit 0)
      (zonesOf_nodup _)
    generalize (s.begin u o).linksRead (zonesOf (s.param o 0 1)) ((s.param o 1 1).testBit 0) = y at reads rest links
    have short : ((zonesOf (s.param o 0 1)).flatMap (s.begin u o).linkBlock).length ≤ 240 := by
      rw [flatMap_length_le _ 24 _ fun z => State.linkBlock_length _ z]
      have := zonesOf_length (s.param o 0 1)
      omega
    obtain ⟨t, run, reached, ends, alone⟩ := h.done reads (by rw [rest]; rfl) (by rw [rest]; rfl) (by rw [rest]; rfl)
      (by rw [rest]; rfl) short
    refine ⟨t, run, ⟨reached.site.trans (by rw [rest]; rfl), reached.plan.trans (by rw [rest]; rfl),
      reached.census.trans (by rw [rest]; rfl), reached.spares.trans (by rw [rest]; rfl)⟩,
      reached.zones.trans (by rw [rest]; rfl), reached.engine.trans (by rw [rest]; rfl),
      reached.free.trans (by rw [rest]; rfl), fun z => ?_, ends, alone⟩
    rw [reached.links]
    exact links z
  · have reads := readWatchOrder_reads (x := s.begin u o) (z := z) ((State.begin_param ..).trans hz)
    exact h.reads reads fun l m => by
      rw [List.mem_singleton.1 m]
      exact State.watchResult_length _ z

end


section
/-! SET ZONE (R113). -/

namespace Sys2Proof.Machine

/-- What a table holds at a place after a function that keeps the unlisted value was applied to every listed place. -/
theorem sparseMap_get {α : Type} [DecidableEq α] {d : α} {f : α → α} (fixed : f d = d) :
    ∀ {l : Sparse α}, sparseOk d l = true → ∀ n, sparseGet d (sparseMap d f l) n = f (sparseGet d l n)
  | [], _, n => fixed.symm
  | (k, v) :: l, ok, n => by
    obtain ⟨listed, above, rest⟩ := sparseOk_cons.1 ok
    have ih := sparseMap_get fixed rest n
    have cons : sparseMap d f ((k, v) :: l) = if f v = d then sparseMap d f l else (k, f v) :: sparseMap d f l := by
      unfold sparseMap
      rw [List.map_cons, List.filter_cons]
      by_cases e : f v = d
      · simp [e]
      · simp [e]
    rw [cons]
    by_cases here : k = n
    · subst here
      rw [show sparseGet d ((k, v) :: l) k = v from if_pos rfl]
      split
      · next e => rw [ih, sparseGet_of_below above, fixed, e]
      · exact if_pos rfl
    · rw [show sparseGet d ((k, v) :: l) n = sparseGet d l n from if_neg here]
      split
      · exact ih
      · exact (if_neg here).trans ih

theorem Zone.restartPeriod_get {z : Zone} (h : sparseOk Bin.cleared z.map = true) (n : Nat) :
    sparseGet Bin.cleared z.restartPeriod.map n = { sparseGet Bin.cleared z.map n with sum := 0, samples := 0 } :=
  sparseMap_get rfl h n

theorem clamp_eq {low high n : Nat} (h : low ≤ high) : clamp low high n = min high (max low n) := by
  unfold clamp
  split <;> [skip; split] <;> omega

theorem clampInt_eq {low high n : Int} (h : low ≤ high) : clampInt low high n = min high (max low n) := by
  unfold clampInt
  split <;> [skip; split] <;> omega

theorem State.param_byte (s : State) (o : Handed) (i : Nat) : s.param o i 1 < 256 := by
  have one : ∀ b : Byte, littleEndian [b] < 256 := fun b => by
    have := b.isLt
    simp only [littleEndian]
    omega
  exact one _

/-- A byte read as a signed value. -/
theorem toInt_ofNat_byte {n : Nat} (h : n < 256) :
    (BitVec.ofNat 8 n).toInt = if n < 128 then (n : Int) else (n : Int) - 256 := by
  rw [BitVec.toInt_eq_toNat_cond, BitVec.toNat_ofNat]
  split <;> split <;> omega

theorem zoneSettingsOf_eq (floor clear occupied period threshold : Nat) (mode : WatchMode) (sent : Int)
    (hostMask : BitVec 64) :
    let settings : ZoneSettings :=
      { floor := floor
        clearOffset := min 118 clear
        occupiedOffset := min 120 (max (min 118 clear + 2) occupied)
        period := min 16 (max 1 period)
        threshold := min 120 (max 2 threshold)
        mode := mode
        hostMask := hostMask
        correction := min 63 (max (-64) sent) }
    zoneSettingsOf floor clear occupied period threshold mode sent hostMask =
      (settings, bitAt 0 (settings.clearOffset ≠ clear) + bitAt 1 (settings.occupiedOffset ≠ occupied)
        + bitAt 2 (settings.period ≠ period) + bitAt 3 (settings.threshold ≠ threshold)
        + bitAt 4 (settings.correction ≠ sent)) := by
  have c : clamp 0 118 clear = min 118 clear := (clamp_eq (by decide)).trans (by rw [Nat.zero_max])
  have o : clamp (min 118 clear + 2) 120 occupied = min 120 (max (min 118 clear + 2) occupied) := clamp_eq (by omega)
  unfold zoneSettingsOf
  dsimp only
  rw [c, o, clamp_eq (by decide), clamp_eq (by decide), clampInt_eq (by decide)]

theorem Segment.underMode_eq (g : Segment) (before after : WatchMode) :
    g.underMode before after =
      if before = .latching ∧ after = .freeRun then { g with frozen := false } else g := by
  unfold Segment.underMode
  simp only [Bool.and_eq_true, decide_eq_true_eq]

theorem Link.abandon_none {l : Link} (h : l.sweep = none) : l.abandon = l := by
  unfold Link.abandon
  rw [h]
  rfl

theorem Link.abandon_some {l : Link} (h : l.sweep ≠ none) :
    l.abandon = { l with sweep := none, abandoned := min (l.abandoned + 1) 255 } :=
  if_pos (Option.isSome_iff_ne_none.2 h)

theorem State.onLink_get (x : State) (z y : Fin 4) (f : Link → Link) :
    (x.onLink z f).links[y] = if y = z then f x.links[z] else x.links[y] :=
  vector_set_get _ _ _ _

theorem State.onZone_get (x : State) (z y : Fin 4) (f : Zone → Zone) :
    (x.onZone z f).zones[y] = if y = z then f x.zones[z] else x.zones[y] :=
  vector_set_get _ _ _ _

theorem setZoneOrder_done {o : Handed} {x : State} {z : Fin 4} {mode : WatchMode} (hz : x.param o 0 1 = z.val)
    (hm : watchModeOf (x.param o 6 1) = some mode) :
    let y := zoneSettingsOf (x.param o 1 1) (x.param o 2 1) (x.param o 3 1) (x.param o 4 1) (x.param o 5 1) mode
      (BitVec.ofNat 8 (x.param o 7 1)).toInt (BitVec.ofNat 64 (x.param o 8 8))
    setZoneOrder o x = State.done ((x.onLink z Link.abandon).onZone z fun zone => zone.configure y.1) o 0
      (byte z.val :: y.1.bytes ++ [byte y.2]) := by
  unfold setZoneOrder
  rw [hz, index_eq_some, hm]

/-- What a SET ZONE does once its settings are clamped. -/
theorem State.takes.configured {s : State} {code : OrderCode} {u : Bool} {o : Handed} {z : Fin 4}
    {settings : ZoneSettings} {result : List Byte} (h : s.takes code u o) (maps : s.mapsOk)
    (p : code.procedure o (s.begin u o) = State.done (((s.begin u o).onLink z Link.abandon).onZone z
      fun zone => zone.configure settings) o 0 result) (short : result.length ≤ 240) :
    ∃ t, exec code.command s = .next t.arbitrate ∧ t.zones[z].settings = settings ∧ t.zones[z].goodSweeps = 0 ∧
      t.zones[z].referencePending = true ∧ t.zones[z].freshness = s.zones[z].freshness ∧
      (∀ n, sparseGet Bin.cleared t.zones[z].map n =
        { sparseGet Bin.cleared s.zones[z].map n with sum := 0, samples := 0 }) ∧
      (∀ j : Fin 64, t.zones[z].segments[j] =
        if s.zones[z].settings.mode = .latching ∧ settings.mode = .freeRun then
          { s.zones[z].segments[j] with frozen := false }
        else s.zones[z].segments[j]) ∧
      (s.links[z].sweep = none → t.links[z] = s.links[z]) ∧
      (s.links[z].sweep ≠ none →
        t.links[z] = { s.links[z] with sweep := none, abandoned := min (s.links[z].abandoned + 1) 255 }) ∧
      s.otherZonesKept t z ∧ s.samePlan t ∧ t.engine = s.engine.after u ∧ t.free = s.free ∧
      s.ends t o .done .none 0 [result] ∧ s.aloneWith t o .done [result] := by
  obtain ⟨t, run, reached, ends, alone⟩ := h.done p rfl rfl rfl rfl short
  have links : ∀ y : Fin 4, t.links[y] = if y = z then s.links[z].abandon else s.links[y] := fun y => by
    rw [reached.links]
    exact (s.begin u o).onLink_get z y _
  have zones : ∀ y : Fin 4, t.zones[y] = if y = z then s.zones[z].configure settings else s.zones[y] := fun y => by
    rw [reached.zones]
    exact State.onZone_get _ z y _
  have link := (links z).trans (if_pos rfl)
  have zone := (zones z).trans (if_pos rfl)
  refine ⟨t, run, ?_, ?_, ?_, ?_, fun n => ?_, fun j => ?_, fun none => link.trans (Link.abandon_none none),
    fun some => link.trans (Link.abandon_some some), fun y hy => ⟨(links y).trans (if_neg hy), (zones y).trans (if_neg hy)⟩,
    ⟨reached.site, reached.plan, reached.census, reached.spares⟩, reached.engine, reached.free, ends, alone⟩
  · rw [zone]; rfl
  · rw [zone]; rfl
  · rw [zone]; rfl
  · rw [zone]; rfl
  · rw [zone]
    exact Zone.restartPeriod_get (maps z) n
  · rw [zone]
    exact (mapTable_get _ _ _).trans (Segment.underMode_eq ..)

end Sys2Proof.Machine

open Sys2Proof Sys2Proof.Machine

/-- Settles O44. -/
theorem setZoneStoresSettings : Obligations.SetZoneStoresSettings := by
  intro s u o z mode h maps hz hm
  have done := setZoneOrder_done (x := s.begin u o) (z := z) (mode := mode) ((State.begin_param ..).trans hz)
    ((congrArg watchModeOf (State.begin_param ..)).trans hm)
  dsimp only at done
  simp only [State.begin_param] at done
  rw [toInt_ofNat_byte (State.param_byte ..), zoneSettingsOf_eq] at done
  exact h.configured maps done (Nat.le_of_ble_eq_true rfl)

end


section
/-! PROBE and the events that end it (R103, R114, R115). -/

namespace Sys2Proof.Machine

/-! ### An order in progress whose outcome is handed over -/

theorem mem_allZones (z : Fin 4) : z ∈ allZones := by
  revert z
  decide

theorem State.mem_working_of_slot {s : State} {z : Fin 4} {w : ProbeWork} (h : s.links[z].slot = some w) :
    w.order ∈ s.working :=
  List.mem_append_right _ (List.mem_filterMap.2 ⟨z, mem_allZones z, by rw [h]; rfl⟩)

/-- An order in progress ends by an event that leaves the port alone before. -/
theorem State.ordersOk.closes {s x b : State} {o : Handed} (orders : s.ordersOk) (mem : s.memoryOk) (ho : o ∈ s.working)
    (outcome : OrderOutcome) (reason : Reason) (argument : Word) {payloads : List (List Byte)}
    (hp : ∀ l ∈ payloads, l.length ≤ 240) (port : x.port = s.port) (reports : x.reports = s.reports)
    (now : x.now = s.now) (pending : x.pending = s.pending) :
    s.ends (b.finish (x.close o outcome reason argument payloads)) o outcome reason argument payloads ∧
      s.aloneWith (b.finish (x.close o outcome reason argument payloads)) o outcome payloads := by
  have chain := orders.chain (List.mem_append_right _ ho)
  obtain ⟨-, -, -, active, -⟩ := orders
  have same : s.port.setCells o.cells .active = s.port := Port.setCells_same _ _ _ fun c hc => active o ho c hc
  refine ⟨State.close_ends (b := s) (x := x) outcome reason argument payloads chain mem (fun _ _ => rfl)
    (fun c hc => by rw [active o ho c hc]; exact nofun) rfl (.refl _) (port ▸ .refl _) (port ▸ .refl _) hp rfl rfl rfl
    rfl rfl rfl ?_,
    State.close_alone (x := x) outcome reason argument payloads chain mem (port.trans same.symm) reports ?_ ?_ rfl rfl hp⟩
  · obtain ⟨reset, run, auto, enables, data, -⟩ := (port ▸ (x.holds_close o outcome reason argument payloads).port :
      s.port.Keeps (x.close o outcome reason argument payloads).port)
    exact ⟨run, auto, enables, reset, data, (x.holds_close o outcome reason argument payloads).now.trans now,
      (x.holds_close o outcome reason argument payloads).pending.trans pending⟩
  · unfold State.close
    split <;> rfl
  · unfold State.close
    split <;> rfl

/-! ### A valid frame -/

/-- A zone that takes a valid frame: one that is SILENT or STALE becomes WARMING (R103, R108). -/
theorem State.validFrame_zone (s : State) (z : Fin 4) :
    (s.validFrame z).zones[z] = if s.zones[z].freshness.timed then s.zones[z] else s.zones[z].warm :=
  (State.onZone_get _ z z _).trans (if_pos rfl)

/-- A link that takes a valid frame (R103). -/
def Link.received (l : Link) (now : Nat) : Link := { l with receiver := [], lastValid := some now, good := l.good + 1 }

theorem State.validFrame_links (s : State) (z y : Fin 4) :
    (s.validFrame z).links[y] = if y = z then (s.links[z]).received s.now else s.links[y] :=
  s.onLink_get z y fun l => l.received s.now

theorem State.validFrame_link (s : State) (z : Fin 4) :
    (s.validFrame z).links[z] =
      { s.links[z] with receiver := [], lastValid := some s.now, good := s.links[z].good + 1 } :=
  (s.validFrame_links z z).trans (if_pos rfl)

theorem State.validFrame_others (s : State) (z : Fin 4) : s.otherZonesKept (s.validFrame z) z := fun y hy =>
  ⟨(s.validFrame_links z y).trans (if_neg hy), (State.onZone_get _ z y _).trans (if_neg hy)⟩

theorem State.frameTaken_of {s t : State} {z : Fin 4} (lastValid : t.links[z].lastValid = some s.now)
    (good : t.links[z].good = s.links[z].good + 1) (receiver : t.links[z].receiver = [])
    (zone : t.zones[z] = (s.validFrame z).zones[z]) : s.frameTaken t z := by
  rw [s.validFrame_zone z] at zone
  refine ⟨lastValid, good, receiver, fun quiet => zone.trans (if_neg ?_), fun timed => zone.trans (if_pos ?_)⟩
  · rcases quiet with e | e <;> rw [e] <;> decide
  · rcases timed with e | e <;> rw [e] <;> decide

/-! ### PROBE -/

theorem probeOrder_asks {o : Handed} {x : State} {z : Fin 4} (hz : x.param o 0 1 = z.val)
    (step : validStep (x.param o 2 2) = true) (free : x.links[z].slot = none) :
    probeOrder o x = State.release (x.onLink z fun l =>
      l.ask o (x.param o 2 2) (x.param o 1 1) x.now x.zones[z].settings.correction) := by
  unfold probeOrder
  dsimp only
  rw [hz, index_eq_some]
  dsimp only
  rw [step, free]
  rfl

theorem ProbeWork.result_length (w : ProbeWork) (z : Fin 4) (level : Option Byte) : (w.result z level).length = 6 := by
  cases level <;> rfl

/-- An answer that no probe waits for (R115). -/
theorem State.answer_stray {x : State} {z : Fin 4} {i level : Byte}
    (h : ∀ w, x.links[z].slot = some w → w.probeId ≠ i) :
    x.answer z i level = x.onLink z fun l => { l with stray := min (l.stray + 1) 255 } := by
  unfold State.answer
  split
  · next w hw => exact if_neg (h w hw)
  · rfl

theorem State.answer_ends {x : State} {z : Fin 4} {w : ProbeWork} (h : x.links[z].slot = some w) (level : Byte) :
    x.answer z w.probeId level = x.endProbe z w .done .none (some level) := by
  unfold State.answer
  rw [h]
  exact if_pos rfl

/-- What the end of a waiting probe leaves of everything but its order's cells. -/
theorem State.endProbe_keeps (b x : State) (z : Fin 4) (w : ProbeWork) (outcome : OrderOutcome) (reason : Reason)
    (level : Option Byte) :
    let t := b.finish (x.endProbe z w outcome reason level)
    t.links[z] = { x.links[z] with slot := none } ∧ x.otherZonesKept t z ∧ t.zones = x.zones ∧ x.samePlan t ∧
      t.engine = x.engine ∧ t.free = x.free := by
  let y : State := x.onLink z fun l => { l with slot := none }
  let r := w.result z level
  have links : (x.endProbe z w outcome reason level).links = y.links := y.close_links w.order outcome reason 0 [r]
  have zones : (x.endProbe z w outcome reason level).zones = x.zones := y.close_zones w.order outcome reason 0 [r]
  have link : ∀ v : Fin 4, (x.endProbe z w outcome reason level).links[v] =
      if v = z then { x.links[z] with slot := none } else x.links[v] := fun v => by
    rw [links]
    exact x.onLink_get z v _
  have zone : ∀ v : Fin 4, (x.endProbe z w outcome reason level).zones[v] = x.zones[v] := fun v => by rw [zones]
  exact ⟨(link z).trans (if_pos rfl), fun v hv => ⟨(link v).trans (if_neg hv), zone v⟩, zones,
    ⟨y.close_site w.order outcome reason 0 [r], y.close_plan w.order outcome reason 0 [r],
      y.close_census w.order outcome reason 0 [r], y.close_spares w.order outcome reason 0 [r]⟩,
    y.close_engine w.order outcome reason 0 [r], y.close_free w.order outcome reason 0 [r]⟩

theorem State.endProbe_ends {s x b : State} {z : Fin 4} {w : ProbeWork} (ok : s.ordersOk) (mem : s.memoryOk)
    (slot : s.links[z].slot = some w) (outcome : OrderOutcome) (reason : Reason) (level : Option Byte)
    (port : x.port = s.port) (reports : x.reports = s.reports) (now : x.now = s.now) (pending : x.pending = s.pending) :
    s.ends (b.finish (x.endProbe z w outcome reason level)) w.order outcome reason 0 [w.result z level] ∧
      s.aloneWith (b.finish (x.endProbe z w outcome reason level)) w.order outcome [w.result z level] :=
  ok.closes (x := x.onLink z fun l => { l with slot := none }) mem (State.mem_working_of_slot slot) outcome reason 0
    (fun l hl => by rw [List.mem_singleton.1 hl, ProbeWork.result_length]; decide) port reports now pending

theorem State.otherZonesKept.trans {s x t : State} {z : Fin 4} (h : s.otherZonesKept x z) (k : x.otherZonesKept t z) :
    s.otherZonesKept t z := fun y hy => ⟨(k y hy).1.trans (h y hy).1, (k y hy).2.trans (h y hy).2⟩

theorem exec_probeAnswer (z : Fin 4) (i level : Byte) (s : State) :
    exec (.probeAnswer z i level) s = .next (s.finish ((s.validFrame z).answer z i level)).arbitrate := rfl

theorem exec_probeDeadline {z : Fin 4} {s : State} {w : ProbeWork} (h : s.links[z].slot = some w) :
    exec (.probeDeadline z) s = .next (s.finish
      (State.endProbe { s with now := max s.now w.deadline } z w .failed .noAnswer none)).arbitrate := by
  show execProbeDeadline z s = _
  unfold execProbeDeadline
  rw [h]

end Sys2Proof.Machine

open Sys2Proof Sys2Proof.Machine

/-- Settles O45. -/
theorem probeWaitsAndEnds : Obligations.ProbeWaitsAndEnds := by
  refine ⟨fun s u o z h hz step free => ?_, fun s z => ⟨fun w level ok mem slot => ?_, fun i level stray => ?_,
    fun w ok mem slot => ?_⟩⟩
  · have asks := probeOrder_asks (x := s.begin u o) ((State.begin_param ..).trans hz)
      ((congrArg validStep (State.begin_param ..)).trans step) free
    rw [State.begin_param, State.begin_param] at asks
    have links := fun y => (s.begin u o).onLink_get z y fun l =>
      l.ask o (s.param o 2 2) (s.param o 1 1) s.now s.zones[z].settings.correction
    exact ⟨_, h.run asks, (links z).trans (if_pos rfl), fun y hy => (links y).trans (if_neg hy), rfl, ⟨rfl, rfl, rfl, rfl⟩, rfl, rfl, rfl, rfl, rfl, rfl⟩
  · have waits : (s.validFrame z).links[z].slot = some w := by rw [s.validFrame_link]; exact slot
    have run := exec_probeAnswer z w.probeId level s
    rw [State.answer_ends waits] at run
    obtain ⟨link, others, zones, plan, engine, drawn⟩ := s.endProbe_keeps (s.validFrame z) z w .done .none (some level)
    rw [s.validFrame_link] at link
    refine ⟨_, run, State.frameTaken_of (by rw [link]) (by rw [link]) (by rw [link]) (by rw [zones]), link,
      (s.validFrame_others z).trans others, plan, engine, drawn,
      State.endProbe_ends ok mem slot .done .none (some level) rfl rfl rfl rfl⟩
  · have run := exec_probeAnswer z i level s
    rw [State.answer_stray (by rw [s.validFrame_link]; exact stray)] at run
    have links := fun y => (s.validFrame z).onLink_get z y fun l => { l with stray := min (l.stray + 1) 255 }
    have link := (links z).trans (if_pos rfl)
    rw [s.validFrame_link] at link
    exact ⟨_, run, State.frameTaken_of (congrArg Link.lastValid link) (congrArg Link.good link)
      (congrArg Link.receiver link) rfl, link,
      (s.validFrame_others z).trans fun y hy => ⟨(links y).trans (if_neg hy), rfl⟩,
      ⟨rfl, rfl, rfl, rfl⟩, rfl, rfl, rfl, rfl, rfl, rfl⟩
  · let r : State := { s with now := max s.now w.deadline }
    obtain ⟨link, others, zones, plan, engine, drawn⟩ := s.endProbe_keeps r z w .failed .noAnswer none
    exact ⟨_, exec_probeDeadline slot, link, others, zones, plan, engine, drawn,
      State.endProbe_ends (s := r) ok mem slot .failed .noAnswer none rfl rfl rfl rfl⟩

end


section
/-! What the removal of tentatives leaves: the rollback of a PLACE, and the beginning of an exchange reset (R78, R143,
R156). -/

namespace Sys2Proof.Machine

/-! ### The removal of tentatives -/

/-- The plan, the census, the spare lists and the routine list change alone. -/
def State.planChange (s x : State) : Prop :=
  x = { s with plan := x.plan, census := x.census, spares := x.spares,
               engine := { s.engine with routine := x.engine.routine } }

theorem State.planChange.trans {s x y : State} (h : s.planChange x) (k : x.planChange y) : s.planChange y := by
  unfold State.planChange at h k ⊢
  rw [k, h]

namespace State.planChange

section
variable {s x : State} (h : s.planChange x)
include h

theorem site : x.site = s.site := by
  unfold State.planChange at h
  rw [h]

theorem links : x.links = s.links := by
  unfold State.planChange at h
  rw [h]

theorem zones : x.zones = s.zones := by
  unfold State.planChange at h
  rw [h]

theorem port : x.port = s.port := by
  unfold State.planChange at h
  rw [h]

theorem reports : x.reports = s.reports := by
  unfold State.planChange at h
  rw [h]

theorem now : x.now = s.now := by
  unfold State.planChange at h
  rw [h]

theorem free : x.free = s.free := by
  unfold State.planChange at h
  rw [h]

theorem pending : x.pending = s.pending := by
  unfold State.planChange at h
  rw [h]

theorem context : x.engine.routineContext = s.engine.routineContext := by
  unfold State.planChange at h
  rw [h]

theorem urgentContext : x.engine.urgentContext = s.engine.urgentContext := by
  unfold State.planChange at h
  rw [h]

/-- With more entries on the routine list. -/
theorem engine {l : List Entry} (routine : x.engine.routine = s.engine.routine ++ l) :
    x.engine = { s.engine with routine := s.engine.routine ++ l } := by
  unfold State.planChange at h
  rw [← routine]
  exact congrArg State.engine h

end

end State.planChange

theorem State.removeStep_rest (s : State) (c : Fin 256) (r : ChannelRecord) (h : Hold) (second : Bool) (f : Nat) :
    s.planChange (s.removeStep c r h second f) := by
  unfold State.planChange State.removeStep State.removed
  split <;> rfl

/-- The frequency that the entries of a stack have chosen for a channel. -/
def chosenFor (l : List StackEntry) (c : Fin 256) : Option Nat :=
  (l.find? fun e => e.item.channel = c ∧ e.chosen.isSome).bind StackEntry.chosen

theorem chosenFor_cons (e : StackEntry) (l : List StackEntry) (c : Fin 256) :
    chosenFor (e :: l) c = if e.item.channel = c ∧ e.chosen.isSome = true then e.chosen else chosenFor l c := by
  unfold chosenFor
  rw [List.find?_cons]
  by_cases h : e.item.channel = c ∧ e.chosen.isSome = true
  · rw [if_pos h, decide_eq_true h]
    rfl
  · rw [if_neg h, decide_eq_false h]

theorem chosenFor_append (a b : List StackEntry) (c : Fin 256) :
    chosenFor (a ++ b) c = (chosenFor a c).or (chosenFor b c) := by
  induction a with
  | nil => rfl
  | cons e l ih =>
    rw [List.cons_append, chosenFor_cons, chosenFor_cons, ih]
    by_cases h : e.item.channel = c ∧ e.chosen.isSome = true
    · obtain ⟨f, chosen⟩ := Option.isSome_iff_exists.1 h.2
      rw [if_pos h, if_pos h, chosen]
      rfl
    · rw [if_neg h, if_neg h]

/-- How many entries of a stack have a chosen frequency. -/
def chosenCount (l : List StackEntry) : Nat := l.countP fun e => e.chosen.isSome

/-- What the removal of the tentatives of some stack entries leaves: the plan, the census, the spare lists and the routine
list change alone; each of their channels is DEFINED, each removal is a plan change, and UPKEEP is queued. -/
structure State.Cleared (s x : State) (l : List StackEntry) : Prop where
  rest : s.planChange x
  channel : ∀ c, x.channel c = (s.channel c).map fun r =>
    { r with hold := (chosenFor l c).elim r.hold fun _ => .defined }
  epoch : x.plan.epoch = s.plan.epoch + BitVec.ofNat 32 (chosenCount l)
  queues : State.Queues (fun _ => true) s x
  same : chosenCount l = 0 → x = s
  upkept : chosenCount l ≠ 0 → State.Upkept (fun _ => true) s x

theorem State.clearTentative_none {s : State} {e : StackEntry} (h : e.chosen = none) : s.clearTentative e = s := by
  unfold State.clearTentative
  rw [h]
  cases s.channel e.item.channel <;> rfl

theorem State.clearTentative_some {s : State} {e : StackEntry} {r : ChannelRecord} {f : Nat}
    (hr : s.channel e.item.channel = some r) (h : e.chosen = some f) :
    s.clearTentative e = s.removeStep e.item.channel r .defined false f := by
  unfold State.clearTentative
  rw [hr, h]

theorem State.removeStep_channel {s : State} {c : Fin 256} {r : ChannelRecord} (h : Hold) (second : Bool) (f : Nat)
    (d : Fin 256) : (s.removeStep c r h second f).channel d =
      if d = c then (s.channel c).map fun r => { r with hold := h } else s.channel d := by
  exact (congrArg (fun p : Plan => p.channels[d]) (s.removeStep_plan c r h second f)).trans (s.plan.setHold_get c d h)

/-- The removal of one tentative. -/
theorem State.clearTentative_cleared {s : State} {e : StackEntry} (h : (s.channel e.item.channel).isSome = true) :
    s.Cleared (s.clearTentative e) [e] := by
  obtain ⟨r, hr⟩ := Option.isSome_iff_exists.1 h
  cases chosen : e.chosen with
  | none =>
    rw [State.clearTentative_none chosen]
    have none : ∀ c, chosenFor [e] c = none := fun c => by
      rw [chosenFor_cons, chosen]
      exact ite_self _
    have zero : chosenCount [e] = 0 := by simp [chosenCount, chosen]
    refine ⟨rfl, fun c => ?_, ?_, .refl _ s, fun _ => rfl, fun some => absurd zero some⟩
    · simp only [none, Option.elim_none]
      exact (congrFun Option.map_id _).symm
    · rw [zero]
      exact (BitVec.add_zero _).symm
  | some f =>
    rw [State.clearTentative_some hr chosen]
    have one : chosenCount [e] = 1 := by simp [chosenCount, chosen]
    have upkept := State.Upkept.removeStep (.refl _ s) e.item.channel r .defined false f
    refine ⟨State.removeStep_rest .., fun c => ?_, ?_, upkept.toQueues, fun none => ?_, fun _ => upkept⟩
    · rw [State.removeStep_channel, chosenFor_cons, chosen]
      by_cases here : c = e.item.channel
      · rw [if_pos here, here, if_pos ⟨rfl, rfl⟩]
        rfl
      · rw [if_neg here, if_neg fun k => here k.1.symm]
        exact (congrFun Option.map_id _).symm
    · rw [one]
      exact congrArg Plan.epoch (State.removeStep_plan ..)
    · rw [one] at none
      exact absurd none (by decide)

theorem State.Cleared.trans {s x y : State} {a b : List StackEntry} (h : s.Cleared x a) (k : x.Cleared y b) :
    s.Cleared y (a ++ b) where
  rest := h.rest.trans k.rest
  channel c := by
    rw [k.channel, h.channel, Option.map_map]
    refine congrArg (fun f => Option.map f (s.channel c)) (funext fun r => ?_)
    rw [Function.comp_apply, chosenFor_append]
    cases chosenFor a c <;> cases chosenFor b c <;> rfl
  epoch := by
    rw [k.epoch, h.epoch, BitVec.add_assoc, ← BitVec.ofNat_add]
    unfold chosenCount
    rw [List.countP_append]
  queues := h.queues.trans k.queues
  same none := by
    unfold chosenCount at none
    rw [List.countP_append] at none
    exact (k.same (by unfold chosenCount; omega)).trans (h.same (by unfold chosenCount; omega))
  upkept some := by
    by_cases last : chosenCount b = 0
    · rw [k.same last]
      refine h.upkept fun none => some ?_
      unfold chosenCount at none last ⊢
      rw [List.countP_append, none, last]
    · exact h.queues.upkept (k.upkept last)

theorem State.cleared {l : List StackEntry} {s : State} (h : ∀ e ∈ l, (s.channel e.item.channel).isSome = true) :
    s.Cleared (l.foldl State.clearTentative s) l := by
  induction l generalizing s with
  | nil => exact ⟨rfl, fun c => (congrFun Option.map_id _).symm, (BitVec.add_zero _).symm, .refl _ s, fun _ => rfl,
      fun some => absurd rfl some⟩
  | cons e l ih =>
    have first := State.clearTentative_cleared (h e (List.mem_cons_self ..))
    refine first.trans (ih fun d hd => ?_)
    rw [first.channel, Option.isSome_map]
    exact h d (List.mem_cons_of_mem _ hd)

theorem Engine.joined_self (e : Engine) : e.joined e = [] := by
  unfold Engine.joined
  rw [List.filter_eq_nil_iff.2 fun b _ => by simp]
  rfl

/-- The UPKEEP entries of the whole event. -/
theorem State.Cleared.joined {s x : State} {l : List StackEntry} (h : s.Cleared x l) :
    s.engine.joined x.engine = if chosenCount l = 0 then [] else s.allShort x := by
  by_cases none : chosenCount l = 0
  · rw [if_pos none, h.same none, Engine.joined_self]
  · rw [if_neg none]
    exact (h.upkept none).joined_eq

/-- What the rollback of a search leaves. -/
theorem State.rollback_eq {s : State} {w : PlaceWork} (h : ∀ e ∈ w.stack, (s.channel e.item.channel).isSome = true) :
    let x := w.stack.foldl State.clearTentative s
    s.rollback w = { s with
      plan := x.plan.clearMarks, census := x.census, spares := x.spares,
      engine := { s.engine with
        routine := s.engine.routine ++ if w.placedCount = 0 then [] else s.allShort x } } := by
  have k := State.cleared h
  have joined := k.joined
  unfold State.rollback State.inStageOrder State.clearMarks
  rw [joined, k.rest]
  rfl

theorem Plan.clearMarks_get (p : Plan) (c : Fin 256) :
    p.clearMarks.channels[c] = (p.channels[c]).map fun r => { r with mark := none } := mapTable_get _ _ _

/-- The channels after a rollback. -/
theorem State.rollback_ended {s t : State} {w : PlaceWork}
    (h : ∀ e ∈ w.stack, (s.channel e.item.channel).isSome = true)
    (plan : t.plan = (w.stack.foldl State.clearTentative s).plan.clearMarks) :
    s.searchEnded t w (fun _ => .defined) ∧ t.plan.epoch = s.plan.epoch + BitVec.ofNat 32 w.placedCount := by
  have k := State.cleared h
  refine ⟨fun c => ?_, (congrArg Plan.epoch plan).trans k.epoch⟩
  have channel := (congrArg (fun p : Plan => p.channels[c]) plan).trans (Plan.clearMarks_get _ c)
  refine channel.trans ?_
  rw [show (w.stack.foldl State.clearTentative s).plan.channels[c] = _ from k.channel c, Option.map_map]
  rfl

/-! ### The beginning of an exchange reset -/

theorem State.foldl_clearTentative_rest (l : List StackEntry) (s : State) :
    s.planChange (l.foldl State.clearTentative s) := by
  induction l generalizing s with
  | nil => rfl
  | cons e l ih =>
    refine State.planChange.trans ?_ (ih (s.clearTentative e))
    unfold State.clearTentative
    split
    · exact State.removeStep_rest ..
    · rfl

/-- What the handed routine work leaves when an exchange reset discards it. -/
structure State.Abandons (s y : State) (l : List Entry) : Prop where
  rest : y = { s with
    plan := y.plan, census := y.census, spares := y.spares
    engine := { s.engine with routine := s.engine.routine ++ l, routineContext := y.engine.routineContext }
    port := { s.port with raw := y.port.raw } }
  internal : ∀ e ∈ l, e.isInternal = true
  ends : s.engine.routineContext.work.bind Work.order ≠ none → y.engine.routineContext = .idle
  goesOn : s.engine.routineContext.work.bind Work.order = none → y.engine.routineContext = s.engine.routineContext

theorem State.abandons_self {s : State} (h : s.engine.routineContext.work.bind Work.order = none) : s.Abandons s [] :=
  ⟨by rw [List.append_nil], nofun, fun order => absurd h order, fun _ => rfl⟩

/-- Handed work that leaves the engine and the port, but for CENSUS, as they are. -/
theorem State.abandons_idle {s x : State} (order : s.engine.routineContext.work.bind Work.order ≠ none) {l : List Entry}
    (rest : x = { s with plan := x.plan, census := x.census, spares := x.spares
                         engine := { s.engine with routine := s.engine.routine ++ l }
                         port := { s.port with raw := x.port.raw } })
    (internal : ∀ e ∈ l, e.isInternal = true) : s.Abandons x.idleRoutine l := by
  refine ⟨?_, internal, fun _ => rfl, fun none => absurd none order⟩
  rw [rest]
  rfl

theorem State.stale_rest (s : State) (cause : CensusCause) : s.stale cause = { s with
    census := { s.census with state := .stale, cause := cause }
    port := { s.port with raw := if s.census.state = .stale then s.port.raw else s.port.raw ||| censusBit } } := by
  unfold State.stale
  split <;> rfl

theorem State.abandonWork_abandons (s : State) : ∃ l, s.Abandons s.abandonWork l := by
  unfold State.abandonWork
  split
  · next w h =>
    refine ⟨s.engine.joined (w.stack.foldl State.clearTentative s).engine,
      State.abandons_idle (by rw [h]; exact nofun) ?_ (Engine.joined_internal _ _)⟩
    have rest := State.foldl_clearTentative_rest w.stack s
    unfold State.rollback State.inStageOrder State.clearMarks
    rw [rest]
  · next w h =>
    split
    · next some =>
      refine ⟨[], State.abandons_idle ?_ ?_ nofun⟩
      · rw [h]
        exact fun none => Option.ne_none_iff_isSome.2 some none
      · rw [State.stale_rest, List.append_nil]
    · next none => exact ⟨[], State.abandons_self (by rw [h]; exact Option.not_isSome_iff_eq_none.1 none)⟩
  · next w h => exact ⟨[], State.abandons_idle (by rw [h]; exact nofun) (by rw [List.append_nil]) nofun⟩
  · next w h => exact ⟨[], State.abandons_idle (by rw [h]; exact nofun) (by rw [List.append_nil]) nofun⟩
  · next w h => exact ⟨[], State.abandons_self (by rw [h]; rfl)⟩
  · next h => exact ⟨[], State.abandons_self (by rw [h]; rfl)⟩
  · next h => exact ⟨[], State.abandons_self (by rw [h]; rfl)⟩

/-- Work that an exchange reset leaves as it is, or ends with no effect on the model. -/
theorem State.abandonWork_plain {s : State} (place : ∀ w, s.engine.routineContext.work ≠ some (.place w))
    (rebuild : ∀ w o, s.engine.routineContext.work = some (.rebuild w) → w.order ≠ some o) :
    s.abandonWork = s ∨ s.abandonWork = s.idleRoutine := by
  unfold State.abandonWork
  split
  · next w h => exact absurd h (place w)
  · next w h =>
    refine .inl (if_neg fun some => ?_)
    obtain ⟨o, order⟩ := Option.isSome_iff_exists.1 some
    exact rebuild w o h order
  · exact .inr rfl
  · exact .inr rfl
  · exact .inl rfl
  · exact .inl rfl
  · exact .inl rfl

theorem State.abandonWork_place {s : State} {w : PlaceWork} (h : s.engine.routineContext.work = some (.place w)) :
    s.abandonWork = (s.rollback w).idleRoutine := by
  unfold State.abandonWork
  rw [h]

theorem State.abandonWork_rebuild {s : State} {w : RebuildWork} {o : Handed}
    (h : s.engine.routineContext.work = some (.rebuild w)) (order : w.order = some o) :
    s.abandonWork = (s.stale .abandoned).idleRoutine := by
  unfold State.abandonWork
  rw [h]
  dsimp only
  rw [order]
  rfl

theorem State.shortEntries_internal (s t : State) (triggered : Fin 8 → Bool) :
    ∀ e ∈ s.shortEntries t triggered, e.isInternal = true := by
  intro e h
  obtain ⟨b, -, rfl⟩ := List.mem_map.1 h
  rfl

theorem filter_internal {l : List Entry} (h : ∀ e ∈ l, e.isInternal = true) (r : List Entry) :
    (r ++ l).filter Entry.isInternal = r.filter Entry.isInternal ++ l := by
  rw [List.filter_append, List.filter_eq_self.2 h]

end Sys2Proof.Machine

open Sys2Proof Sys2Proof.Machine

/-- Settles O57. -/
theorem exchangeResetBegins : Obligations.ExchangeResetBegins := by
  refine fun s run auto => ⟨fun h => ?_, fun r h k => ?_, fun r h k => ?_⟩
  · have begins : exec (.exchangeReset run auto) s = .next (s.finish (s.beginExchange run auto)).arbitrate := by
      show execExchangeReset run auto s = _
      unfold execExchangeReset
      rw [h]
      rfl
    obtain ⟨l, abandons⟩ := s.abandonWork_abandons
    have rest := abandons.rest
    have routine : s.abandonWork.engine.keepInternal.routine = s.engine.routine.filter Entry.isInternal ++ l :=
      (congrArg (fun x : State => x.engine.keepInternal.routine) rest).trans (filter_internal abandons.internal _)
    refine ⟨_, begins, (congrArg State.site rest :), (congrArg State.zones rest :), fun z => ?_,
      (congrArg State.reports rest :), (congrArg State.free rest :), (congrArg State.now rest :),
      (congrArg State.pending rest :), (congrArg (fun x : State => x.engine.keepInternal.urgent) rest :),
      ⟨l, abandons.internal, routine⟩, (congrArg (fun x : State => x.engine.urgentContext) rest :), abandons.ends,
      abandons.goesOn, Port.cell_freed (congrArg (fun x : State => (x.port.beginReset .exchange 0).cells) rest :), ?_,
      fun w hw channels => ?_, fun w o hw order => ?_, fun place rebuild => ?_⟩
    · refine (mapTable_get _ _ _).trans ?_
      rw [rest]
    · exact (congrArg (fun x : State => { (x.port.switches run auto).beginReset .exchange x.now with
        cells := (s.finish (s.beginExchange run auto)).port.cells
        header := (s.finish (s.beginExchange run auto)).port.header
        line := (s.finish (s.beginExchange run auto)).port.line }) rest :)
    · have eq := (State.abandonWork_place hw).trans (congrArg State.idleRoutine (State.rollback_eq channels))
      obtain ⟨ended, epoch⟩ := State.rollback_ended (t := s.finish (s.beginExchange run auto)) channels
        (congrArg State.plan eq :)
      refine ⟨ended, epoch, (congrArg State.census eq :), (congrArg State.spares eq :), ?_⟩
      have short : ∀ e ∈ (if w.placedCount = 0 then [] else s.allShort (w.stack.foldl State.clearTentative s)),
          e.isInternal = true := by
        split
        · nofun
        · exact State.shortEntries_internal _ _ _
      refine (congrArg (fun x : State => x.engine.keepInternal.routine) eq).trans ?_
      refine (filter_internal short _).trans ?_
      have same : s.allShort (w.stack.foldl State.clearTentative s) = s.allShort (s.finish (s.beginExchange run auto)) := by
        have site := (congrArg State.site rest).trans (congrArg State.site (State.foldl_clearTentative_rest w.stack s)).symm
        exact State.shortEntries_congr _ (fun _ => rfl) (fun _ => rfl) (congrArg State.spares eq :).symm
          fun b => (congrArg (Site.target · b) site).symm
      rw [same]
    · have eq := (State.abandonWork_rebuild hw order).trans (congrArg State.idleRoutine (s.stale_rest .abandoned))
      exact ⟨(congrArg State.census eq :), (congrArg State.plan eq :), (congrArg State.spares eq :),
        (congrArg (fun x : State => x.engine.keepInternal.routine) eq :), (congrArg (fun x : State => x.port.raw) eq :)⟩
    · rcases State.abandonWork_plain place rebuild with eq | eq
      · exact ⟨⟨(congrArg State.site eq :), (congrArg State.plan eq :), (congrArg State.census eq :),
          (congrArg State.spares eq :)⟩, (congrArg (fun x : State => x.port.raw) eq :),
          (congrArg (fun x : State => x.engine.keepInternal.routine) eq :)⟩
      · exact ⟨⟨(congrArg State.site eq :), (congrArg State.plan eq :), (congrArg State.census eq :),
          (congrArg State.spares eq :)⟩, (congrArg (fun x : State => x.port.raw) eq :),
          (congrArg (fun x : State => x.engine.keepInternal.routine) eq :)⟩
  · refine ⟨s.finish s.misuse, ?_, s.finish_misuse⟩
    show execExchangeReset run auto s = _
    unfold execExchangeReset
    rw [h, Option.map_some]
    cases kind : r.kind with
    | powerOn => exact absurd kind k
    | soft => rfl
    | exchange => rfl
  · show execExchangeReset run auto s = _
    unfold execExchangeReset
    rw [h, Option.map_some, k]

end


section
/-! The resumption of suspended work (R46, R91, R137). -/

namespace Sys2Proof.Machine

theorem exec_resumption {s : State} {w : Work} (h : s.arbiter = some (.resume w)) :
    exec .resumption s = .next (s.finish (s.resume w)) := by
  show execResumption s = _
  unfold execResumption
  rw [h]
  rfl

theorem State.resume_rebuild_same {s : State} {x : RebuildWork} (epoch : s.plan.epoch = x.epoch)
    (generation : s.site.generation = x.generation) : s.resume (.rebuild x) = s.runWith (.rebuild x) :=
  if_pos ⟨epoch, generation⟩

theorem State.resume_rebuild_changed {s : State} {x : RebuildWork}
    (h : s.plan.epoch ≠ x.epoch ∨ s.site.generation ≠ x.generation) : s.resume (.rebuild x) = s.restartRebuild x :=
  if_neg fun same => h.elim (· same.1) (· same.2)

end Sys2Proof.Machine

open Sys2Proof Sys2Proof.Machine

/-- Settles O51. -/
theorem resumptionGoesOn : Obligations.ResumptionGoesOn := by
  intro s w h back anew
  have resumes := exec_resumption h
  have runs : ∀ v, s.resume w = s.runWith v → ∃ t, back t v ∧ t.census = s.census := fun v eq =>
    ⟨s.finish (s.runWith v), ⟨resumes.trans (by rw [eq]), rfl, rfl, rfl, rfl, ⟨rfl, rfl⟩, rfl, rfl, rfl, rfl, rfl⟩, rfl⟩
  have restart : s.restartUpkeep = anew := by
    funext v
    unfold State.restartUpkeep
    dsimp only [anew]
    cases s.site.stages[v.stage] <;> rfl
  refine ⟨?_, ?_, ?_, ?_, ?_⟩
  · rintro (⟨x, rfl⟩ | ⟨x, rfl⟩)
    · exact runs _ rfl
    · exact runs _ rfl
  · rintro x rfl epoch generation
    exact runs _ (State.resume_rebuild_same epoch generation)
  · rintro x rfl changed
    have eq := State.resume_rebuild_changed changed
    refine ⟨s.finish (s.restartRebuild x), ⟨resumes.trans (by rw [eq]), rfl, rfl, rfl, rfl, ⟨rfl, rfl⟩, rfl, rfl, rfl,
      rfl, rfl⟩, rfl⟩
  · rintro x rfl
    exact runs _ (by rw [← restart]; rfl)
  · rintro x rfl
    exact runs _ (by rw [← restart]; rfl)

end


section
/-! A step of PLACE: the search goes on, backtracks, passes a channel over, or ends (R71 to R78). -/

namespace Sys2Proof.Machine

/-! ### The next depth -/

/-- The next depth of a search: channels with an empty walk are passed over before it (R71, R76). -/
theorem PlaceWork.push_reaches {i : PlaceItem} {l : List PlaceItem} :
    ∀ {a : List PlaceItem} {w : PlaceWork}, (∀ x ∈ a, x.walk.length = 0) → (w.bestEffort = false → a = []) →
      (w.bestEffort = true → i.walk.length ≠ 0) →
      w.push (a ++ i :: l) = { w with
        stack := { item := i, cursor := 0, chosen := none } :: w.stack
        rest := l
        unplaced := w.unplaced ++ a.map fun x => (x.channel, .noCandidate)
        deepest := max w.deepest (w.total - l.length - 1) }
  | [], w, _, _, walks => by
    have reached : ¬ (w.bestEffort && decide (i.walk.length = 0)) = true := by
      rw [Bool.and_eq_true, decide_eq_true_eq]
      exact fun both => walks both.1 both.2
    rw [List.nil_append, PlaceWork.push, if_neg reached, List.map_nil, List.append_nil]
  | x :: a, w, empty, all, walks => by
    have best : w.bestEffort = true := by
      by_contra not
      exact absurd (all (Bool.eq_false_iff.2 not)) nofun
    have passed : (w.bestEffort && decide (x.walk.length = 0)) = true := by
      rw [best, empty x (List.mem_cons_self ..)]
      rfl
    let v : PlaceWork := { w with
      unplaced := w.unplaced ++ [(x.channel, .noCandidate)]
      deepest := max w.deepest (w.total - (a ++ i :: l).length - 1) }
    have ih := PlaceWork.push_reaches (i := i) (l := l) (a := a) (w := v)
      (fun y m => empty y (List.mem_cons_of_mem _ m)) (fun not => absurd (best.symm.trans not) nofun) walks
    rw [List.cons_append, PlaceWork.push, if_pos passed]
    refine ih.trans ?_
    have deep : max (max w.deepest (w.total - (a ++ i :: l).length - 1)) (w.total - l.length - 1) =
        max w.deepest (w.total - l.length - 1) := by
      rw [List.length_append, List.length_cons]
      omega
    show PlaceWork.mk .. = PlaceWork.mk ..
    congr 1
    exact List.append_assoc _ _ _

/-- A search with no channel left ahead that has a walk (R76, R77). -/
theorem PlaceWork.push_none :
    ∀ {l : List PlaceItem} {w : PlaceWork}, (∀ x ∈ l, x.walk.length = 0) → (w.bestEffort = false → l = []) →
      w.push l = { w with
        rest := []
        unplaced := w.unplaced ++ l.map fun x => (x.channel, .noCandidate)
        deepest := if l = [] then w.deepest else max w.deepest (w.total - 1) }
  | [], w, _, _ => by rw [PlaceWork.push, List.map_nil, List.append_nil, if_pos rfl]
  | x :: l, w, empty, all => by
    have best : w.bestEffort = true := by
      by_contra not
      exact absurd (all (Bool.eq_false_iff.2 not)) nofun
    have passed : (w.bestEffort && decide (x.walk.length = 0)) = true := by
      rw [best, empty x (List.mem_cons_self ..)]
      rfl
    let v : PlaceWork := { w with
      unplaced := w.unplaced ++ [(x.channel, .noCandidate)]
      deepest := max w.deepest (w.total - l.length - 1) }
    have ih := PlaceWork.push_none (l := l) (w := v) (fun y m => empty y (List.mem_cons_of_mem _ m))
      (fun not => absurd (best.symm.trans not) nofun)
    rw [PlaceWork.push, if_pos passed]
    refine ih.trans ?_
    have deep : (if l = [] then max w.deepest (w.total - l.length - 1) else
        max (max w.deepest (w.total - l.length - 1)) (w.total - 1)) = max w.deepest (w.total - 1) := by
      split
      · next none => rw [none]; rfl
      · omega
    show PlaceWork.mk .. = PlaceWork.mk ..
    congr 1
    exact List.append_assoc _ _ _

/-! ### The top of the stack -/

theorem PlaceWork.top_cons {w : PlaceWork} {e : StackEntry} (h : w.top = some e) :
    w.stack = e :: w.stack.tail ∧ e.chosen = none := by
  obtain ⟨head, free⟩ := Option.filter_eq_some_iff.1 h
  exact ⟨List.eq_cons_of_mem_head? head |>.trans rfl, Option.isNone_iff_eq_none.1 free⟩

theorem PlaceWork.top_of {w : PlaceWork} {e : StackEntry} {l : List StackEntry} (h : w.stack = e :: l)
    (free : e.chosen = none) : w.top = some e := by
  unfold PlaceWork.top
  rw [h]
  exact Option.filter_eq_some_iff.2 ⟨rfl, by rw [free]; rfl⟩

theorem PlaceWork.top_none {w : PlaceWork} (h : ∀ e, w.stack.head? = some e → e.chosen.isSome = true) : w.top = none := by
  refine Option.filter_eq_none_iff.2 fun e head => ?_
  rw [Option.isNone_eq_false_iff.2 (h e head)]
  exact nofun

/-- A search whose top channel still has a candidate passes nothing over. -/
theorem PlaceWork.passOver_goes {w : PlaceWork} {e : StackEntry} (top : w.top = some e) (more : e.exhausted = false) :
    w.passOver = w := by
  unfold PlaceWork.passOver
  rw [top]
  dsimp only
  rw [more, Bool.and_false]
  rfl

theorem PlaceWork.passOver_gives {w : PlaceWork} {e : StackEntry} (top : w.top = some e) (spent : e.exhausted = true)
    (best : w.bestEffort = true) :
    w.passOver =
      PlaceWork.push { w with stack := w.stack.tail, unplaced := w.unplaced ++ [(e.item.channel, .noCandidate)] }
        w.rest := by
  unfold PlaceWork.passOver
  rw [top]
  dsimp only
  rw [spent, best]
  rfl

/-! ### One step -/

theorem exec_placeStep {s x : State} {w : PlaceWork} (h : s.running = some (.place w)) (p : s.placeStep w = x) :
    exec .placeStep s = .next (s.finish x).arbitrate := by
  subst p
  show execPlaceStep s = _
  unfold execPlaceStep
  rw [h]

theorem State.placeStep_evaluates {s : State} {w : PlaceWork} {e : StackEntry} (top : w.top = some e)
    (more : e.exhausted = false) (room : w.used < w.budget) : s.placeStep w = s.placeEvaluate w e := by
  unfold State.placeStep
  rw [PlaceWork.passOver_goes top more]
  dsimp only
  rw [top]
  exact if_neg (Nat.not_le.2 room)

theorem State.placeStep_budget {s : State} {w : PlaceWork} {e : StackEntry} (top : w.top = some e)
    (more : e.exhausted = false) (used : w.budget ≤ w.used) : s.placeStep w = s.budgetEnd w e := by
  unfold State.placeStep
  rw [PlaceWork.passOver_goes top more]
  dsimp only
  rw [top]
  exact if_pos used

/-- A candidate that passes. -/
theorem State.placeEvaluate_passes {s : State} {w : PlaceWork} {e : StackEntry} {r : ChannelRecord} {n : Nat}
    (hr : s.channel e.item.channel = some r) (pass : s.evaluateFor r (e.item.walk.at e.cursor) w.strict = .pass n) :
    s.placeEvaluate w e = s.placeTop { w with used := w.used + 1 } e r (e.item.walk.at e.cursor) := by
  unfold State.placeEvaluate
  dsimp only
  rw [hr]
  dsimp only
  rw [pass]

theorem State.placeEvaluate_fails {s : State} {w : PlaceWork} {e : StackEntry} {r : ChannelRecord} {n : Nat}
    (hr : s.channel e.item.channel = some r) (fails : s.evaluateFor r (e.item.walk.at e.cursor) w.strict = .fail n) :
    s.placeEvaluate w e = s.placeFail { w with used := w.used + 1 } e := by
  unfold State.placeEvaluate
  dsimp only
  rw [hr]
  dsimp only
  rw [fails]

theorem State.afterEvaluation_goes {x : State} {v : PlaceWork} {e : StackEntry} (top : v.top = some e) :
    x.afterEvaluation v = x.yieldWith (.place v) := by
  unfold State.afterEvaluation
  rw [top]
  rfl

/-- The completion of BEST_EFFORT (R76). -/
theorem State.bestEffortEnd_ends (x : State) {v : PlaceWork} (best : v.bestEffort = true) :
    x.bestEffortEnd v = (x.commit v).endPlace v true v.verdict.1 v.verdict.2 v.used := by
  unfold State.bestEffortEnd PlaceWork.verdict
  dsimp only
  by_cases all : v.placedCount = v.total
  · rw [if_pos all, if_pos (.inr all)]
  · have some : ¬ (v.bestEffort = false ∨ v.placedCount = v.total) :=
      fun h => h.elim (fun f => absurd (best.symm.trans f) nofun) all
    rw [if_neg all, if_neg some]
    by_cases none : v.placedCount = 0
    · rw [if_pos none, if_pos none]
    · rw [if_neg none, if_neg none]

/-- The end of a search that has run to its end (R76, R77). -/
theorem State.afterEvaluation_ends {x : State} {v : PlaceWork} (top : v.top = none)
    (stack : v.bestEffort = false → v.stack ≠ []) :
    x.afterEvaluation v = (x.commit v).endPlace v true v.verdict.1 v.verdict.2 v.used := by
  unfold State.afterEvaluation
  rw [top, if_neg nofun]
  cases best : v.bestEffort with
  | false =>
    unfold PlaceWork.verdict
    rw [if_neg nofun, if_neg (stack best), if_pos (.inl best)]
  | true => exact (if_pos rfl).trans (x.bestEffortEnd_ends best)

/-- A failure with candidates left in the walk (R72). -/
theorem State.placeFail_more {s : State} {w : PlaceWork} {e : StackEntry} (more : e.cursor + 1 < e.item.walk.length) :
    s.placeFail w e = s.afterEvaluation { w with stack := e.advance :: w.stack.tail } := by
  have left : e.advance.exhausted = false := decide_eq_false (Nat.not_le.2 more)
  unfold State.placeFail
  dsimp only
  rw [left]
  rfl

theorem StackEntry.advance_exhausted {e : StackEntry} (h : e.item.walk.length ≤ e.cursor + 1) :
    e.advance.exhausted = true := decide_eq_true h

/-- A failure that uses up the walk of the top channel in BEST_EFFORT (R76). -/
theorem State.placeFail_best {s : State} {w : PlaceWork} {e : StackEntry} (last : e.cursor + 1 = e.item.walk.length)
    (best : w.bestEffort = true) :
    s.placeFail w e = s.afterEvaluation (PlaceWork.push { w with
      stack := w.stack.tail, unplaced := w.unplaced ++ [(e.item.channel, .noCandidate)] } w.rest) := by
  have spent : e.advance.exhausted = true := StackEntry.advance_exhausted last.ge
  have passed := PlaceWork.passOver_gives (w := { w with stack := e.advance :: w.stack.tail })
    (PlaceWork.top_of rfl rfl) spent best
  unfold State.placeFail
  dsimp only
  rw [spent]
  exact (if_neg nofun).trans ((if_pos best).trans (congrArg s.afterEvaluation passed))

theorem State.placeFail_back {s : State} {w : PlaceWork} {e : StackEntry} (last : e.cursor + 1 = e.item.walk.length)
    (all : w.bestEffort = false) :
    let x := backtrack e.item w.stack.tail (s, { w with stack := e.advance :: w.stack.tail })
    s.placeFail w e = (s.inStageOrder x.1).afterEvaluation x.2 := by
  have spent : e.advance.exhausted = true := StackEntry.advance_exhausted last.ge
  unfold State.placeFail
  dsimp only
  rw [spent, all]
  rfl

/-- The search goes back to the nearest channel below whose walk is not used up (R74). -/
theorem backtrack_stops {b : StackEntry} {l : List StackEntry} (more : b.cursor + 1 < b.item.walk.length) :
    ∀ (a : List StackEntry) (item : PlaceItem) (s : State) (w : PlaceWork),
      (∀ x ∈ a, x.item.walk.length ≤ x.cursor + 1) →
      backtrack item (a ++ b :: l) (s, w) = ((a ++ [b]).foldl State.clearTentative s,
        { w with stack := b.advance :: l, rest := (a.map StackEntry.item).reverse ++ item :: w.rest })
  | [], item, s, w, _ => if_neg (by
      rw [show b.advance.exhausted = false from decide_eq_false (Nat.not_le.2 more)]
      exact nofun)
  | x :: a, item, s, w, spent => by
    have first : x.advance.exhausted = true := StackEntry.advance_exhausted (spent x (List.mem_cons_self ..))
    have ih := backtrack_stops (l := l) more a x.item (s.clearTentative x)
      { w with stack := x.advance :: (a ++ b :: l), rest := item :: w.rest }
      fun y m => spent y (List.mem_cons_of_mem _ m)
    rw [List.cons_append, backtrack]
    dsimp only
    rw [if_pos first, ih, List.map_cons, List.reverse_cons, List.append_assoc]
    rfl

/-- With every walk below used up the search goes back past the first channel (R75). -/
theorem backtrack_empties :
    ∀ (a : List StackEntry) (item : PlaceItem) (s : State) (w : PlaceWork),
      (∀ x ∈ a, x.item.walk.length ≤ x.cursor + 1) →
      ∃ rest, backtrack item a (s, w) = (a.foldl State.clearTentative s, { w with stack := [], rest := rest })
  | [], item, s, w, _ => ⟨_, rfl⟩
  | x :: a, item, s, w, spent => by
    have first : x.advance.exhausted = true := StackEntry.advance_exhausted (spent x (List.mem_cons_self ..))
    obtain ⟨rest, ih⟩ := backtrack_empties a x.item (s.clearTentative x)
      { w with stack := x.advance :: a, rest := item :: w.rest } fun y m => spent y (List.mem_cons_of_mem _ m)
    refine ⟨rest, ?_⟩
    rw [backtrack]
    dsimp only
    rw [if_pos first, ih]
    rfl

end Sys2Proof.Machine
end


section
/-! A step of PLACE does not read which search the routine context holds. -/

namespace Sys2Proof.Machine

/-- A state with another routine context. -/
def State.inContext (s : State) (k : RoutineContext) : State :=
  { s with engine := { s.engine with routineContext := k } }

/-- No UPKEEP is active in a context, nor in the one that stands in its place. -/
def State.plainContext (s : State) (k : RoutineContext) : Prop :=
  (∀ b, s.engine.upkeepActive b = false) ∧ ∀ b, (s.inContext k).engine.upkeepActive b = false

theorem State.plainContext.of_eq {s t : State} {k : RoutineContext} (h : s.plainContext k)
    (same : t.engine.routineContext = s.engine.routineContext) : t.plainContext k :=
  ⟨fun b => (Engine.upkeepActive_congr same b).trans (h.1 b),
    fun b => (Engine.upkeepActive_congr (e := (s.inContext k).engine) (f := (t.inContext k).engine) rfl b).trans (h.2 b)⟩

theorem State.queueUpkeep_inContext {s : State} {k : RoutineContext} (h : s.plainContext k) (l : List (Fin 8)) :
    (s.inContext k).queueUpkeep l = (s.queueUpkeep l).inContext k := by
  have entries : (s.inContext k).upkeepEntries l = s.upkeepEntries l := by
    unfold State.upkeepEntries
    congr 1
    refine List.filter_congr fun b _ => ?_
    rw [State.needsUpkeep_eq, State.needsUpkeep_eq, h.1, h.2]
    rfl
  unfold State.queueUpkeep
  rw [entries]
  rfl

/-- The spare lists after a recheck of some stages. -/
def State.recheckedSpares (s : State) (l : List (Fin 8)) : Vector (List Spare) 8 :=
  l.foldl (fun v (b : Fin 8) => v.set b (s.rechecked b)) s.spares

def State.withSpares (s : State) (v : Vector (List Spare) 8) : State := { s with spares := v }

theorem State.recheck_inContext {s : State} {k : RoutineContext} (h : s.plainContext k) (l : List (Fin 8)) :
    (s.inContext k).recheck l = (s.recheck l).inContext k := by
  have one : (s.inContext k).rechecked = s.rechecked := funext fun b =>
    State.rechecked_congr (s := s.inContext k) (t := s) (State.sparePasses_congr rfl rfl rfl) rfl rfl b
  have lists : (s.inContext k).recheckedSpares l = s.recheckedSpares l := by
    unfold State.recheckedSpares
    rw [one]
    rfl
  have queued := State.queueUpkeep_inContext (s := s.withSpares (s.recheckedSpares l)) (h.of_eq rfl) l
  rw [← lists] at queued
  refine Eq.trans ?_ (queued.trans ?_)
  · rfl
  · rw [lists]
    rfl

theorem State.settle_inContext {s : State} {k : RoutineContext} (h : s.plainContext k) :
    (s.inContext k).settle = s.settle.inContext k :=
  congrArg (fun t : State => { t with plan := t.plan.bump }) (State.recheck_inContext h allStages)

theorem State.added_inContext {s : State} {k : RoutineContext} (h : s.plainContext k) (x : Transmitter) :
    (s.inContext k).added x = (s.added x).inContext k := by
  by_cases valid : s.census.state = .valid
  · cases full : (Census.addAll (s.site.increments x (s.plan.others x)) s.census).2 with
    | false =>
      let y : State := { s with census := (Census.addAll (s.site.increments x (s.plan.others x)) s.census).1 }
      rw [State.added_of_fits valid full, State.added_of_fits (s := s.inContext k) valid full]
      exact State.settle_inContext (s := y) (h.of_eq rfl)
    | true =>
      let y : State :=
        State.stale { s with census := (Census.addAll (s.site.increments x (s.plan.others x)) s.census).1 } .saturated
      rw [State.added_of_saturates valid full, State.added_of_saturates (s := s.inContext k) valid full]
      exact State.settle_inContext (s := y) (h.of_eq rfl)
  · rw [State.added_of_not_valid x valid, State.added_of_not_valid (s := s.inContext k) x valid]
    exact State.settle_inContext h

theorem State.removed_inContext {s : State} {k : RoutineContext} (h : s.plainContext k) (x : Transmitter) :
    (s.inContext k).removed x = (s.removed x).inContext k := by
  unfold State.removed
  rw [show (s.inContext k).census.state = s.census.state from rfl]
  cases s.census.state with
  | valid =>
    let y : State := { s with census := Census.removeAll (s.site.increments x s.plan.transmitters) s.census }
    exact State.settle_inContext (s := y) (h.of_eq rfl)
  | stale => exact State.settle_inContext h
  | rebuilding => exact State.settle_inContext h

theorem State.clearTentative_inContext {s : State} {k : RoutineContext} (h : s.plainContext k) (e : StackEntry) :
    (s.inContext k).clearTentative e = (s.clearTentative e).inContext k := by
  cases chosen : e.chosen with
  | none => rw [State.clearTentative_none chosen, State.clearTentative_none chosen]
  | some f =>
    cases hr : s.channel e.item.channel with
    | none =>
      unfold State.clearTentative
      rw [show (s.inContext k).channel e.item.channel = none from hr, hr]
    | some r =>
      rw [State.clearTentative_some hr chosen, State.clearTentative_some (s := s.inContext k) hr chosen]
      exact State.removed_inContext (s := { s with plan := s.plan.setHold e.item.channel .defined }) (h.of_eq rfl) _

theorem State.clearTentative_rest (s : State) (e : StackEntry) : s.planChange (s.clearTentative e) :=
  State.foldl_clearTentative_rest [e] s

theorem State.foldl_clearTentative_inContext {k : RoutineContext} :
    ∀ (l : List StackEntry) {s : State}, s.plainContext k →
      l.foldl State.clearTentative (s.inContext k) = (l.foldl State.clearTentative s).inContext k
  | [], _, _ => rfl
  | e :: l, s, h => by
    rw [List.foldl_cons, List.foldl_cons, State.clearTentative_inContext h]
    exact State.foldl_clearTentative_inContext l (h.of_eq (s.clearTentative_rest e).context)

/-- The end of a search leaves the routine context. -/
theorem State.endPlace_inContext {x : State} (idle : x.engine.urgentContext = .idle) (k : RoutineContext)
    (w : PlaceWork) (committed : Bool) (outcome : OrderOutcome) (reason : Reason) (argument : Nat) :
    (x.inContext k).endPlace w committed outcome reason argument = x.endPlace w committed outcome reason argument := by
  have closed : ∀ payloads, (x.inContext k).close w.order outcome reason (BitVec.ofNat 32 argument) payloads =
      (x.close w.order outcome reason (BitVec.ofNat 32 argument) payloads).inContext k := fun payloads => by
    unfold State.close
    split <;> rfl
  have released : ∀ y : State, y.engine.urgentContext = .idle → (y.inContext k).release = y.release := fun y idle => by
    unfold State.release
    rw [Engine.release_idle idle, Engine.release_idle (e := (y.inContext k).engine) idle]
    rfl
  unfold State.endPlace State.conclude
  rw [closed, released _ (by rw [State.close_engine]; exact idle)]
  rfl

theorem State.bestEffortEnd_inContext {x : State} (idle : x.engine.urgentContext = .idle) (k : RoutineContext)
    (v : PlaceWork) : (x.inContext k).bestEffortEnd v = x.bestEffortEnd v := by
  have ends := fun (c : Bool) (a : OrderOutcome) (b : Reason) (n : Nat) =>
    State.endPlace_inContext (x := x.commit v) idle k v c a b n
  unfold State.bestEffortEnd
  rw [show (x.inContext k).commit v = (x.commit v).inContext k from rfl]
  simp only [ends]

theorem State.afterEvaluation_inContext {x : State} (idle : x.engine.urgentContext = .idle) (k : RoutineContext)
    (v : PlaceWork) : (x.inContext k).afterEvaluation v = x.afterEvaluation v := by
  have commits := State.endPlace_inContext (x := x.commit v) idle k v true .done .none v.used
  have clears := State.endPlace_inContext (x := x.clearMarks) idle k v false .failed .noCandidate v.deepest
  unfold State.afterEvaluation
  rw [State.bestEffortEnd_inContext idle, show (x.inContext k).commit v = (x.commit v).inContext k from rfl,
    show (x.inContext k).clearMarks = x.clearMarks.inContext k from rfl, commits, clears]
  rfl

theorem backtrack_rest : ∀ (l : List StackEntry) (item : PlaceItem) (y : State × PlaceWork),
    y.1.planChange (backtrack item l y).1
  | [], _, _ => rfl
  | e :: l, item, y => by
    unfold backtrack
    dsimp only
    split
    · exact (y.1.clearTentative_rest e).trans (backtrack_rest l e.item _)
    · exact y.1.clearTentative_rest e

theorem backtrack_inContext {k : RoutineContext} : ∀ (l : List StackEntry) (item : PlaceItem) {s : State} (w : PlaceWork),
    s.plainContext k → backtrack item l (s.inContext k, w) =
      ((backtrack item l (s, w)).1.inContext k, (backtrack item l (s, w)).2)
  | [], _, _, _, _ => rfl
  | e :: l, item, s, w, h => by
    unfold backtrack
    dsimp only
    rw [State.clearTentative_inContext h]
    split
    · exact backtrack_inContext l e.item _ (h.of_eq (s.clearTentative_rest e).context)
    · rfl

theorem State.rollback_inContext {s : State} {k : RoutineContext} (h : s.plainContext k) (w : PlaceWork) :
    (s.inContext k).rollback w = (s.rollback w).inContext k := by
  unfold State.rollback
  rw [State.foldl_clearTentative_inContext _ h]
  rfl

theorem State.placeFail_inContext {s : State} {k : RoutineContext} (h : s.plainContext k)
    (idle : s.engine.urgentContext = .idle) (w : PlaceWork) (e : StackEntry) :
    (s.inContext k).placeFail w e = s.placeFail w e := by
  unfold State.placeFail
  dsimp only
  rw [State.afterEvaluation_inContext idle, State.afterEvaluation_inContext idle, backtrack_inContext _ _ _ h]
  split
  · rfl
  · split
    · rfl
    · have rest := backtrack_rest w.stack.tail e.item (s, { w with stack := e.advance :: w.stack.tail })
      exact State.afterEvaluation_inContext (x := s.inStageOrder _) (rest.urgentContext.trans idle) k _

theorem State.addPrimary_urgentContext (s : State) (c : Fin 256) (r : ChannelRecord) (h : Hold) (f : Nat) :
    (s.addPrimary c r h f).engine.urgentContext = s.engine.urgentContext := by
  unfold State.addPrimary
  rw [State.added_engine]

theorem State.placeTop_inContext {s : State} {k : RoutineContext} (h : s.plainContext k)
    (idle : s.engine.urgentContext = .idle) (w : PlaceWork) (e : StackEntry) (r : ChannelRecord) (f : Nat) :
    (s.inContext k).placeTop w e r f = s.placeTop w e r f := by
  have added : (s.inContext k).addPrimary e.item.channel r (.tentative f) f =
      (s.addPrimary e.item.channel r (.tentative f) f).inContext k :=
    State.added_inContext (s := { s with plan := s.plan.setHold e.item.channel (.tentative f) }) (h.of_eq rfl) _
  unfold State.placeTop
  rw [added]
  exact State.afterEvaluation_inContext ((s.addPrimary_urgentContext ..).trans idle) k _

theorem State.placeEvaluate_inContext {s : State} {k : RoutineContext} (h : s.plainContext k)
    (idle : s.engine.urgentContext = .idle) (w : PlaceWork) (e : StackEntry) :
    (s.inContext k).placeEvaluate w e = s.placeEvaluate w e := by
  unfold State.placeEvaluate
  dsimp only
  rw [State.placeFail_inContext h idle, show (s.inContext k).channel e.item.channel = s.channel e.item.channel from rfl]
  cases s.channel e.item.channel with
  | none => rfl
  | some r =>
    dsimp only
    rw [State.placeTop_inContext h idle]
    rfl

/-- A step of a search gives the same from another context with no UPKEEP active. -/
theorem State.placeStep_inContext {s : State} {k : RoutineContext} (h : s.plainContext k)
    (idle : s.engine.urgentContext = .idle) (w : PlaceWork) : (s.inContext k).placeStep w = s.placeStep w := by
  have fails := State.endPlace_inContext (x := s.rollback w.passOver)
    ((State.foldl_clearTentative_rest w.passOver.stack s).urgentContext.trans idle) k w.passOver false .failed .budget w.passOver.used
  unfold State.placeStep
  dsimp only
  cases w.passOver.top with
  | none => exact State.afterEvaluation_inContext idle k _
  | some e =>
    dsimp only
    rw [State.placeEvaluate_inContext h idle]
    unfold State.budgetEnd
    rw [State.bestEffortEnd_inContext idle, State.rollback_inContext h, fails]

end Sys2Proof.Machine
end


section
/-! The steps of PLACE (R72 to R76). -/

namespace Sys2Proof.Machine

theorem PlaceWork.rest_passOver {w : PlaceWork} {i : PlaceItem} {l : List StackEntry} (h : w.stack = { item := i, cursor := 0, chosen := none } :: l)
    (walk : i.walk.length ≠ 0) : w.passOver = w :=
  PlaceWork.passOver_goes (PlaceWork.top_of h rfl) (decide_eq_false (by simpa using walk))

/-- A search that gives its top channel up and reaches the next one with a walk (R76). -/
theorem PlaceWork.gives_reaches {w : PlaceWork} {e : StackEntry} {i : PlaceItem} {a l : List PlaceItem}
    {below : List StackEntry} (rest : w.rest = a ++ i :: l) (empty : ∀ x ∈ a, x.walk.length = 0)
    (best : w.bestEffort = true) (walk : i.walk.length ≠ 0) :
    PlaceWork.push { w with stack := below, unplaced := w.unplaced ++ [(e.item.channel, .noCandidate)] } w.rest =
      { w with
        stack := { item := i, cursor := 0, chosen := none } :: below
        rest := l
        unplaced := w.unplaced ++ (e.item :: a).map fun x => (x.channel, .noCandidate)
        deepest := max w.deepest (w.total - l.length - 1) } := by
  let v : PlaceWork := { w with stack := below, unplaced := w.unplaced ++ [(e.item.channel, .noCandidate)] }
  have reached := PlaceWork.push_reaches (w := v) (l := l) empty (fun all => absurd (best.symm.trans all) nofun)
    fun _ => walk
  refine (congrArg v.push rest).trans (reached.trans ?_)
  show PlaceWork.mk .. = PlaceWork.mk ..
  congr 1
  exact List.append_assoc _ _ _

/-- A search that gives its top channel up with none left that has a walk (R76). -/
theorem PlaceWork.gives_none {w : PlaceWork} {e : StackEntry} {below : List StackEntry}
    (empty : ∀ x ∈ w.rest, x.walk.length = 0) (best : w.bestEffort = true) :
    PlaceWork.push { w with stack := below, unplaced := w.unplaced ++ [(e.item.channel, .noCandidate)] } w.rest =
      { w with
        stack := below
        rest := []
        unplaced := w.unplaced ++ (e.item :: w.rest).map fun x => (x.channel, .noCandidate)
        deepest := if w.rest = [] then w.deepest else max w.deepest (w.total - 1) } := by
  let v : PlaceWork := { w with stack := below, unplaced := w.unplaced ++ [(e.item.channel, .noCandidate)] }
  refine (PlaceWork.push_none (w := v) empty fun all => absurd (best.symm.trans all) nofun).trans ?_
  show PlaceWork.mk .. = PlaceWork.mk ..
  congr 1
  exact List.append_assoc _ _ _

/-- A search that begins its step on a walk used up goes on from the next channel that has one. -/
theorem State.placeStep_passed {s : State} {w v : PlaceWork} (h : w.passOver = v) (fixed : v.passOver = v) :
    s.placeStep w = s.placeStep v := by
  unfold State.placeStep
  rw [h, fixed]

/-- What the addition of a tentative leaves. -/
theorem State.addPrimary_effect {s : State} {c : Fin 256} {r : ChannelRecord} (h : Hold) (f : Nat)
    (hr : s.channel c = some r) (ok : s.census.planesOk) :
    let x := s.addPrimary c r h f
    x.channel c = some { r with hold := h } ∧ s.othersKept x c ∧ x.plan.epoch = s.plan.epoch + 1 ∧
      s.adds x (r.transmitter c false f) ∧ s.rechecksAll x ∧ x.port = s.portFor x ∧
      x = { s with plan := (s.plan.setHold c h).bump, census := x.census, spares := x.spares, port := x.port,
                   engine := { s.engine with routine := s.engine.routine ++ s.allShort x } } := by
  let y : State := { s with plan := s.plan.setHold c h }
  obtain ⟨adds, rechecks, port, rest⟩ := State.added_effect y (r.transmitter c false f) ok
  have engine := State.added_engine y (r.transmitter c false f)
  have plan : (s.addPrimary c r h f).plan = (s.plan.setHold c h).bump := (congrArg State.plan rest :)
  have channels : (s.addPrimary c r h f).plan.channels = (s.plan.setHold c h).channels := (congrArg Plan.channels plan :)
  refine ⟨State.channel_setHold channels hr, State.othersKept_setHold channels,
    (congrArg Plan.epoch plan :), State.adds_congr adds rfl rfl rfl rfl,
    State.rechecks_congr rechecks rfl rfl rfl rfl rfl, port, rest.trans ?_⟩
  rw [engine]
  rfl

/-- What the removal of a tentative leaves. -/
theorem State.removeStep_effect {s : State} {c : Fin 256} {r : ChannelRecord} (h : Hold) (second : Bool) (f : Nat)
    (hr : s.channel c = some r) (ok : s.census.planesOk) :
    let x := s.removeStep c r h second f
    x.channel c = some { r with hold := h } ∧ s.othersKept x c ∧ x.plan.epoch = s.plan.epoch + 1 ∧
      s.removes x (r.transmitter c second f) ∧ s.rechecksAll x := by
  obtain ⟨removes, rechecks, -⟩ := State.removed_effect { s with plan := s.plan.setHold c h }
    (r.transmitter c second f) ok
  have channels : (s.removeStep c r h second f).plan.channels = (s.plan.setHold c h).channels :=
    (congrArg Plan.channels (s.removeStep_plan c r h second f) :)
  exact ⟨State.channel_setHold channels hr, State.othersKept_setHold channels,
    (congrArg Plan.epoch (s.removeStep_plan c r h second f) :), State.removes_congr removes rfl rfl rfl rfl,
    State.rechecks_congr rechecks rfl rfl rfl rfl rfl⟩

/-- Work that makes a step whose event has queued entries. -/
theorem State.yields_queued {s x : State} {v : Work} {l : List Entry}
    (engine : x.engine = { s.engine with routine := s.engine.routine ++ l }) (run : x.port.run = s.port.run)
    (now : x.now = s.now) (pending : x.pending = s.pending) (q : State) : s.yields (q.finish (x.yieldWith v)) v l := by
  refine ⟨⟨now, pending⟩, ?_⟩
  show (x.yieldWith v).engine = _
  unfold State.yieldWith
  rw [engine, run]

theorem State.portFor_run (s t : State) : (s.portFor t).run = s.port.run := by
  unfold State.portFor
  split <;> rfl

theorem State.samePort_of {s t : State} {p : Port}
    (e : t.port = { p with header := t.port.header, line := t.port.line }) (same : p = s.port) : s.samePort t := by
  rw [same] at e
  exact e

theorem State.yields_inStageOrder {s x : State} {v : Work} {l : List Entry} (h : s.planChange x)
    (joined : s.engine.joined x.engine = l) : s.yields (s.finish ((s.inStageOrder x).yieldWith v)) v l := by
  have ordered : s.planChange (s.inStageOrder x) := by
    unfold State.planChange at h ⊢
    unfold State.inStageOrder
    rw [h]
  exact State.yields_queued (ordered.engine (congrArg (s.engine.routine ++ ·) joined))
    (congrArg Port.run h.port) h.now h.pending s

/-- A step of a search that goes on without a plan change. -/
theorem State.runs.searches {s : State} {w v : PlaceWork} {e : StackEntry} (h : s.runs (.place w))
    (p : s.placeStep w = s.afterEvaluation v) (top : v.top = some e) :
    ∃ t, exec .placeStep s = .next t.arbitrate ∧ s.sameModel t ∧ s.samePort t ∧ t.reports = s.reports ∧ t.free = s.free ∧
      s.yields t (.place v) [] :=
  ⟨_, exec_placeStep h.1 (p.trans (State.afterEvaluation_goes top)), ⟨⟨rfl, rfl, rfl, rfl⟩, ⟨rfl, rfl⟩, ⟨rfl, rfl⟩⟩, rfl,
    rfl, rfl, State.yields_of rfl rfl rfl rfl s⟩

/-- An entry of the stack that the search has not placed. -/
theorem StackEntry.advance_unchosen {e : StackEntry} (h : e.chosen = none) :
    e.advance = { e with cursor := e.cursor + 1 } := by
  unfold StackEntry.advance
  rw [← h]

end Sys2Proof.Machine

open Sys2Proof Sys2Proof.Machine

/-- Settles O33. -/
theorem placeStepSearches : Obligations.PlaceStepSearches := by
  refine ⟨fun s e => ⟨fun idle => ?_, fun r g hr chosen ok => ?_⟩, fun s w e a i l h top spent best rest empty walk => ?_,
    fun s w e r h ok top more room hr => ⟨fun n a i l pass rest empty all walk => ?_, fun n fails left => ?_,
      fun n a b l g fails last all tail spent known chosen left live => ?_, fun n a i l fails last best rest empty walk => ?_⟩⟩
  · rcases idle with none | none
    · exact State.clearTentative_none none
    · unfold State.clearTentative
      rw [none]
  · have eq := State.clearTentative_some hr chosen
    obtain ⟨channel, others, epoch, removes, rechecks⟩ := State.removeStep_effect .defined false g hr ok
    rw [← eq] at channel others epoch removes rechecks
    refine ⟨channel, others, epoch, removes, rechecks, ?_⟩
    have change := s.clearTentative_rest e
    unfold State.planChange at change
    exact change.trans (by rw [change])
  · have passed := PlaceWork.passOver_gives top spent best
    rw [PlaceWork.gives_reaches rest empty best walk] at passed
    have fixed := PlaceWork.passOver_goes (w := w.passOver) (e := { item := i, cursor := 0, chosen := none })
      (by rw [passed]; exact PlaceWork.top_of rfl rfl) (decide_eq_false (by simpa using walk))
    intro v
    have plain : s.plainContext (.running (.place v)) := by
      refine ⟨fun b => ?_, fun b => rfl⟩
      unfold Engine.upkeepActive
      rw [h.context]
      rfl
    refine (exec_placeStep h.1 (State.placeStep_passed passed (passed ▸ fixed))).trans ?_
    refine (exec_placeStep (s := s.inContext (.running (.place v))) rfl (State.placeStep_inContext plain h.idle v)).symm
  · obtain ⟨stack, free⟩ := PlaceWork.top_cons top
    have p := (State.placeStep_evaluates top more room).trans (State.placeEvaluate_passes hr pass)
    let v : PlaceWork := { w with
      used := w.used + 1, stack := { e with chosen := some (e.item.walk.at e.cursor) } :: w.stack.tail }
    have chose : PlaceWork.chose { w with used := w.used + 1 } e (e.item.walk.at e.cursor) = _ :=
      (congrArg v.push rest).trans (PlaceWork.push_reaches empty all walk)
    unfold State.placeTop at p
    rw [chose, State.afterEvaluation_goes (PlaceWork.top_of rfl rfl)] at p
    obtain ⟨channel, others, epoch, adds, rechecks, port, whole⟩ := State.addPrimary_effect
      (.tentative (e.item.walk.at e.cursor)) (e.item.walk.at e.cursor) hr ok
    have run : (s.addPrimary e.item.channel r (.tentative (e.item.walk.at e.cursor)) (e.item.walk.at e.cursor)).port.run =
        s.port.run := (congrArg Port.run port).trans (s.portFor_run _)
    generalize s.addPrimary e.item.channel r (.tentative (e.item.walk.at e.cursor)) (e.item.walk.at e.cursor) = x
      at p channel others epoch adds rechecks port whole run
    have engine : x.engine = { s.engine with routine := s.engine.routine ++ s.allShort x } :=
      (congrArg State.engine whole :)
    exact ⟨_, exec_placeStep h.1 p, channel, others, epoch, State.adds_congr adds rfl rfl rfl rfl,
      State.rechecks_congr rechecks rfl rfl rfl rfl rfl, (congrArg State.site whole :),
      ⟨(congrArg State.links whole :), (congrArg State.zones whole :)⟩, State.samePort_of (p := x.port) rfl port,
      (congrArg State.reports whole :), (congrArg State.free whole :),
      State.yields_queued engine run (congrArg State.now whole :) (congrArg State.pending whole :) s⟩
  · obtain ⟨stack, free⟩ := PlaceWork.top_cons top
    have p := ((State.placeStep_evaluates top more room).trans (State.placeEvaluate_fails hr fails)).trans
      (State.placeFail_more left)
    rw [StackEntry.advance_unchosen free] at p
    exact h.searches p (PlaceWork.top_of rfl free)
  · have p := ((State.placeStep_evaluates top more room).trans (State.placeEvaluate_fails hr fails)).trans
      (State.placeFail_back last all)
    dsimp only at p
    rw [tail, backtrack_stops left a _ _ _ fun x m => (spent x m).2] at p
    have cleared := State.cleared (s := s) (l := a ++ [b]) fun x m => by
      rcases List.mem_append.1 m with m | m
      · exact known x m
      · rw [List.mem_singleton.1 m]
        exact live
    have some : chosenCount (a ++ [b]) ≠ 0 := by
      unfold chosenCount
      rw [List.countP_append, List.countP_singleton, chosen]
      exact Nat.succ_ne_zero _
    have joined := cleared.joined
    rw [if_neg some] at joined
    have change := cleared.rest
    have yields := fun v => State.yields_inStageOrder (v := v) change joined
    generalize (a ++ [b]).foldl State.clearTentative s = x at p change yields
    rw [State.afterEvaluation_goes (PlaceWork.top_of rfl rfl)] at p
    refine ⟨_, exec_placeStep h.1 p, rfl, rfl, rfl, change.site,
      ⟨change.links, change.zones⟩, State.samePort_of (p := x.port) rfl change.port, change.reports, change.free, yields _⟩
  · have p := ((State.placeStep_evaluates top more room).trans (State.placeEvaluate_fails hr fails)).trans
      (State.placeFail_best last best)
    rw [PlaceWork.gives_reaches (w := { w with used := w.used + 1 }) rest empty best walk] at p
    exact h.searches p (PlaceWork.top_of rfl rfl)

end


section
/-! How a PLACE ends (R73 to R78). -/

namespace Sys2Proof.Machine

/-! ### Commit -/

theorem chosenFor_none {l : List StackEntry} {c : Fin 256} (h : c ∉ l.map fun e => e.item.channel) :
    chosenFor l c = none := by
  unfold chosenFor
  rw [List.find?_eq_none.2 fun e m => by
    rw [decide_eq_true_eq]
    exact fun both => h (List.mem_map.2 ⟨e, m, both.1⟩)]
  rfl

/-- The channels after the frequencies that a stack has chosen become final (R77). -/
theorem commitEntry_get (l : List StackEntry) (p : Plan) (nodup : (l.map fun e => e.item.channel).Nodup) (c : Fin 256) :
    (l.foldl Plan.commitEntry p).channels[c] = (p.channels[c]).map fun r =>
      { r with hold := (chosenFor l c).elim r.hold .placed } := by
  induction l generalizing p with
  | nil => exact (congrFun Option.map_id _).symm
  | cons e l ih =>
    rw [List.map_cons, List.nodup_cons] at nodup
    rw [List.foldl_cons, ih _ nodup.2, chosenFor_cons]
    unfold Plan.commitEntry
    cases chosen : e.chosen with
    | none =>
      dsimp only
      rw [if_neg fun both => absurd both.2 nofun]
    | some f =>
      dsimp only
      rw [Plan.setHold_get]
      by_cases here : c = e.item.channel
      · subst here
        rw [if_pos rfl, if_pos ⟨rfl, rfl⟩, chosenFor_none nodup.1, Option.map_map]
        rfl
      · rw [if_neg here, if_neg fun both => here both.1.symm]

theorem commitEntry_epoch (l : List StackEntry) (p : Plan) : (l.foldl Plan.commitEntry p).epoch = p.epoch := by
  induction l generalizing p with
  | nil => rfl
  | cons e l ih =>
    rw [List.foldl_cons, ih]
    unfold Plan.commitEntry
    split <;> rfl

theorem State.commit_channel (x : State) (v : PlaceWork) (nodup : (v.stack.map fun e => e.item.channel).Nodup)
    (c : Fin 256) : (x.commit v).channel c = (x.channel c).map fun r =>
      { r with mark := none, hold := (chosenFor v.stack c).elim r.hold .placed } := by
  refine (Plan.clearMarks_get _ c).trans ?_
  rw [commitEntry_get _ _ nodup, Option.map_map]
  rfl

theorem State.commit_epoch (x : State) (v : PlaceWork) : (x.commit v).plan.epoch = x.plan.epoch :=
  commitEntry_epoch _ _

/-- The transmitters of a plan, channel by channel. -/
theorem Plan.transmitters_eq (p : Plan) :
    p.transmitters = allChannels.flatMap fun c => ((p.channels[c]).map (transmittersOf c)).getD [] := by
  unfold Plan.transmitters
  rw [p.records_eq]
  induction allChannels with
  | nil => rfl
  | cons c l ih =>
    rw [List.filterMap_cons, List.flatMap_cons]
    cases hr : p.channels[c] with
    | none => exact ih
    | some r => exact congrArg (transmittersOf c r ++ ·) ih

theorem Plan.transmitters_congr {p q : Plan}
    (h : ∀ c : Fin 256, (q.channels[c]).map (transmittersOf c) = (p.channels[c]).map (transmittersOf c)) :
    q.transmitters = p.transmitters := by
  rw [p.transmitters_eq, q.transmitters_eq]
  exact congrArg (allChannels.flatMap ·) (funext fun c => by rw [h])

/-- The commit of a search changes no held frequency. -/
theorem State.commit_transmitters {x : State} {v : PlaceWork} (nodup : (v.stack.map fun e => e.item.channel).Nodup)
    (placed : ∀ e ∈ v.stack, ∀ g, e.chosen = some g → x.hold e.item.channel = some (.tentative g)) :
    (x.commit v).plan.transmitters = x.plan.transmitters := by
  refine Plan.transmitters_congr fun c => ?_
  have channel : (x.commit v).plan.channels[c] = (x.plan.channels[c]).map _ := x.commit_channel v nodup c
  rw [channel, Option.map_map]
  cases hr : x.plan.channels[c] with
  | none => rfl
  | some r =>
    cases chosen : chosenFor v.stack c with
    | none => rfl
    | some f =>
      obtain ⟨e, found, final⟩ := Option.bind_eq_some_iff.1 chosen
      have matched := List.find?_some found
      obtain ⟨here, -⟩ := of_decide_eq_true matched
      have hold := placed e (List.mem_of_find?_eq_some found) f final
      rw [here, State.hold_eq hr] at hold
      have tentative : r.hold = .tentative f := Option.some.inj hold
      show some (transmittersOf c _) = some (transmittersOf c r)
      unfold transmittersOf
      rw [tentative]
      rfl

/-- A recheck reads the plan by its transmitters. -/
theorem State.sparePasses_of_transmitters {s t : State} (site : t.site = s.site)
    (held : t.plan.transmitters = s.plan.transmitters) (census : t.census = s.census) (b : Fin 8) (r : StageRecord)
    (f : Nat) : t.sparePasses b r f = s.sparePasses b r f := by
  let x : State := { s with site := t.site, census := t.census }
  have reads : t.sparePasses b r f = (x.check2 (x.site.spareCandidate b r f) &&
      x.check4 (x.site.spareCandidate b r f) t.plan.transmitters &&
      x.check5 (x.site.spareCandidate b r f) t.plan.transmitters [] &&
      x.check6 (x.site.spareCandidate b r f) t.plan.transmitters) := rfl
  rw [reads, held, show x = s by rw [show x = { s with site := t.site, census := t.census } from rfl, site, census]]
  rfl

theorem State.rechecksAll_of_transmitters {s t t' : State} (h : s.rechecksAll t) (site : t'.site = t.site)
    (held : t'.plan.transmitters = t.plan.transmitters) (census : t'.census = t.census) (spares : t'.spares = t.spares) :
    s.rechecksAll t' := by
  intro b
  have same : State.rechecked { t' with spares := s.spares } b = State.rechecked { t with spares := s.spares } b :=
    State.rechecked_congr (s := { t' with spares := s.spares }) (t := { t with spares := s.spares })
      (State.sparePasses_of_transmitters site held census) site rfl b
  rw [same, spares]
  exact h b

theorem State.adds_of_transmitters {s t t' : State} {x : Transmitter} (h : s.adds t x)
    (held : t'.plan.transmitters = t.plan.transmitters) (census : t'.census = t.census) : s.adds t' x := by
  have others : t'.plan.others x = t.plan.others x := congrArg (List.filter _) held
  unfold State.adds at h ⊢
  rw [others, census]
  exact h

theorem State.portFor_congr {s t t' : State} (h : t'.census = t.census) : s.portFor t' = s.portFor t := by
  unfold State.portFor
  rw [h]

/-! ### The end of a search -/

/-- What the end of a search leaves, from the state that its event has reached. -/
theorem State.runs.endsPlace {s x : State} {w v : PlaceWork} {l : List Entry} (h : s.runs (.place w))
    (order : v.order = w.order) (committed : Bool) (outcome : OrderOutcome) (reason : Reason) (argument : Nat)
    (rest : x = { s with plan := x.plan, census := x.census, spares := x.spares, port := x.port
                         engine := { s.engine with routine := s.engine.routine ++ l } })
    (k : s.port.Keeps x.port) (r : s.port.Reports x.port) :
    let t := s.finish (x.endPlace v committed outcome reason argument)
    let bytes := pieces 240 8 (v.result committed reason (half v.deepest) x.plan.epoch)
    t.plan = x.plan ∧ t.census = x.census ∧ t.spares = x.spares ∧ t.site = s.site ∧ s.sameSpectrum t ∧ t.free = s.free ∧
      s.rests t l ∧ s.ends t w.order outcome reason (BitVec.ofNat 32 argument) bytes ∧
      x.aloneWith t w.order outcome bytes := by
  have payloads := pieces_length 240 8 (v.result committed reason (half v.deepest) x.plan.epoch)
  have reached := s.concluded x v.order outcome reason (BitVec.ofNat 32 argument)
    (pieces 240 8 (v.result committed reason (half v.deepest) x.plan.epoch))
  have now : x.now = s.now := (congrArg State.now rest :)
  have pending : x.pending = s.pending := (congrArg State.pending rest :)
  have engine : x.engine = { s.engine with routine := s.engine.routine ++ l } := (congrArg State.engine rest :)
  have ends := h.ends (x := x) (o := w.order) rfl outcome reason (BitVec.ofNat 32 argument) _ k r now pending payloads
  have alone := h.alone (x := x) (o := w.order) rfl outcome reason (BitVec.ofNat 32 argument) _ k r payloads
  rw [← order] at ends alone ⊢
  refine ⟨reached.plan, reached.census, reached.spares, reached.site.trans (congrArg State.site rest :),
    ⟨reached.links.trans (congrArg State.links rest :), reached.zones.trans (congrArg State.zones rest :)⟩,
    reached.free.trans (congrArg State.free rest :), ⟨⟨reached.now.trans now, reached.pending.trans pending⟩, ?_⟩, ends,
    alone⟩
  refine reached.engine.trans ?_
  rw [engine, Engine.release_idle (e := { s.engine with routine := s.engine.routine ++ l }) h.idle]

/-- A search that commits with no plan change in its last step. -/
theorem State.runs.commits {s : State} {w v : PlaceWork} (h : s.runs (.place w)) (order : v.order = w.order)
    (p : s.placeStep w = (s.commit v).endPlace v true v.verdict.1 v.verdict.2 v.used)
    (nodup : (v.stack.map fun e => e.item.channel).Nodup) :
    let bytes := pieces 240 8 (v.result true v.verdict.2 (half v.deepest) s.plan.epoch)
    ∃ t, exec .placeStep s = .next t.arbitrate ∧ s.searchEnded t v Hold.placed ∧ t.plan.epoch = s.plan.epoch ∧
      t.census = s.census ∧ t.spares = s.spares ∧ t.site = s.site ∧ s.sameSpectrum t ∧ t.free = s.free ∧
      s.rests t [] ∧ s.ends t w.order v.verdict.1 v.verdict.2 (BitVec.ofNat 32 v.used) bytes ∧
      s.aloneWith t w.order v.verdict.1 bytes := by
  obtain ⟨plan, census, spares, site, spectrum, free, rests, ends, alone⟩ := h.endsPlace (x := s.commit v) (l := [])
    order true v.verdict.1 v.verdict.2 v.used (by rw [List.append_nil]; rfl) (.refl _) (.refl _)
  rw [State.commit_epoch] at ends alone
  refine ⟨_, exec_placeStep h.1 p, fun c => ?_, (congrArg Plan.epoch plan).trans (s.commit_epoch v), census, spares, site,
    spectrum, free, rests, ends, alone⟩
  exact (congrArg (fun p : Plan => p.channels[c]) plan).trans (s.commit_channel v nodup c)

/-- A search that removes its tentatives and fails. -/
theorem State.runs.fails {s y : State} {w v : PlaceWork} {reason : Reason} {argument : Nat} (h : s.runs (.place w))
    (order : v.order = w.order) (known : ∀ x ∈ w.stack, (s.channel x.item.channel).isSome = true)
    (rolled : y = s.rollback w)
    (p : s.placeStep w = y.endPlace v false .failed reason argument) :
    let bytes := fun q : State => pieces 240 8 (v.result false reason (half v.deepest) q.plan.epoch)
    let x := w.stack.foldl State.clearTentative s
    ∃ t, exec .placeStep s = .next t.arbitrate ∧ s.searchEnded t w (fun _ => .defined) ∧
      t.plan.epoch = s.plan.epoch + BitVec.ofNat 32 w.placedCount ∧ t.census = x.census ∧ t.spares = x.spares ∧
      t.site = s.site ∧ s.sameSpectrum t ∧ t.free = s.free ∧
      s.rests t (if w.placedCount = 0 then [] else s.allShort t) ∧
      s.ends t w.order .failed reason (BitVec.ofNat 32 argument) (bytes t) ∧
      s.aloneWith t w.order .failed (bytes t) := by
  have eq := State.rollback_eq known
  dsimp only at eq
  rw [rolled] at p
  obtain ⟨plan, census, spares, site, spectrum, free, rests, ends, alone⟩ := h.endsPlace (x := s.rollback w) (v := v)
    order false .failed reason argument (by rw [eq]) (by rw [eq]; exact .refl _) (by rw [eq]; exact .refl _)
  obtain ⟨ended, epoch⟩ := State.rollback_ended known (plan.trans (congrArg State.plan eq))
  have short : s.allShort (w.stack.foldl State.clearTentative s) =
      s.allShort (s.finish ((s.rollback w).endPlace v false .failed reason argument)) :=
    State.shortEntries_congr _ (fun _ => rfl) (fun _ => rfl) (spares.trans (congrArg State.spares eq)).symm
      fun b => congrArg (Site.target · b) ((State.foldl_clearTentative_rest w.stack s).site.trans site.symm)
  rw [short] at rests
  rw [← plan] at ends alone
  refine ⟨_, exec_placeStep h.1 p, ended, epoch, census.trans (congrArg State.census eq :),
    spares.trans (congrArg State.spares eq :), site, spectrum, free, rests, ends,
    State.aloneWith_congr alone ?_ ?_⟩
  · rw [eq]
  · rw [eq]

end Sys2Proof.Machine

open Sys2Proof Sys2Proof.Machine

/-- Settles O34. -/
theorem placeEnds : Obligations.PlaceEnds := by
  intro s w e h ok top nodup known placed
  obtain ⟨stack, free⟩ := PlaceWork.top_cons top
  have tailNodup : (w.stack.tail.map fun x => x.item.channel).Nodup := by
    rw [stack, List.map_cons, List.nodup_cons] at nodup
    exact nodup.2
  dsimp only
  refine ⟨fun r n more room hr pass empty all => ?_, fun more used all => ?_, fun more used best => ?_,
    fun r n more room hr fails last all spent => ?_, fun r n more room hr fails last best empty chosen => ?_,
    fun spent best empty chosen => ?_⟩
  · let f := e.item.walk.at e.cursor
    let u : PlaceWork := { w with used := w.used + 1, stack := { e with chosen := some f } :: w.stack.tail }
    have p := (State.placeStep_evaluates top more room).trans (State.placeEvaluate_passes hr pass)
    have chose : PlaceWork.chose { w with used := w.used + 1 } e f = _ := PlaceWork.push_none (w := u) empty all
    unfold State.placeTop at p
    rw [chose, State.afterEvaluation_ends (PlaceWork.top_none fun x m => by
      rw [← Option.some.inj m]
      rfl) fun _ => List.cons_ne_nil _ _] at p
    obtain ⟨channel, others, epoch, adds, rechecks, port, whole⟩ := State.addPrimary_effect (.tentative f) f hr ok
    have keeps := s.keeps_addPrimary e.item.channel r (.tentative f) f
    have fresh : ∀ x ∈ w.stack.tail, x.item.channel ≠ e.item.channel := fun x m same => by
      rw [stack, List.map_cons, List.nodup_cons] at nodup
      exact nodup.1 (List.mem_map.2 ⟨x, m, same⟩)
    have tentative : ∀ x ∈ u.stack, ∀ g, x.chosen = some g →
        (s.addPrimary e.item.channel r (.tentative f) f).hold x.item.channel = some (.tentative g) := fun x m g final => by
      rcases List.mem_cons.1 m with rfl | m
      · rw [State.hold_eq channel, ← Option.some.inj final]
      · have kept := placed x (stack ▸ List.mem_cons_of_mem _ m) g final
        unfold State.hold at kept ⊢
        rwa [others _ (fresh x m)]
    let v : PlaceWork := { u with
      rest := []
      unplaced := w.unplaced ++ w.rest.map fun i => (i.channel, Reason.noCandidate)
      deepest := if w.rest = [] then w.deepest else max w.deepest (w.total - 1) }
    change s.placeStep w = ((s.addPrimary e.item.channel r (.tentative f) f).commit v).endPlace v true
      v.verdict.1 v.verdict.2 v.used at p
    generalize s.addPrimary e.item.channel r (.tentative f) f = x
      at p channel others epoch adds rechecks port whole keeps tentative
    have once : (v.stack.map fun x => x.item.channel).Nodup := by
      rwa [stack, List.map_cons] at nodup
    have held := State.commit_transmitters (x := x) (v := v) once tentative
    obtain ⟨plan, census, spares, site, spectrum, free', rests, ends, alone⟩ := h.endsPlace (x := x.commit v) (v := v)
      (l := s.allShort x) rfl true v.verdict.1 v.verdict.2 v.used
      (congrArg (fun y : State => { y with plan := (x.commit v).plan }) whole :)
      keeps.port keeps.reports
    have plans := congrArg Plan.transmitters plan
    refine ⟨_, exec_placeStep h.1 p, fun c => ?_, (congrArg Plan.epoch plan).trans ((x.commit_epoch v).trans epoch),
      State.adds_of_transmitters adds (plans.trans held) census,
      State.rechecksAll_of_transmitters rechecks (site.trans keeps.site.symm) (plans.trans held) census spares, site,
      spectrum, free', ?_, ?_, ?_⟩
    · have after := (congrArg (fun p : Plan => p.channels[c]) plan).trans (x.commit_channel v once c)
      refine after.trans ?_
      by_cases here : c = e.item.channel
      · have final : chosenFor v.stack c = some f := (chosenFor_cons ..).trans (if_pos ⟨here.symm, rfl⟩)
        rw [here] at final ⊢
        rw [channel, hr, final, show (v.stack.find? _).bind StackEntry.chosen = some f from final]
        rfl
      · rw [others c here]
        rfl
    · have short : s.allShort x = s.allShort (s.finish ((x.commit v).endPlace v true v.verdict.1 v.verdict.2 v.used)) :=
        State.shortEntries_congr _ (fun _ => rfl) (fun _ => rfl) spares.symm
          fun b => congrArg (Site.target · b) (keeps.site.trans site.symm)
      exact short ▸ rests
    · rw [plan]
      exact ends
    · rw [plan]
      exact State.aloneWith_congr alone ((State.portFor_congr census).trans port.symm) (congrArg State.reports whole).symm
  · have p : s.placeStep w = (s.rollback w).endPlace w false .failed .budget w.used :=
      (State.placeStep_budget top more used).trans (if_neg (by rw [all]; exact nofun))
    exact h.fails rfl known rfl p
  · have p : s.placeStep w = s.bestEffortEnd (w.outOfBudget e) :=
      (State.placeStep_budget top more used).trans (if_pos best)
    exact h.commits rfl (p.trans (s.bestEffortEnd_ends best)) tailNodup
  · have p := ((State.placeStep_evaluates top more room).trans (State.placeEvaluate_fails hr fails)).trans
      (State.placeFail_back last all)
    obtain ⟨rest, back⟩ := backtrack_empties w.stack.tail e.item s
      { w with used := w.used + 1, stack := e.advance :: w.stack.tail } fun x m => (spent x m).2
    dsimp only at p
    rw [back] at p
    have rolled : (s.inStageOrder (w.stack.tail.foldl State.clearTentative s)).clearMarks = s.rollback w := by
      unfold State.rollback
      rw [stack, List.foldl_cons, State.clearTentative_none free]
      rfl
    let v : PlaceWork := { w with used := w.used + 1, stack := [], rest := rest }
    have ended : (s.inStageOrder (w.stack.tail.foldl State.clearTentative s)).afterEvaluation v =
        (s.rollback w).endPlace v false .failed .noCandidate w.deepest := by
      rw [← rolled]
      unfold State.afterEvaluation
      rw [show v.top = none from rfl, if_neg nofun, if_neg (by rw [show v.bestEffort = false from all]; exact nofun)]
      rfl
    obtain ⟨t, run, facts⟩ := h.fails (v := v) rfl known rfl (p.trans ended)
    have count : w.placedCount = 0 ↔ w.stack.tail = [] := by
      have tails : w.placedCount = w.stack.tail.length := by
        unfold PlaceWork.placedCount
        rw [stack, List.countP_cons, free, List.countP_eq_length.2 fun x m => (spent x m).1]
        rfl
      rw [tails, List.length_eq_zero_iff]
    simp only [count] at facts
    exact ⟨t, run, facts⟩
  · have p := ((State.placeStep_evaluates top more room).trans (State.placeEvaluate_fails hr fails)).trans
      (State.placeFail_best last best)
    rw [PlaceWork.gives_none (w := { w with used := w.used + 1 }) empty best] at p
    refine h.commits rfl (p.trans (State.afterEvaluation_ends (PlaceWork.top_none fun x m => ?_) ?_)) tailNodup
    · exact chosen x (List.mem_of_mem_head? m)
    · exact fun all => absurd (best.symm.trans all) nofun
  · have passed := (PlaceWork.passOver_gives top spent best).trans (PlaceWork.gives_none empty best)
    have noTop : w.passOver.top = none := by
      rw [passed]
      exact PlaceWork.top_none fun x m => chosen x (List.mem_of_mem_head? m)
    have p : s.placeStep w = s.afterEvaluation w.passOver := by
      unfold State.placeStep
      dsimp only
      rw [noTop]
    rw [passed] at p noTop
    exact h.commits rfl (p.trans (State.afterEvaluation_ends noTop
      fun all => absurd (best.symm.trans all) nofun)) tailNodup

end


section
/-! The replacement of a frequency: the old one leaves the plan, a new one joins it, and the UPKEEP entries of the event
stand in stage order (R30, R84, R88, R96). -/

namespace Sys2Proof.Machine

/-! ### States that differ in the engine and the port alone -/

/-- Two states that differ in the engine and the port alone. -/
def State.alike (s t : State) : Prop := ∃ (e : Engine) (p : Port), t = { s with engine := e, port := p }

theorem State.begin_alike (s : State) (u : Bool) (o : Handed) : s.alike (s.begin u o) := ⟨_, _, rfl⟩

theorem State.begin_entryAlike (s : State) (u : Bool) : s.alike (s.beginEntry u) := ⟨_, s.port, rfl⟩

namespace State.alike

section
variable {s t : State} (h : s.alike t)
include h

theorem site : t.site = s.site := by
  obtain ⟨e, p, rfl⟩ := h
  rfl

theorem plan : t.plan = s.plan := by
  obtain ⟨e, p, rfl⟩ := h
  rfl

theorem census : t.census = s.census := by
  obtain ⟨e, p, rfl⟩ := h
  rfl

theorem spares : t.spares = s.spares := by
  obtain ⟨e, p, rfl⟩ := h
  rfl

/-- An evaluation reads neither the engine nor the port. -/
theorem evaluateFor (r : ChannelRecord) (f : Nat) (strict : Bool) :
    t.evaluateFor r f strict = s.evaluateFor r f strict := by
  obtain ⟨e, p, rfl⟩ := h
  rfl

theorem spareSearch (r : ChannelRecord) (l : List Spare) : t.spareSearch r l = s.spareSearch r l := by
  induction l with
  | nil => rfl
  | cons x l ih =>
    unfold State.spareSearch
    rw [h.evaluateFor, ih]

theorem search (r : ChannelRecord) (current : Nat) (only : Bool) : t.search r current only = s.search r current only := by
  have best : t.bestOf r = s.bestOf r := funext fun fs => by
    unfold State.bestOf
    rw [funext fun b => funext fun f => congrArg (better b f) (h.evaluateFor r f false)]
  have range : t.fullRange r current = s.fullRange r current := by
    unfold State.fullRange
    rw [h.site]
  unfold State.search
  rw [h.spares, h.spareSearch, range, best]

theorem rechecked (b : Fin 8) : t.rechecked b = s.rechecked b :=
  State.rechecked_congr (State.sparePasses_congr h.site (congrArg Plan.channels h.plan) h.census) h.site h.spares b

theorem settle : s.settle.alike t.settle := by
  have lists : (t.recheck allStages).spares = (s.recheck allStages).spares := by
    refine Vector.ext fun i hi => ?_
    have a := t.recheck_get allStages ⟨i, hi⟩
    have b := s.recheck_get allStages ⟨i, hi⟩
    rw [h.rechecked, h.spares] at a
    exact a.trans b.symm
  obtain ⟨e, p, rfl⟩ := h
  refine ⟨(State.settle { s with engine := e, port := p }).engine, p, ?_⟩
  exact congrArg (fun v => { s.settle with
    spares := v, port := p, engine := (State.settle { s with engine := e, port := p }).engine }) lists

theorem removed (x : Transmitter) : (s.removed x).alike (t.removed x) := by
  obtain ⟨e, p, rfl⟩ := h
  unfold State.removed
  dsimp only
  cases s.census.state with
  | valid => exact State.alike.settle ⟨e, p, rfl⟩
  | stale => exact State.alike.settle ⟨e, p, rfl⟩
  | rebuilding => exact State.alike.settle ⟨e, p, rfl⟩

theorem removeStep (c : Fin 256) (r : ChannelRecord) (k : Hold) (second : Bool) (f : Nat) :
    (s.removeStep c r k second f).alike (t.removeStep c r k second f) := by
  obtain ⟨e, p, rfl⟩ := h
  exact State.alike.removed (s := { s with plan := s.plan.setHold c k }) ⟨e, p, rfl⟩ _

theorem vacate (c : Fin 256) (r : ChannelRecord) : (s.vacate c r).alike (t.vacate c r) := by
  unfold State.vacate
  split
  · exact h.removeStep ..
  · exact h

end

end State.alike

/-! ### The removal of the old frequency -/

/-- The hold of a channel while a new frequency is judged. -/
def Hold.vacated : Hold → Hold
  | .placed _ => .defined
  | h => h

/-- How many plan changes the removal makes. -/
def Hold.removals : Hold → Word
  | .placed _ => 1
  | _ => 0

theorem Census.removed_state (s : State) (x : Transmitter) : (s.removed x).census.state = s.census.state := by
  unfold State.removed
  split
  · exact (Census.removeAll_keeps _ _).1
  · rfl
  · rfl

theorem Hold.not_placed {h : Hold} (n : ∀ g, h ≠ .placed g) : h.vacated = h ∧ h.removals = 0 := by
  cases h with
  | placed g => exact absurd rfl (n g)
  | _ => exact ⟨rfl, rfl⟩

theorem State.vacate_not_placed {s : State} {c : Fin 256} {r : ChannelRecord} (n : ∀ g, r.hold ≠ .placed g) :
    s.vacate c r = s := by
  unfold State.vacate
  split
  · next g h => exact absurd h (n g)
  · rfl

theorem State.vacate_placed {s : State} {c : Fin 256} {r : ChannelRecord} {g : Nat} (h : r.hold = .placed g) :
    s.vacate c r = s.removeStep c r .defined false g := by
  unfold State.vacate
  rw [h]

theorem State.vacate_vacates {s : State} {c : Fin 256} {r : ChannelRecord} (hr : s.channel c = some r)
    (ok : s.census.planesOk) : s.vacates (s.vacate c r) c r := by
  refine ⟨fun n => State.vacate_not_placed n, fun g h => ?_⟩
  rw [State.vacate_placed h]
  obtain ⟨channel, others, epoch, removes, rechecks⟩ := State.removeStep_effect .defined false g hr ok
  refine ⟨channel, others, epoch, removes, rechecks, ?_⟩
  have change := s.removeStep_rest c r .defined false g
  unfold State.planChange at change
  exact change.trans (by rw [change])

/-- What the removal leaves besides. -/
structure State.Vacated (s x : State) (c : Fin 256) (r : ChannelRecord) : Prop where
  change : s.planChange x
  channel : x.channel c = some { r with hold := r.hold.vacated }
  others : s.othersKept x c
  epoch : x.plan.epoch = s.plan.epoch + r.hold.removals
  state : x.census.state = s.census.state
  planes : s.census.planesOk → x.census.planesOk
  queues : State.Queues (fun _ => true) s x

theorem State.vacate_vacated {s : State} {c : Fin 256} {r : ChannelRecord} (hr : s.channel c = some r) :
    s.Vacated (s.vacate c r) c r := by
  by_cases n : ∀ g, r.hold ≠ .placed g
  · obtain ⟨same, none⟩ := Hold.not_placed n
    rw [State.vacate_not_placed n]
    refine ⟨rfl, ?_, fun _ _ => rfl, ?_, rfl, id, .refl _ s⟩
    · rw [same]
      exact hr
    · rw [none]
      exact (BitVec.add_zero _).symm
  · obtain ⟨g, hg⟩ := not_forall_not.1 n
    rw [State.vacate_placed hg]
    have channels : (s.removeStep c r .defined false g).plan.channels = (s.plan.setHold c .defined).channels :=
      (congrArg Plan.channels (s.removeStep_plan c r .defined false g) :)
    refine ⟨State.removeStep_rest .., ?_, State.othersKept_setHold channels, ?_, Census.removed_state _ _,
      (s.keeps_removeStep c r .defined false g).planes, (State.Upkept.removeStep (.refl _ s) ..).toQueues⟩
    · rw [hg]
      exact State.channel_setHold channels hr
    · rw [hg]
      exact (congrArg Plan.epoch (s.removeStep_plan c r .defined false g) :)

/-! ### The new frequency -/

/-- The plan, the census, the spare lists, the routine list and the port change alone. -/
def State.planNotice (s x : State) : Prop :=
  x = { s with plan := x.plan, census := x.census, spares := x.spares, port := x.port,
               engine := { s.engine with routine := x.engine.routine } }

theorem State.planNotice.trans {s x y : State} (h : s.planNotice x) (k : x.planNotice y) : s.planNotice y := by
  unfold State.planNotice at h k ⊢
  rw [k, h]

theorem State.planChange.notice {s x : State} (h : s.planChange x) : s.planNotice x := by
  unfold State.planChange at h
  unfold State.planNotice
  rw [h]

theorem State.addPrimary_rest (s : State) (c : Fin 256) (r : ChannelRecord) (h : Hold) (f : Nat) :
    s.planNotice (s.addPrimary c r h f) := by
  unfold State.planNotice State.addPrimary State.added
  split
  · dsimp only
    split <;> rfl
  · rfl
  · rfl

/-- What an event that gives a channel a frequency leaves. It began at `b`; the old frequency has left the plan at `x`, and
a spare that is used has left its list at `q`. -/
structure State.Replaced (b x q z : State) (c : Fin 256) (r : ChannelRecord) (h : Hold) (f : Nat) : Prop where
  channel : z.channel c = some { r with hold := h }
  others : b.othersKept z c
  epoch : z.plan.epoch = b.plan.epoch + r.hold.removals + 1
  adds : x.adds z (r.transmitter c false f)
  rechecks : q.rechecksAll z
  port : z.port = b.portFor z
  rest : b.planNotice z
  routine : z.engine.routine = b.engine.routine ++ b.allShort z

theorem State.Vacated.replaced {b x q : State} {c : Fin 256} {r : ChannelRecord} (v : b.Vacated x c r)
    (ok : b.census.planesOk) (lists : q = { x with spares := q.spares
                                                   engine := { x.engine with routine := q.engine.routine } })
    (queues : State.Queues (fun _ => true) b q) (h : Hold) (f : Nat) :
    b.Replaced x q (b.inStageOrder (q.addPrimary c r h f)) c r h f := by
  have plan : q.plan = x.plan := (congrArg State.plan lists :)
  have census : q.census = x.census := (congrArg State.census lists :)
  have site : q.site = x.site := (congrArg State.site lists :)
  have hq : q.channel c = some { r with hold := r.hold.vacated } :=
    (congrArg (fun p : Plan => p.channels[c]) plan).trans v.channel
  have added := State.addPrimary_effect (s := q) (r := { r with hold := r.hold.vacated }) h f hq (census ▸ v.planes ok)
  have same : q.addPrimary c { r with hold := r.hold.vacated } h f = q.addPrimary c r h f := rfl
  rw [same] at added
  obtain ⟨channel, others, epoch, adds, rechecks, port, whole⟩ := added
  have upkept := State.Upkept.addPrimary queues c r h f
  have joined := upkept.joined_eq
  have rest : b.planNotice (q.addPrimary c r h f) := by
    refine (v.change.notice.trans ?_).trans (q.addPrimary_rest c r h f)
    unfold State.planNotice
    rw [lists]
  generalize q.addPrimary c r h f = y at *
  have before : q.port = b.port := (congrArg State.port lists :).trans v.change.port
  refine ⟨channel, fun d hd => ?_, ?_, ?_, State.rechecks_congr rechecks rfl rfl rfl rfl rfl, ?_, ?_,
    congrArg (b.engine.routine ++ ·) joined⟩
  · exact (others d hd).trans ((congrArg (fun p : Plan => p.channels[d]) plan).trans (v.others d hd))
  · refine epoch.trans ?_
    rw [plan, v.epoch]
  · exact State.adds_congr adds census.symm site.symm rfl rfl
  · refine port.trans ?_
    unfold State.portFor
    rw [before, census, v.state]
    rfl
  · unfold State.planNotice at rest ⊢
    unfold State.inStageOrder
    rw [rest]

end Sys2Proof.Machine
end


section
/-! PIN and REPLACE (R83, R84, R95, R96). -/

namespace Sys2Proof.Machine

theorem Port.raise_setCells (cs : List Nat) (st : CellState) (bit : BitVec 5) (p : Port) :
    (p.raise bit).setCells cs st = (p.setCells cs st).raise bit := by
  unfold Port.setCells
  induction cs generalizing p with
  | nil => rfl
  | cons c cs ih =>
    have one : (p.raise bit).setCell c st = (p.setCell c st).raise bit := by
      unfold Port.setCell
      split <;> rfl
    rw [List.foldl_cons, List.foldl_cons, one]
    exact ih _

theorem State.portFor_cases (s t : State) : s.portFor t = s.port ∨ s.portFor t = s.port.raise censusBit := by
  unfold State.portFor
  split
  · exact .inr rfl
  · exact .inl rfl

theorem State.portFor_keeps (s t : State) : s.port.Keeps (s.portFor t) ∧ s.port.Reports (s.portFor t) := by
  rcases s.portFor_cases t with h | h <;> rw [h]
  · exact ⟨.refl _, .refl _⟩
  · exact ⟨s.port.keeps_raise censusBit, Port.Reports.of_eq rfl rfl⟩

/-- An order that ends from a state its event has reached by plan changes. -/
theorem State.takes.notices {s z : State} {code : OrderCode} {u : Bool} {o : Handed} {outcome : OrderOutcome}
    {reason : Reason} {argument : Word} {payloads : List (List Byte)} {n : Nat} (h : s.takes code u o)
    (p : code.procedure o (s.begin u o) = (z.draw n).conclude o outcome reason argument payloads)
    (rest : (s.begin u o).planNotice z) (port : z.port = (s.begin u o).portFor z)
    (routine : z.engine.routine = (s.begin u o).engine.routine ++ (s.begin u o).allShort z)
    (hp : ∀ l ∈ payloads, l.length ≤ 240) :
    ∃ t, exec code.command s = .next t.arbitrate ∧ t.plan = z.plan ∧ t.census = z.census ∧ t.spares = z.spares ∧
      t.site = s.site ∧ s.sameSpectrum t ∧ t.free = s.free + n ∧ s.leaves t u (s.allShort t) ∧
      s.ends t o outcome reason argument payloads ∧ (s.noticed t).aloneWith t o outcome payloads := by
  unfold State.planNotice at rest
  have now : z.now = s.now := (congrArg State.now rest :)
  have pending : z.pending = s.pending := (congrArg State.pending rest :)
  have site : z.site = s.site := (congrArg State.site rest :)
  have reports : z.reports = s.reports := (congrArg State.reports rest :)
  have engine : z.engine = { s.engine.begin u with routine := (s.engine.begin u).routine ++ (s.begin u o).allShort z } := by
    rw [show (s.engine.begin u).routine ++ (s.begin u o).allShort z = z.engine.routine from routine.symm]
    exact (congrArg State.engine rest :)
  obtain ⟨keeps, moved⟩ := (s.begin u o).portFor_keeps z
  rw [← port] at keeps moved
  have reached := s.concluded (z.draw n) o outcome reason argument payloads
  have ends := h.ends (x := z.draw n) outcome reason argument payloads keeps moved now pending hp
  refine ⟨_, (by rw [exec_command, State.takeUp_eq _ h.1, p] : exec code.command s = _), reached.plan, reached.census, reached.spares,
    reached.site.trans site, ⟨reached.links.trans (congrArg State.links rest :), reached.zones.trans (congrArg State.zones rest :)⟩,
    reached.free.trans (congrArg (fun x : State => x.free + n) rest :),
    State.leaves_exact ⟨reached.now.trans now, reached.pending.trans pending⟩ reached.engine ?_, ends, ?_⟩
  · have short : (s.begin u o).allShort z = s.allShort (s.finish ((z.draw n).conclude o outcome reason argument payloads)) :=
      (State.begin_shortEntries h.1 z _).trans (State.shortEntries_congr _ (fun _ => rfl) (fun _ => rfl)
        reached.spares.symm fun b => congrArg (Site.target · b) reached.site.symm)
    rw [← short]
    exact engine
  · refine State.close_alone (x := z.draw n) outcome reason argument payloads h.ok ?_ ?_ reports ?_ ?_ rfl rfl hp
    · exact State.memoryOk_keeps (s.portFor_keeps _).1 h.2.2
    · refine port.trans ?_
      have same : s.portFor (s.finish ((z.draw n).conclude o outcome reason argument payloads)) = s.portFor z :=
        State.portFor_congr reached.census
      rw [State.noticed, same]
      unfold State.portFor
      rw [show (s.begin u o).census = s.census from rfl]
      split
      · exact (Port.raise_setCells _ _ _ _).symm
      · rfl
    · unfold State.conclude State.close
      split <;> rfl
    · unfold State.conclude State.close
      split <;> rfl

/-- The channels, the epoch and the census after an event of the model, as the order that began it sees them. -/
theorem State.Replaced.seen {s x b y q' q z t : State} {c : Fin 256} {r : ChannelRecord} {h : Hold} {f : Nat}
    (k : State.Replaced b y q z c r h f) (plan : t.plan = z.plan) (census : t.census = z.census)
    (spares : t.spares = z.spares) (site : t.site = z.site) (begun : b.plan = s.plan) (before : x.alike y)
    (lists : q'.spares = q.spares) :
    t.channel c = some { r with hold := h } ∧ s.othersKept t c ∧ t.plan.epoch = s.plan.epoch + r.hold.removals + 1 ∧
      x.adds t (r.transmitter c false f) ∧ q'.rechecksAll t := by
  have channels : t.plan.channels = z.plan.channels := congrArg Plan.channels plan
  refine ⟨?_, fun d hd => ?_, ?_, State.adds_congr k.adds before.census.symm before.site.symm channels census,
    State.rechecks_congr k.rechecks lists site channels census spares⟩
  · exact (congrArg (fun p : Plan => p.channels[c]) plan).trans k.channel
  · exact (congrArg (fun p : Plan => p.channels[d]) plan).trans
      ((k.others d hd).trans (congrArg (fun p : Plan => p.channels[d]) begun))
  · rw [plan, k.epoch, begun]

/-- An order that ends in an outcome with one record, with nothing of the model changed. -/
theorem State.takes.nothing {s : State} {code : OrderCode} {u : Bool} {o : Handed} {outcome : OrderOutcome}
    {reason : Reason} {argument : Word} {payloads : List (List Byte)} {n : Nat} (h : s.takes code u o)
    (p : code.procedure o (s.begin u o) = ((s.begin u o).draw n).conclude o outcome reason argument payloads)
    (hp : ∀ l ∈ payloads, l.length ≤ 240) :
    ∃ t, exec code.command s = .next t.arbitrate ∧ s.samePlan t ∧ s.sameSpectrum t ∧ t.free = s.free + n ∧
      s.leaves t u [] ∧ s.ends t o outcome reason argument payloads ∧ (s.noticed t).aloneWith t o outcome payloads := by
  obtain ⟨t, run, ends, alone, ⟨plan, spectrum, time⟩, engine, free⟩ := h.reads p hp
  have port : s.portFor t = s.port := by
    unfold State.portFor
    rw [plan.2.2.1]
    exact if_neg fun both => both.1 both.2
  refine ⟨t, run, plan, spectrum, free, ⟨time, ?_⟩, ends, State.aloneWith_congr alone port rfl⟩
  rw [engine, List.append_nil]

/-! ### PIN -/

theorem pinOrder_pin {o : Handed} {x : State} {c : Fin 256} {r : ChannelRecord} (hc : x.sentChannel o = some c)
    (step : validStep (x.param o 2 2) = true) (options : x.param o 4 1 < 4) (hr : x.channel c = some r)
    (mark : r.mark = none) (hold : r.hold = .defined ∨ ∃ g, r.hold = .placed g) :
    pinOrder o x = x.pin o c r (x.param o 2 2) ((x.param o 4 1).testBit 0) ((x.param o 4 1).testBit 1) := by
  have unmarked : x.marked c = false := by
    unfold State.marked
    rw [hr]
    exact congrArg Option.isSome mark
  rw [pinOrder_checked hc step options, unmarked, if_neg nofun, hr]
  dsimp only
  rcases hold with e | ⟨g, e⟩ <;> rw [e]

theorem pinOrder_state {o : Handed} {x : State} {c : Fin 256} {r : ChannelRecord} (hc : x.sentChannel o = some c)
    (step : validStep (x.param o 2 2) = true) (options : x.param o 4 1 < 4) (hr : x.channel c = some r)
    (mark : r.mark = none) (free : r.hold ≠ .defined) (n : ∀ g, r.hold ≠ .placed g) :
    pinOrder o x = x.refuse o .state := by
  have unmarked : x.marked c = false := by
    unfold State.marked
    rw [hr]
    exact congrArg Option.isSome mark
  rw [pinOrder_checked hc step options, unmarked, if_neg nofun, hr]
  dsimp only
  split
  · next e => exact absurd e free
  · next g e => exact absurd e (n g)
  · rfl

theorem pinResult_length (c : Fin 256) (f : Nat) (old : Option Nat) (check : Nat) (forced : Bool) (score : Nat) :
    (pinResult c f old check forced score).length ≤ 240 := by
  cases old <;> exact Nat.le_of_ble_eq_true rfl

/-- A PIN that gives the channel a frequency: the new one, or the old one again. -/
theorem State.takes.pinned {s : State} {code : OrderCode} {u : Bool} {o : Handed} {c : Fin 256} {r : ChannelRecord}
    {f : Nat} {outcome : OrderOutcome} {reason : Reason} {result : List Byte} (h : s.takes code u o)
    (hr : s.channel c = some r) (ok : s.census.planesOk)
    (p : code.procedure o (s.begin u o) = ((s.begin u o).pinned c r f).conclude o outcome reason 0 [result])
    (hp : result.length ≤ 240) :
    ∃ t, exec code.command s = .next t.arbitrate ∧ t.site = s.site ∧ s.sameSpectrum t ∧ t.free = s.free ∧
      (t.channel c = some { r with hold := .placed f } ∧ s.othersKept t c ∧
        t.plan.epoch = s.plan.epoch + r.hold.removals + 1 ∧ (s.vacate c r).adds t (r.transmitter c false f) ∧
        (s.vacate c r).rechecksAll t) ∧
      s.leaves t u (s.allShort t) ∧ s.ends t o outcome reason 0 [result] ∧
      (s.noticed t).aloneWith t o outcome [result] := by
  have vacated := State.vacate_vacated (s := s.begin u o) (c := c) hr
  have replaced := vacated.replaced ok rfl vacated.queues (.placed f) f
  obtain ⟨t, run, plan, census, spares, site, spectrum, free, leaves, ends, alone⟩ := h.notices (n := 0)
    (z := (s.begin u o).pinned c r f) p replaced.rest
    replaced.port replaced.routine fun l m => by rwa [List.mem_singleton.1 m]
  have alike := (s.begin_alike u o).vacate c r
  have zSite : ((s.begin u o).pinned c r f).site = s.site := by
    have rest := replaced.rest
    unfold State.planNotice at rest
    exact (congrArg State.site rest :)
  exact ⟨t, run, site, spectrum, free, replaced.seen plan census spares (site.trans zSite.symm) rfl alike
    alike.spares.symm, leaves, ends, alone⟩

end Sys2Proof.Machine

open Sys2Proof Sys2Proof.Machine

/-- Settles O35. -/
theorem pinPlacesChannel : Obligations.PinPlacesChannel := by
  intro s u o c r h hc step options hr mark
  have hcb := (s.begin_sentChannel u o).trans hc
  have stepb : validStep ((s.begin u o).param o 2 2) = true := (congrArg validStep (State.begin_param ..)).trans step
  have optionsb : (s.begin u o).param o 4 1 < 4 := (State.begin_param ..).trans_lt options
  refine ⟨fun holds => ?_, fun hold => ?_⟩
  · refine h.refused (pinOrder_state hcb stepb optionsb hr mark ?_ fun g e => ?_)
    · rintro e
      rw [e] at holds
      simp at holds
    · rw [e] at holds
      simp at holds
  have p := pinOrder_pin hcb stepb optionsb (x := s.begin u o) hr mark hold
  rw [State.begin_param, State.begin_param] at p
  have alike := (s.begin_alike u o).vacate c r
  have vacated := State.vacate_vacated (s := s.begin u o) (c := c) hr
  have removals : (if r.hold = .defined then (0 : Word) else 1) = r.hold.removals := by
    rcases hold with e | ⟨g, e⟩ <;> rw [e] <;> rfl
  dsimp only
  rw [removals, ← alike.evaluateFor]
  refine ⟨fun fails => h.refused (p.trans (if_pos (congrArg Bool.not fails))),
    fun passes ok => ?_⟩
  have judged := p.trans (if_neg (ne_true_of_eq_false (congrArg Bool.not passes)))
  have vacates := State.vacate_vacates hr ok
  cases verdict : ((s.begin u o).vacate c r).evaluateFor r (s.param o 2 2) ((s.param o 4 1).testBit 1) with
  | pass n =>
    rw [verdict] at judged
    obtain ⟨t, run, site, spectrum, free, ⟨channel, others, epoch, adds, rechecks⟩, leaves, ends, alone⟩ :=
      h.pinned hr ok judged (pinResult_length ..)
    refine ⟨t, run, others, site, spectrum, vacates, free, fun m e => ?_, nofun, nofun⟩
    obtain rfl := Verdict.pass.inj e
    exact ⟨channel, epoch, adds, rechecks, leaves, ends, alone⟩
  | fail n =>
    rw [verdict] at judged
    unfold State.pinEnd at judged
    dsimp only at judged
    cases force : (s.param o 4 1).testBit 0 with
    | true =>
      rw [force, if_pos rfl] at judged
      obtain ⟨t, run, site, spectrum, free, ⟨channel, others, epoch, adds, rechecks⟩, leaves, ends, alone⟩ :=
        h.pinned hr ok judged (pinResult_length ..)
      refine ⟨t, run, others, site, spectrum, vacates, free, nofun, fun m e _ => ?_, nofun⟩
      obtain rfl := Verdict.fail.inj e
      exact ⟨channel, epoch, adds, rechecks, leaves, ends, alone⟩
    | false =>
      rw [force, if_neg nofun] at judged
      rcases hold with defined | ⟨g, placed⟩
      · rw [defined] at judged
        obtain ⟨t, run, plan, spectrum, free, leaves, ends, alone⟩ := h.nothing (n := 0) judged
          fun l m => by rw [List.mem_singleton.1 m]; exact pinResult_length ..
        have same := plan.2.1
        refine ⟨t, run, fun d _ => congrArg (fun p : Plan => p.channels[d]) same, plan.1, spectrum, vacates, free, nofun,
          nofun, fun m e _ => ?_⟩
        obtain rfl := Verdict.fail.inj e
        refine ⟨(congrArg (fun p : Plan => p.channels[c]) same).trans hr, ?_, fun _ => ⟨plan, leaves⟩, fun g e => ?_, ?_⟩
        · rw [same, defined]
          exact (congrArg (· + 0#32) (BitVec.add_zero _)).trans (BitVec.add_zero _) |>.symm
        · rw [defined] at e
          exact absurd e nofun
        · rw [defined]
          exact ⟨ends, alone⟩
      · rw [placed] at judged
        obtain ⟨t, run, site, spectrum, free, ⟨channel, others, epoch, adds, rechecks⟩, leaves, ends, alone⟩ :=
          h.pinned hr ok judged (pinResult_length ..)
        refine ⟨t, run, others, site, spectrum, vacates, free, nofun, nofun, fun m e _ => ?_⟩
        obtain rfl := Verdict.fail.inj e
        refine ⟨?_, ?_, fun e => ?_, fun k e => ?_, ?_⟩
        · rw [channel, ← placed]
        · rw [epoch, placed]
          rfl
        · rw [placed] at e
          exact absurd e nofun
        · rw [placed] at e
          obtain rfl := Hold.placed.inj e
          exact ⟨adds, rechecks, leaves⟩
        · rw [placed]
          exact ⟨ends, alone⟩

end


section
/-! REPLACE and the auto-move (R95 to R99). -/

namespace Sys2Proof.Machine

theorem State.planNotice.site {s x : State} (h : s.planNotice x) : x.site = s.site := by
  unfold State.planNotice at h
  rw [h]

theorem State.inStageOrder_self (b : State) : b.inStageOrder b = b := by
  unfold State.inStageOrder
  rw [b.engine.joined_self, List.append_nil]

/-- The spare lists once a spare that is used has left its own. -/
def State.sparesLeft (x : State) (b : Fin 8) (f : Nat) (spare : Bool) : Vector (List Spare) 8 :=
  if spare then x.spares.set b ((x.spares[b]).eraseP fun k => k.step = f) else x.spares

theorem State.Queues.takeSpare {b x : State} (h : State.Queues (fun _ => true) b x) (c : Fin 8) (f : Nat) :
    State.Queues (fun _ => true) b (x.takeSpare c f) := by
  refine State.Queues.queueUpkeep (h.trans ?_) fun _ _ => rfl
  refine ⟨fun _ => rfl, rfl, fun d => ?_, fun _ m => m, fun _ m => .inl m⟩
  dsimp only
  rw [vector_set_get]
  split
  · next e =>
    rw [e]
    exact List.length_eraseP_le
  · exact Nat.le_refl _

/-- What the search found is given to the channel (R96). -/
theorem State.replace_found {b : State} {c : Fin 256} {r : ChannelRecord} {g f n : Nat} {only spare : Bool}
    (hr : b.channel c = some r) (ok : b.census.planesOk)
    (found : ((b.vacate c r).search r g only).1 = some (f, n, spare)) :
    ∃ q : State, q.spares = (b.vacate c r).sparesLeft r.fields.stage f spare ∧
      b.Replaced (b.vacate c r) q (b.replace c r g only).1 c r (b.heldAfter r.hold f) f := by
  have vacated := State.vacate_vacated (s := b) (c := c) hr
  have held : (b.vacate c r).heldAfter r.hold f = b.heldAfter r.hold f := by
    unfold State.heldAfter
    rw [vacated.change.now, vacated.change.site]
  have eq : (b.replace c r g only).1 = b.inStageOrder ((b.vacate c r).applyFound c r f spare) := by
    unfold State.replace
    dsimp only
    rw [found]
  rw [eq]
  unfold State.applyFound
  rw [held]
  cases spare with
  | true => exact ⟨_, rfl, vacated.replaced ok rfl (vacated.queues.takeSpare _ _) _ _⟩
  | false => exact ⟨_, rfl, vacated.replaced ok rfl vacated.queues _ _⟩

theorem State.replace_none {b : State} {c : Fin 256} {r : ChannelRecord} {g : Nat} {only : Bool}
    (none : ((b.vacate c r).search r g only).1 = none) :
    (b.replace c r g only).1 = b.inStageOrder ((b.vacate c r).restore c r) := by
  unfold State.replace
  dsimp only
  rw [none]

theorem State.replace_search (b : State) (c : Fin 256) (r : ChannelRecord) (g : Nat) (only : Bool) :
    (b.replace c r g only).2 = (b.vacate c r).search r g only := by
  unfold State.replace
  dsimp only
  split <;> rfl

/-- A PLACED channel gets its old frequency again. -/
theorem State.replace_restores {b : State} {c : Fin 256} {r : ChannelRecord} {g : Nat} {only : Bool}
    (hr : b.channel c = some r) (ok : b.census.planesOk) (placed : r.hold = .placed g)
    (none : ((b.vacate c r).search r g only).1 = none) :
    b.Replaced (b.vacate c r) (b.vacate c r) (b.replace c r g only).1 c r (.placed g) g := by
  have vacated := State.vacate_vacated (s := b) (c := c) hr
  rw [State.replace_none none]
  unfold State.restore
  rw [placed]
  exact vacated.replaced ok rfl vacated.queues (.placed g) g

theorem State.replace_leaves {b : State} {c : Fin 256} {r : ChannelRecord} {g : Nat} {only : Bool}
    (live : r.hold = .live g) (none : ((b.vacate c r).search r g only).1 = none) : (b.replace c r g only).1 = b := by
  rw [State.replace_none none]
  unfold State.restore State.vacate
  rw [live]
  exact b.inStageOrder_self

theorem replaceOrder_replaces {o : Handed} {x : State} {c : Fin 256} {r : ChannelRecord} {g : Nat}
    (hc : x.sentChannel o = some c) (options : x.param o 2 1 < 2) (hr : x.channel c = some r) (mark : r.mark = none)
    (hold : r.hold = .placed g ∨ r.hold = .live g) :
    replaceOrder o x = (x.replace c r g ((x.param o 2 1).testBit 0)).1.replaceEnd o c g
      ((x.vacate c r).search r g ((x.param o 2 1).testBit 0)) := by
  have unmarked : x.marked c = false := by
    unfold State.marked
    rw [hr]
    exact congrArg Option.isSome mark
  rw [replaceOrder_checked hc options, unmarked, if_neg nofun, hr, ← State.replace_search]
  dsimp only
  rcases hold with e | e <;> rw [e]

theorem replaceResult_length (c : Fin 256) (old : Nat) (found : Found) {free : List Byte} (h : free.length ≤ 2) :
    (replaceResult c old found free).length ≤ 240 := by
  obtain ⟨k, n⟩ := found
  cases k with
  | none =>
    have : (replaceResult c old (none, n) free).length = 14 + free.length := by
      unfold replaceResult
      simp [half, word, stepField]
      omega
    omega
  | some e => exact Nat.le_of_ble_eq_true rfl

/-- The old frequency of a channel that REPLACE works on. -/
theorem State.replaceEnd_found {z : State} {o : Handed} {c : Fin 256} {g f n m : Nat} {spare : Bool} :
    z.replaceEnd o c g (some (f, n, spare), m) =
      (z.draw 0).conclude o .done .none (BitVec.ofNat 32 m) [replaceResult c g (some (f, n, spare), m) []] := rfl

theorem State.replaceEnd_none {z : State} {o : Handed} {c : Fin 256} {g m : Nat} :
    z.replaceEnd o c g (none, m) =
      (z.draw 1).conclude o .failed .noCandidate (BitVec.ofNat 32 m) [replaceResult c g (none, m) (z.freeHalf 0)] := rfl

/-! ### The auto-move -/

theorem exec_autoMove {s : State} {c : Fin 256} {g : Nat} (h : s.arbiter = some (.takeUrgent (.autoMove c g))) :
    exec .autoMove s = .next (s.finish ((s.beginEntry true).autoMove c g).release).arbitrate := by
  show execAutoMove s = _
  unfold execAutoMove
  rw [h]
  rfl

theorem State.autoMove_runs {b : State} {c : Fin 256} {r : ChannelRecord} {g : Nat} (hr : b.channel c = some r)
    (live : r.hold = .live g) (auto : b.port.auto = true) : b.autoMove c g = b.runAutoMove c r g := by
  unfold State.autoMove
  rw [hr]
  dsimp only
  rw [live, auto]
  exact if_pos (Bool.and_true _ ▸ decide_eq_true rfl)

theorem State.autoMove_discards {b : State} {c : Fin 256} {g : Nat}
    (h : b.hold c ≠ some (.live g) ∨ b.port.auto = false) : b.autoMove c g = b := by
  unfold State.autoMove
  cases hr : b.channel c with
  | none => rfl
  | some r =>
    refine if_neg fun both => ?_
    obtain ⟨live, auto⟩ := Bool.and_eq_true_iff.1 both
    rcases h with other | off
    · exact other ((State.hold_eq hr).trans (congrArg some (of_decide_eq_true live)))
    · rw [off] at auto
      exact absurd auto nofun

/-- What an AUTO-MOVE that ran leaves, from the state its search has reached. -/
theorem State.autoMove_marks {s z : State} {c : Fin 256} {flag : Byte} {l : List Entry}
    (rest : (s.beginEntry true).planNotice z) (port : z.port = (s.beginEntry true).portFor z)
    (routine : z.engine.routine = s.engine.routine ++ l) :
    let t := s.finish (z.mark (.channel c) flag).release
    t.plan = z.plan ∧ t.census = z.census ∧ t.spares = z.spares ∧ t.site = s.site ∧ s.sameSpectrum t ∧ s.reportsOnly t ∧
      t.free = s.free ∧ s.leaves t true l ∧
      State.marks { t with port := s.portFor t, reports := s.reports } t (.channel c) flag ∧
      (s.heldBack → t.flagged (.channel c) flag) := by
  obtain ⟨keeps, moved⟩ := (s.beginEntry true).portFor_keeps z
  unfold State.planNotice at rest
  have marked := z.keeps_mark (.channel c) flag none
  have site : z.site = s.site := (congrArg State.site rest :)
  have reports : z.reports = s.reports := (congrArg State.reports rest :)
  rw [← port] at keeps moved
  refine ⟨rfl, rfl, rfl, site, ⟨(congrArg State.links rest :), (congrArg State.zones rest :)⟩,
    State.reportsOnly_of (keeps.trans marked.port) (Port.Reports.trans keeps moved marked.reports) rfl, (congrArg State.free rest :), ?_, ?_,
    fun held => ?_⟩
  · refine State.leaves_exact (x := z) ⟨(congrArg State.now rest :), (congrArg State.pending rest :)⟩ rfl ?_
    have engine : z.engine = { s.engine.begin true with routine := z.engine.routine } := (congrArg State.engine rest :)
    rw [routine] at engine
    exact engine
  · have same : (s.beginEntry true).portFor z = s.portFor (s.finish (z.mark (.channel c) flag).release) := rfl
    have back : { s.finish (z.mark (.channel c) flag).release with
        port := s.portFor (s.finish (z.mark (.channel c) flag).release), reports := s.reports } =
        { s.finish (z.mark (.channel c) flag).release with port := z.port, reports := z.reports } := by
      rw [port, reports, same]
    unfold State.marks
    dsimp only
    rw [back]
    exact ⟨rfl, rfl⟩
  · have cells : z.port.cells = s.port.cells := by
      rcases (s.beginEntry true).portFor_cases z with e | e <;> rw [port, e] <;> rfl
    have still : z.heldBack := State.heldBack_congr cells keeps.1 (by rw [site]) held
    exact State.flagged_mark still (.channel c) flag none

/-- A frequency that leaves the plan and one that joins it are two plan changes. -/
theorem epoch_twice (e : Word) {live : Bool} (h : live = false) : e + 1 + 1 = e + if live then 1 else 2 := by
  rw [h, BitVec.add_assoc]
  rfl

theorem epoch_once (e : Word) {live : Bool} (h : live = true) : e + 0 + 1 = e + if live then 1 else 2 := by
  rw [h, BitVec.add_assoc]
  rfl

end Sys2Proof.Machine

open Sys2Proof Sys2Proof.Machine

/-- Settles O37. -/
theorem replaceGivesFrequency : Obligations.ReplaceGivesFrequency := by
  intro s u o c r g h hc options hr mark hold ok
  have p := replaceOrder_replaces (x := s.begin u o) ((s.begin_sentChannel u o).trans hc)
    ((State.begin_param ..).trans_lt options) hr mark hold
  rw [State.begin_param] at p
  have alike := (s.begin_alike u o).vacate c r
  dsimp only
  rw [← alike.search]
  generalize (s.param o 2 1).testBit 0 = only at p ⊢
  refine ⟨State.vacate_vacates hr ok, fun f n spare found => ?_, fun none => ?_⟩
  · obtain ⟨q, spares, replaced⟩ := State.replace_found (b := s.begin u o) hr ok found
    have whole : ((s.begin u o).vacate c r).search r g only =
      (some (f, n, spare), (((s.begin u o).vacate c r).search r g only).2) := Prod.ext found rfl
    rw [whole, State.replaceEnd_found] at p
    obtain ⟨t, run, plan, census, lists, site, spectrum, free, leaves, ends, alone⟩ := h.notices p replaced.rest
      replaced.port replaced.routine fun l m => by
        rw [List.mem_singleton.1 m]
        exact replaceResult_length _ _ _ (Nat.zero_le _)
    obtain ⟨channel, others, epoch, adds, rechecks⟩ := replaced.seen (s := s) plan census lists
      (site.trans replaced.rest.site.symm) rfl alike
      (q' := { s.vacate c r with spares := (s.vacate c r).sparesLeft r.fields.stage f spare })
      (by rw [spares]; unfold State.sparesLeft; rw [alike.spares])
    refine ⟨t, run, channel.trans ?_, others, epoch.trans ?_, adds, rechecks, site, spectrum, leaves, free, ends, alone⟩
    · rcases hold with e | e <;> rw [e] <;> simp [State.heldAfter]
    · rcases hold with e | e <;> rw [e]
      · exact epoch_twice _ (by simp)
      · exact epoch_once _ (by simp)
  · have whole : ((s.begin u o).vacate c r).search r g only =
      (Option.none, (((s.begin u o).vacate c r).search r g only).2) := Prod.ext none rfl
    rw [whole, State.replaceEnd_none] at p
    rcases hold with placed | live
    · have replaced := State.replace_restores (b := s.begin u o) hr ok placed none
      obtain ⟨t, run, plan, census, lists, site, spectrum, free, leaves, ends, alone⟩ := h.notices p replaced.rest
        replaced.port replaced.routine fun l m => by
          rw [List.mem_singleton.1 m]
          exact replaceResult_length _ _ _ (Nat.le_refl _)
      obtain ⟨channel, others, epoch, adds, rechecks⟩ := replaced.seen (s := s) plan census lists
        (site.trans replaced.rest.site.symm) rfl alike (q' := s.vacate c r) alike.spares.symm
      refine ⟨t, _, rfl, run, channel.trans ?_, others, epoch.trans ?_, fun live => ?_, fun _ => ⟨adds, rechecks, leaves⟩,
        site, spectrum, free, ends, alone⟩
      · rw [← placed]
      · rw [placed]
        have not : ¬ decide (Hold.placed g = Hold.live g) = true := fun h => absurd (of_decide_eq_true h) nofun
        rw [if_neg not]
        exact BitVec.add_assoc _ 1#32 1#32
      · rw [placed] at live
        exact absurd (of_decide_eq_true live) nofun
    · have same := State.replace_leaves (b := s.begin u o) live none
      rw [same] at p
      obtain ⟨t, run, plan, spectrum, free, leaves, ends, alone⟩ := h.nothing p fun l m => by
          rw [List.mem_singleton.1 m]
          exact replaceResult_length _ _ _ (Nat.le_refl _)
      have held := plan.2.1
      refine ⟨t, _, rfl, run, (congrArg (fun p : Plan => p.channels[c]) held).trans hr,
        fun d _ => congrArg (fun p : Plan => p.channels[d]) held, ?_, fun _ => ⟨plan, leaves⟩, fun no => ?_, plan.1,
        spectrum, free, ends, alone⟩
      · rw [held, live, if_pos (decide_eq_true rfl)]
        exact (BitVec.add_zero _).symm
      · rw [live] at no
        exact absurd rfl (of_decide_eq_false no)

/-- Settles O38. -/
theorem autoMoveReplacesOrDiscards : Obligations.AutoMoveReplacesOrDiscards := by
  intro s c g h ok
  have run := exec_autoMove h
  refine ⟨fun stale => ?_, fun r hr live auto => ?_⟩
  · rw [State.autoMove_discards (b := s.beginEntry true) stale] at run
    exact ⟨_, run, ⟨⟨rfl, rfl, rfl, rfl⟩, ⟨rfl, rfl⟩, ⟨rfl, rfl⟩⟩, rfl, rfl, rfl, rfl⟩
  · rw [State.autoMove_runs (b := s.beginEntry true) hr live auto] at run
    unfold State.runAutoMove at run
    dsimp only at run ⊢
    have vacated : (s.beginEntry true).vacate c r = s.beginEntry true := by
      unfold State.vacate
      rw [live]
    have search : ((s.beginEntry true).vacate c r).search r g false = s.search r g false := by
      rw [vacated]
      exact (s.begin_entryAlike true).search r g false
    rw [State.replace_search] at run
    cases found : (s.search r g false).1 with
    | none =>
      rw [State.replace_leaves live ((congrArg Prod.fst search).trans found), search, found, Option.isSome_none,
        if_neg nofun] at run
      have none : (s.beginEntry true).port = (s.beginEntry true).portFor (s.beginEntry true) :=
        (if_neg fun both => both.1 both.2).symm
      obtain ⟨plan, census, lists, site, spectrum, reports, free, leaves, marks, flagged⟩ :=
        State.autoMove_marks (s := s) (z := s.beginEntry true) (c := c) (flag := noAlternativeFlag) (l := []) rfl none
          (List.append_nil _).symm
      exact ⟨_, run, fun _ _ => rfl, site, spectrum, reports, free, nofun,
        fun _ => ⟨⟨site, plan, census, lists⟩, leaves, marks, flagged⟩⟩
    | some k =>
      obtain ⟨f, n, spare⟩ := k
      obtain ⟨q, spares, replaced⟩ := State.replace_found (b := s.beginEntry true) hr ok
        ((congrArg Prod.fst search).trans found)
      rw [search, found, Option.isSome_some, if_pos rfl] at run
      obtain ⟨plan, census, lists, site, spectrum, reports, free, leaves, marks, flagged⟩ :=
        State.autoMove_marks (s := s) (c := c) (flag := movedFlag) replaced.rest replaced.port replaced.routine
      obtain ⟨channel, others, epoch, adds, rechecks⟩ := replaced.seen (s := s) (x := s) plan census lists
        (site.trans replaced.rest.site.symm) rfl (by rw [vacated]; exact s.begin_entryAlike true)
        (q' := { s with spares := s.sparesLeft r.fields.stage f spare })
        (by rw [spares, vacated]; rfl)
      refine ⟨_, run, others, site, spectrum, reports, free, fun f' n' spare' e => ?_, nofun⟩
      obtain ⟨rfl, rfl, rfl⟩ : f = f' ∧ n = n' ∧ spare = spare' := by
        have pair := Prod.ext_iff.1 (Option.some.inj e)
        exact ⟨pair.1, (Prod.ext_iff.1 pair.2).1, (Prod.ext_iff.1 pair.2).2⟩
      have short : (s.beginEntry true).allShort ((s.beginEntry true).replace c r g false).1 =
          s.allShort (s.finish (((s.beginEntry true).replace c r g false).1.mark (.channel c) movedFlag).release) :=
        State.shortEntries_congr _ (fun _ => rfl) (fun _ => rfl) lists.symm
          fun b => congrArg (Site.target · b) (replaced.rest.site.trans site.symm)
      rw [short] at leaves
      refine ⟨?_, ?_, adds, rechecks, leaves, marks, flagged⟩
      · rw [channel, live]
        rfl
      · rw [epoch, live]
        exact congrArg (· + 1#32) (BitVec.add_zero _)

end


section
/-! What the orders on the site model share: marks on the way to the end of an order, and an order that ends from a state
its event has reached with a changed site model. -/

namespace Sys2Proof.Machine

/-! ### Attempts to emit (R158 to R161) -/

/-- `t` is reached from `s` by attempts to emit and marks alone. -/
structure State.Emits (s t : State) : Prop where
  rest : ∃ p r, t = { s with port := p, reports := r }
  keeps : s.port.Keeps t.port
  reports : s.port.Reports t.port
  raised : ∀ b, s.port.raw &&& b = b → t.port.raw &&& b = b

namespace State.Emits

theorem refl (s : State) : s.Emits s := ⟨⟨_, _, rfl⟩, .refl _, .refl _, fun _ h => h⟩

theorem trans {s t u : State} (h : s.Emits t) (k : t.Emits u) : s.Emits u := by
  obtain ⟨p, r, rfl⟩ := h.rest
  obtain ⟨p', r', rfl⟩ := k.rest
  exact ⟨⟨p', r', rfl⟩, h.keeps.trans k.keeps, Port.Reports.trans h.keeps h.reports k.reports,
    fun b m => k.raised b (h.raised b m)⟩

theorem attempt (s : State) : s.Emits s.attempt :=
  ⟨⟨_, _, rfl⟩, s.attempt_keeps, s.attempt_reports, fun b => s.attempt_raises b⟩

theorem mark (s : State) (x : Subject) (f : Byte) (hit : Option (Nat × Nat)) : s.Emits (s.mark x f hit) :=
  ⟨⟨_, _, rfl⟩, s.mark_keeps x f hit, s.mark_reports x f hit,
    fun b => State.attempt_raises { s with reports := { s.reports with pending := addMark x f hit s.reports.pending } } b⟩

theorem marks {α : Type} (x : α → Subject) (f : α → Byte) (hit : α → Option (Nat × Nat)) (l : List α) (s : State) :
    s.Emits (l.foldl (fun t a => t.mark (x a) (f a) (hit a)) s) := by
  induction l generalizing s with
  | nil => exact refl s
  | cons a l ih => exact (mark s _ _ _).trans (ih _)

end State.Emits

/-- What an item states of its subject. -/
theorem State.item_congr {s t : State} (channels : t.plan.channels = s.plan.channels) (zones : t.zones = s.zones)
    (links : t.links = s.links) (stages : t.site.stages = s.site.stages) (spares : t.spares = s.spares) :
    t.item = s.item := by
  funext q
  unfold State.item State.channelItem State.zoneItem State.stageItem Site.target State.channel
  rw [channels, zones, links, stages, spares]

/-- Marks depend on the port, the Report Builder, the items and the reserve alone. -/
theorem State.marks_congr {α : Type} (x : α → Subject) (f : α → Byte) (hit : α → Option (Nat × Nat)) (l : List α)
    {s t : State} (port : t.port = s.port) (reports : t.reports = s.reports) (item : t.item = s.item)
    (reserve : t.site.params.reserve = s.site.params.reserve) :
    (l.foldl (fun t a => t.mark (x a) (f a) (hit a)) t).port = (l.foldl (fun t a => t.mark (x a) (f a) (hit a)) s).port ∧
      (l.foldl (fun t a => t.mark (x a) (f a) (hit a)) t).reports =
        (l.foldl (fun t a => t.mark (x a) (f a) (hit a)) s).reports := by
  induction l generalizing s t with
  | nil => exact ⟨port, reports⟩
  | cons a l ih =>
    let marked (v : State) : State :=
      { v with reports := { v.reports with pending := addMark (x a) (f a) (hit a) v.reports.pending } }
    have one := State.attempt_congr (x := marked t) (y := marked s) port (by dsimp only [marked]; rw [reports]) item reserve
    exact ih one.1 one.2 item reserve

theorem State.marks_heldBack {α : Type} (x : α → Subject) (f : α → Byte) (hit : α → Option (Nat × Nat)) (l : List α)
    {s : State} (h : s.heldBack) :
    (l.foldl (fun t a => t.mark (x a) (f a) (hit a)) s).heldBack ∧
      (∀ y g, s.flagged y g → (l.foldl (fun t a => t.mark (x a) (f a) (hit a)) s).flagged y g) ∧
      ∀ a ∈ l, (l.foldl (fun t a => t.mark (x a) (f a) (hit a)) s).flagged (x a) (f a) := by
  induction l generalizing s with
  | nil => exact ⟨h, fun _ _ m => m, nofun⟩
  | cons a l ih =>
    obtain ⟨held, stays, all⟩ := ih (State.heldBack_mark h (x a) (f a) (hit a))
    refine ⟨held, fun y g m => stays y g (m.mark h _ _ _), fun b mem => ?_⟩
    rcases List.mem_cons.1 mem with rfl | mem
    · exact stays _ _ (State.flagged_mark h _ _ _)
    · exact all b mem

/-! ### An order that ends after its event has changed the model -/

theorem State.conclude_raises {x : State} {b : BitVec 5} (h : x.port.raw &&& b = b) (o : Handed) (outcome : OrderOutcome)
    (reason : Reason) (argument : Word) (payloads : List (List Byte)) :
    (x.conclude o outcome reason argument payloads).port.raw &&& b = b := by
  unfold State.conclude State.close
  split
  · refine State.attempt_raises { x with port := x.port.setCells o.cells .free } b ?_
    exact (congrArg (· &&& b) (Port.setCells_raw _ _ _)).trans h
  · exact Port.deliver_raises _ _ _ _ _ _ _ _ b h

/-- An order whose event reaches `z`, by notices and reports in the port, and then ends. What stands alone is told from a
state `b` whose port and Report Builder are those of `z` but for the cells of the order. -/
theorem State.takes.arrives {s z b : State} {code : OrderCode} {u : Bool} {o : Handed} {outcome : OrderOutcome}
    {reason : Reason} {argument : Word} {payloads : List (List Byte)} (h : s.takes code u o)
    (p : code.procedure o (s.begin u o) = z.conclude o outcome reason argument payloads)
    (keeps : (s.begin u o).port.Keeps z.port) (moved : (s.begin u o).port.Reports z.port) (now : z.now = s.now)
    (pending : z.pending = s.pending)
    (mem : b.memoryOk) (port : z.port = b.port.setCells o.cells .active) (reports : z.reports = b.reports)
    (hp : ∀ l ∈ payloads, l.length ≤ 240) :
    ∃ t, exec code.command s = .next t.arbitrate ∧ z.Concluded t ∧
      s.ends t o outcome reason argument payloads ∧ b.aloneWith t o outcome payloads ∧
      ∀ bit : BitVec 5, z.port.raw &&& bit = bit → t.port.raw &&& bit = bit := by
  have reached := s.concluded z o outcome reason argument payloads
  refine ⟨_, h.run p, reached, h.ends outcome reason argument payloads keeps moved now pending hp, ?_,
    fun bit m => State.conclude_raises m ..⟩
  refine State.close_alone (x := z) outcome reason argument payloads h.ok mem port reports ?_ ?_ rfl rfl hp
  · unfold State.conclude State.close
    split <;> rfl
  · unfold State.conclude State.close
    split <;> rfl

/-- The same for an order that has only queued entries on the routine list. -/
theorem State.takes.reaches {s z b : State} {code : OrderCode} {u : Bool} {o : Handed} {outcome : OrderOutcome}
    {reason : Reason} {argument : Word} {payloads : List (List Byte)} {l : List Entry} (h : s.takes code u o)
    (p : code.procedure o (s.begin u o) = z.conclude o outcome reason argument payloads)
    (keeps : (s.begin u o).port.Keeps z.port) (moved : (s.begin u o).port.Reports z.port) (now : z.now = s.now)
    (pending : z.pending = s.pending)
    (engine : z.engine = { s.engine.begin u with routine := (s.engine.begin u).routine ++ l })
    (mem : b.memoryOk) (port : z.port = b.port.setCells o.cells .active) (reports : z.reports = b.reports)
    (hp : ∀ l ∈ payloads, l.length ≤ 240) :
    ∃ t, exec code.command s = .next t.arbitrate ∧ z.Concluded t ∧ s.leaves t u l ∧
      s.ends t o outcome reason argument payloads ∧ b.aloneWith t o outcome payloads ∧
      ∀ bit : BitVec 5, z.port.raw &&& bit = bit → t.port.raw &&& bit = bit := by
  obtain ⟨t, run, reached, ends⟩ := h.arrives p keeps moved now pending mem port reports hp
  exact ⟨t, run, reached, State.leaves_exact ⟨reached.now.trans now, reached.pending.trans pending⟩ reached.engine engine, ends⟩

/-- The entries queued at the end, told from the state the order was taken up in. -/
theorem State.takes.short {s z t : State} {code : OrderCode} {u : Bool} {o : Handed} (h : s.takes code u o)
    (reached : z.Concluded t) (triggered : Fin 8 → Bool) :
    (s.begin u o).shortEntries z triggered = s.shortEntries t triggered :=
  (State.begin_shortEntries h.1 z triggered).trans (State.shortEntries_congr triggered (fun _ => rfl) (fun _ => rfl)
    reached.spares.symm fun b => congrArg (Site.target · b) reached.site.symm)

end Sys2Proof.Machine
end


section
/-! DEFINE STAGE (R10, R11). -/

namespace Sys2Proof.Machine

/-- An entry that is not the order taken up stays on the routine list. -/
theorem State.granted_waits {s : State} {code : OrderCode} {u : Bool} {o : Handed} (h : s.granted code = some (u, o))
    {e : Entry} (other : e ≠ .order o) : e ∈ (s.engine.begin u).routine ↔ e ∈ s.engine.routine := by
  obtain ⟨-, -, kind, -, -⟩ := State.granted_waiting h
  rcases kind with ⟨rfl, -⟩ | ⟨rfl, -, head, -⟩
  · exact Iff.rfl
  · obtain ⟨l, e'⟩ := List.head?_eq_some_iff.1 head
    show e ∈ s.engine.routine.tail ↔ _
    rw [e', List.tail_cons, List.mem_cons]
    exact ⟨.inr, fun m => m.resolve_left other⟩

/-- An entry that is not the order taken up waits at the end of an event that queued it or found it waiting. -/
theorem State.leaves.waits {s t : State} {code : OrderCode} {u : Bool} {o : Handed} {l : List Entry}
    (k : s.leaves t u l) (h : s.granted code = some (u, o)) {e : Entry} (other : e ≠ .order o)
    (m : e ∈ s.engine.routine ∨ e ∈ l) : e ∈ t.engine.routine := by
  rw [k.2]
  refine List.mem_append.2 (m.imp_left fun m => ?_)
  unfold Engine.after
  rw [Engine.routine_release]
  exact (State.granted_waits h other).2 m

theorem stageRecordOf_some {zone autoMove multiple bandwidth target low high : Nat} {r : StageRecord}
    (h : stageRecordOf zone autoMove multiple bandwidth target low high = some r) :
    r.multiple = multiple ∧ r.low = low ∧ r.high = high ∧ r.target = min 8 target := by
  unfold stageRecordOf at h
  split at h
  · split at h
    · cases h
      exact ⟨rfl, rfl, rfl, rfl⟩
    · cases h
  · cases h

theorem StageRecord.sameProfile_self (r : StageRecord) : r.sameProfile r = true := by simp [StageRecord.sameProfile]

theorem spareFieldsChange_self (r : StageRecord) : spareFieldsChange (some r) r = false := by
  simp [spareFieldsChange, StageRecord.sameProfile_self]

/-- The state in which an accepted DEFINE STAGE ends. -/
def State.restaged (x : State) (b : Fin 8) (r : StageRecord) : State :=
  if x.site.stages[b] = some r then x else x.storeStage b r

theorem defineStageOrder_restages {o : Handed} {x : State} {b : Fin 8} {r : StageRecord}
    (hb : index 8 (x.param o 0 1) = some b)
    (hr : stageRecordOf (x.param o 1 1) (x.param o 2 1) (x.param o 3 1) (x.param o 4 1) (x.param o 5 1) (x.param o 8 2)
      (x.param o 10 2) = some r) :
    defineStageOrder o x = (x.restaged b r).done o 0 (r.bytes b ++ [flagByte (8 < x.param o 5 1)]) := by
  unfold defineStageOrder State.restaged
  dsimp only
  rw [hb, hr]

section

variable (x : State) (b : Fin 8) (r : StageRecord)

theorem State.storeStage_rest : ∃ l v, x.storeStage b r =
    { x with site := (x.site.setStage b r).bump, spares := v, engine := { x.engine with routine := l } } := by
  unfold State.storeStage
  dsimp only
  split
  · exact ⟨_, _, rfl⟩
  · exact ⟨_, _, rfl⟩

theorem State.restaged_rest : ∃ l v g, x.restaged b r =
    { x with site := g, spares := v, engine := { x.engine with routine := l } } := by
  unfold State.restaged
  split
  · exact ⟨_, _, _, rfl⟩
  · obtain ⟨l, v, e⟩ := x.storeStage_rest b r
    exact ⟨l, v, _, e⟩

theorem State.restaged_site : (x.restaged b r).site =
    { x.site with
      stages := (x.restaged b r).site.stages
      generation := if x.site.stages[b] = some r then x.site.generation else x.site.generation + 1 } := by
  unfold State.restaged
  split
  · rfl
  · obtain ⟨l, v, e⟩ := x.storeStage_rest b r
    rw [e]
    rfl

theorem State.restaged_stages (c : Fin 8) :
    (x.restaged b r).site.stages[c] = if c = b then some r else x.site.stages[c] := by
  unfold State.restaged
  split
  · next same =>
    split
    · next e => rw [e, same]
    · rfl
  · obtain ⟨l, v, e⟩ := x.storeStage_rest b r
    rw [e]
    exact vector_set_get _ _ _ _

theorem State.restaged_target : (x.restaged b r).site.target b = r.target := by
  unfold Site.target
  rw [State.restaged_stages, if_pos rfl]
  rfl

/-- The spare list of the stage follows the change of its record; every other stays (R11). -/
theorem State.restaged_spares (c : Fin 8) : (x.restaged b r).spares[c] =
    if c = b ∧ spareFieldsChange x.site.stages[b] r = true then spareListAfter x.site.stages[b] r x.spares[b]
    else x.spares[c] := by
  unfold State.restaged
  split
  · next same =>
    refine (if_neg fun both => ?_).symm
    rw [same, spareFieldsChange_self] at both
    exact absurd both.2 nofun
  · unfold State.storeStage
    dsimp only
    split
    · next changes =>
      simp only [changes, and_true]
      exact vector_set_get _ _ _ _
    · next keeps => exact (if_neg fun both => keeps both.2).symm

theorem State.restaged_engine : (x.restaged b r).engine = { x.engine with
    routine := x.engine.routine ++ if spareFieldsChange x.site.stages[b] r = true then
      x.shortEntries (x.restaged b r) fun c => decide (c = b) else [] } := by
  have alone : allStages.filter (fun c => decide (c = b)) = [b] := by
    revert b
    decide
  generalize ex : x.restaged b r = z
  unfold State.restaged at ex
  split at ex
  · next same =>
    subst ex
    rw [same, spareFieldsChange_self, if_neg nofun, List.append_nil]
  · unfold State.storeStage at ex
    dsimp only at ex
    split at ex
    · next changes =>
      subst ex
      rw [if_pos changes]
      refine congrArg (fun l => { x.engine with routine := x.engine.routine ++ l }) ?_
      rw [← alone, State.upkeepEntries_filter]
      rfl
    · next keeps =>
      subst ex
      rw [if_neg keeps, List.append_nil]

end

end Sys2Proof.Machine

open Sys2Proof Sys2Proof.Machine

/-- Settles O11. -/
theorem defineStageStoresRecord : Obligations.DefineStageStoresRecord := by
  intro s u o b r h hb hr
  obtain ⟨multiple, low, high, target⟩ := stageRecordOf_some hr
  have p := defineStageOrder_restages (x := s.begin u o) (o := o) (b := b) (r := r) (by rwa [State.begin_param])
    (by simpa only [State.begin_param] using hr)
  rw [State.begin_param] at p
  obtain ⟨l, v, g, rest⟩ := (s.begin u o).restaged_rest b r
  have port : ((s.begin u o).restaged b r).port = (s.begin u o).port := (congrArg State.port rest :)
  obtain ⟨t, run, reached, leaves, ends, alone, -⟩ := h.reaches (b := s) p (port ▸ .refl _) (port ▸ .refl _)
    (congrArg State.now rest :) (congrArg State.pending rest :) (State.restaged_engine _ b r) h.2.2 port
    (congrArg State.reports rest :) fun l m => by
      rw [List.mem_singleton.1 m]
      exact Nat.le_of_ble_eq_true rfl
  have site := reached.site.trans ((s.begin u o).restaged_site b r)
  have stages : ∀ c : Fin 8, t.site.stages[c] = if c = b then some r else s.site.stages[c] := fun c =>
    (congrArg (fun v : Site => v.stages[c]) reached.site).trans ((s.begin u o).restaged_stages b r c)
  have spares : ∀ c : Fin 8, t.spares[c] = if c = b ∧ spareFieldsChange s.site.stages[b] r = true then
      spareListAfter s.site.stages[b] r s.spares[b] else s.spares[c] := fun c =>
    (congrArg (fun v : Vector (List Spare) 8 => v[c]) reached.spares).trans ((s.begin u o).restaged_spares b r c)
  have leaves' : s.leaves t u
      (if spareFieldsChange s.site.stages[b] r = true then s.shortEntries t fun c => decide (c = b) else []) := by
    rw [← h.short reached]
    exact leaves
  have full : t.site.target b = r.target := by
    rw [reached.site]
    exact State.restaged_target _ b r
  refine ⟨t, run, (stages b).trans (if_pos rfl), fun c other => (stages c).trans (if_neg other), multiple, low, high, target,
    (congrArg Site.window site :), (congrArg Site.params site :), (congrArg Site.iso site :),
    (congrArg Site.exclusions site :), (congrArg Site.generation site :), fun c other => (spares c).trans (if_neg fun both => other both.1),
    fun none => ?_, fun old e differs => ?_, fun old e same shorter => ?_, fun old e same equal => ?_,
    fun changes short idle => ?_, reached.plan.trans (congrArg State.plan rest :),
    reached.census.trans (congrArg State.census rest :),
    ⟨reached.links.trans (congrArg State.links rest :), reached.zones.trans (congrArg State.zones rest :)⟩, leaves', ends, alone⟩
  · rw [spares, none]
    exact if_pos ⟨rfl, rfl⟩
  · rw [spares, e]
    simp [spareFieldsChange, spareListAfter, differs]
  · rw [spares, e]
    simp [spareFieldsChange, spareListAfter, same, shorter]
  · rw [spares, e]
    simp [spareFieldsChange, same, equal]
  · refine leaves'.waits h.1 nofun ?_
    by_cases waits : Entry.upkeep b ∈ s.engine.routine
    · exact .inl waits
    · rw [if_pos changes]
      exact .inr (State.mem_shortEntries.2 ⟨decide_eq_true rfl, full.symm ▸ short, waits, idle⟩)

end


section
/-! A change of the model, and SET COUPLING (R6, R13, R86). -/

namespace Sys2Proof.Machine

/-! ### Rechecks -/

/-- A recheck of the triggered stages. -/
theorem State.rechecks_recheck (x : State) (triggered : Fin 8 → Bool) :
    x.rechecks (x.recheck (allStages.filter triggered)) triggered := by
  intro b
  have got := x.recheck_get (allStages.filter triggered) b
  rw [got]
  have same : State.rechecked { x.recheck (allStages.filter triggered) with spares := x.spares } b = x.rechecked b :=
    State.rechecked_congr (s := { x.recheck (allStages.filter triggered) with spares := x.spares }) (t := x)
      (fun _ _ _ => rfl) rfl rfl b
  rw [same]
  by_cases on : triggered b = true
  · rw [if_pos (List.mem_filter.2 ⟨mem_allStages b, on⟩), if_pos on]
  · rw [if_neg fun m => on (List.mem_filter.1 m).2, if_neg on]

theorem State.rechecksAll_recheck (x : State) : x.rechecksAll (x.recheck allStages) := by
  have := x.rechecks_recheck fun _ => true
  rwa [List.filter_eq_self.2 fun _ _ => rfl] at this

/-! ### A changed model (R6, R13) -/

/-- The REBUILD that a changed model queues: one with frequencies held, unless one waits. -/
def State.rebuilds (x : State) : List Entry :=
  if x.plan.held = true ∧ Entry.rebuild ∉ x.engine.routine then [.rebuild] else []

/-- What a changed model does before its recheck. -/
def State.staled (x : State) : State := if x.plan.held then (x.stale .model).queueRebuild else x

theorem State.modelChanged_eq (x : State) : x.modelChanged = x.staled.recheck allStages := rfl

theorem State.queueRebuild_eq (x : State) : x.queueRebuild = { x with engine := { x.engine with
    routine := x.engine.routine ++ if Entry.rebuild ∈ x.engine.routine then [] else [.rebuild] } } := by
  unfold State.queueRebuild
  by_cases waits : Entry.rebuild ∈ x.engine.routine
  · rw [if_pos (List.contains_iff_mem.2 waits), if_pos waits, List.append_nil]
  · rw [if_neg fun m => waits (List.contains_iff_mem.1 m), if_neg waits]

theorem State.staled_eq (x : State) : x.staled = { x with
    census := if x.plan.held = true then { x.census with state := .stale, cause := .model } else x.census
    port := x.portFor x.staled
    engine := { x.engine with routine := x.engine.routine ++ x.rebuilds } } := by
  unfold State.rebuilds
  by_cases held : x.plan.held = true
  · have queued : x.staled = (x.stale .model).queueRebuild := if_pos held
    have port : x.portFor (x.stale .model).queueRebuild = (x.stale .model).port := by
      have stale : (x.stale .model).queueRebuild.census.state = .stale := by
        unfold State.queueRebuild
        split <;> rfl
      unfold State.portFor
      rw [stale]
      unfold State.stale
      by_cases already : x.census.state = .stale
      · rw [if_neg fun both => both.1 already]
        exact (if_pos already).symm
      · rw [if_pos ⟨already, rfl⟩]
        exact (if_neg already).symm
    rw [queued, port, if_pos held]
    have entries : (if x.plan.held = true ∧ Entry.rebuild ∉ x.engine.routine then [Entry.rebuild] else []) =
        if Entry.rebuild ∈ x.engine.routine then [] else [.rebuild] := by
      by_cases waits : Entry.rebuild ∈ x.engine.routine
      · rw [if_pos waits, if_neg fun both => both.2 waits]
      · rw [if_neg waits, if_pos ⟨held, waits⟩]
    rw [entries]
    exact State.queueRebuild_eq _
  · have stays : x.staled = x := if_neg held
    have port : x.portFor x = x.port := if_neg fun both => both.1 both.2
    rw [stays, port, if_neg held, if_neg fun both => held both.1, List.append_nil]

theorem State.modelChanged_rest (x : State) : x.modelChanged = { x with
    census := x.modelChanged.census, port := x.modelChanged.port, spares := x.modelChanged.spares
    engine := { x.engine with routine := x.modelChanged.engine.routine } } := by
  have rest := x.staled_eq
  rw [State.modelChanged_eq]
  generalize x.staled = y at rest ⊢
  rw [rest]
  rfl

theorem State.modelChanged_census (x : State) : x.modelChanged.census =
    if x.plan.held = true then { x.census with state := .stale, cause := .model } else x.census :=
  (congrArg State.census x.staled_eq :)

theorem State.modelChanged_port (x : State) : x.modelChanged.port = x.portFor x.modelChanged :=
  (congrArg State.port x.staled_eq :)

theorem State.modelChanged_rechecks (x : State) : x.rechecksAll x.modelChanged := by
  refine State.rechecks_congr x.staled.rechecksAll_recheck ?_ rfl rfl rfl rfl
  exact (congrArg State.spares x.staled_eq :).symm

theorem contains_upkeep_rebuilds (x : State) (b : Fin 8) :
    (x.engine.routine ++ x.rebuilds).contains (.upkeep b) = x.engine.routine.contains (.upkeep b) := by
  unfold State.rebuilds
  split <;> simp

theorem State.modelChanged_engine (x : State) : x.modelChanged.engine = { x.engine with
    routine := x.engine.routine ++ (x.rebuilds ++ x.allShort x.modelChanged) } := by
  have engine : x.staled.engine = { x.engine with routine := x.engine.routine ++ x.rebuilds } :=
    (congrArg State.engine x.staled_eq :)
  have short : x.staled.allShort x.modelChanged = x.allShort x.modelChanged :=
    State.shortEntries_congr _ (fun b => by rw [engine]; exact contains_upkeep_rebuilds x b)
      (fun b => Engine.upkeepActive_congr (by rw [engine]) b) rfl fun _ => rfl
  have queues := x.staled.recheck_engine_all
  rw [State.modelChanged_eq] at short ⊢
  rw [queues, short, engine, List.append_assoc]

theorem State.begin_rebuilds {s : State} {code : OrderCode} {u : Bool} {o : Handed} (h : s.granted code = some (u, o)) :
    (s.begin u o).rebuilds = s.rebuilds := by
  have same : Entry.rebuild ∈ (s.begin u o).engine.routine ↔ Entry.rebuild ∈ s.engine.routine :=
    State.granted_waits h nofun
  unfold State.rebuilds
  simp only [same]
  rfl

/-- The port of the state reached, told from the state the order was taken up in with CENSUS raised. -/
theorem State.noticed_port {s z t : State} {u : Bool} {o : Handed} (census : t.census = z.census)
    (port : z.port = (s.begin u o).portFor z) : z.port = (s.noticed t).port.setCells o.cells .active := by
  refine port.trans ?_
  have same : s.portFor t = s.portFor z := State.portFor_congr census
  rw [State.noticed, same]
  unfold State.portFor
  rw [show (s.begin u o).census = s.census from rfl]
  split
  · exact (Port.raise_setCells _ _ _ _).symm
  · rfl

theorem State.noticed_congr {s t z : State} (census : t.census = z.census) : s.noticed t = s.noticed z :=
  congrArg (fun p => { s with port := p }) (State.portFor_congr census)

theorem State.memoryOk_noticed {s : State} (t : State) (h : s.memoryOk) : (s.noticed t).memoryOk :=
  State.memoryOk_keeps (s.portFor_keeps _).1 h

/-! ### The coupling matrix (R13) -/

theorem Site.couple_append (x : Site) (l m : List CouplingEntry) : x.couple (l ++ m) = (x.couple l).couple m :=
  List.foldl_append ..

/-- A pair that no entry names keeps its isolation. -/
theorem Site.isolation_couple_unnamed (x : Site) {entries : List CouplingEntry} (ne : ∀ e ∈ entries, e.1 ≠ e.2.1)
    {a b : Fin 8} (unnamed : ∀ e ∈ entries, ¬ CouplingEntry.names e a b) :
    (x.couple entries).isolation a b = x.isolation a b := by
  induction entries generalizing x with
  | nil => rfl
  | cons e l ih =>
    refine (ih (x.setIsolation e.1 e.2.1 (min 90 e.2.2)) (fun y m => ne y (.tail _ m)) fun y m => unnamed y (.tail _ m)).trans ?_
    rw [Site.isolation_setIsolation _ (ne e (.head _)), if_neg]
    intro named
    refine unnamed e (.head _) ?_
    rcases named with ⟨rfl, rfl⟩ | ⟨rfl, rfl⟩
    · exact .inl ⟨rfl, rfl⟩
    · exact .inr ⟨rfl, rfl⟩

/-- The last entry that names a pair stands, both ways round. -/
theorem Site.isolation_couple_last (x : Site) {l l' : List CouplingEntry} {e : CouplingEntry}
    (ne : ∀ y ∈ l ++ e :: l', y.1 ≠ y.2.1) (last : ∀ y ∈ l', ¬ CouplingEntry.names y e.1 e.2.1) :
    (x.couple (l ++ e :: l')).isolation e.1 e.2.1 = min 90 e.2.2 ∧
      (x.couple (l ++ e :: l')).isolation e.2.1 e.1 = min 90 e.2.2 := by
  have apart := ne e (List.mem_append_right _ (.head _))
  have behind : ∀ y ∈ l', y.1 ≠ y.2.1 := fun y m => ne y (List.mem_append_right _ (.tail _ m))
  rw [Site.couple_append, show (x.couple l).couple (e :: l') =
    ((x.couple l).setIsolation e.1 e.2.1 (min 90 e.2.2)).couple l' from rfl,
    Site.isolation_couple_unnamed _ behind last,
    Site.isolation_couple_unnamed _ behind fun y m named => last y m named.symm,
    Site.isolation_setIsolation _ apart, Site.isolation_setIsolation _ apart]
  exact ⟨if_pos (.inl ⟨rfl, rfl⟩), if_pos (.inr ⟨rfl, rfl⟩)⟩

/-! ### SET COUPLING -/

/-- The state in which an accepted SET COUPLING ends. -/
def State.coupled (x : State) (entries : List CouplingEntry) : State :=
  if (x.site.couple entries).iso = x.site.iso then x else State.modelChanged { x with site := (x.site.couple entries).bump }

theorem setCouplingOrder_couples {o : Handed} {x : State} {entries : List CouplingEntry} (low : 1 ≤ x.param o 0 1)
    (high : x.param o 0 1 ≤ 28) (he : allPresent ((List.range (x.param o 0 1)).map (x.couplingEntry o)) = some entries) :
    setCouplingOrder o x = (x.coupled entries).done o 0
      ([byte (x.param o 0 1), 0#8, 0#8, 0#8] ++ entries.flatMap (x.site.couple entries).couplingBytes) := by
  unfold setCouplingOrder State.coupled
  dsimp only
  rw [if_neg (by omega), he]

section

variable (x : State) (entries : List CouplingEntry)

theorem State.coupled_rest : ∃ g, x.coupled entries = { x with
    site := g, census := (x.coupled entries).census, port := (x.coupled entries).port, spares := (x.coupled entries).spares
    engine := { x.engine with routine := (x.coupled entries).engine.routine } } := by
  unfold State.coupled
  split
  · exact ⟨x.site, rfl⟩
  · exact ⟨_, State.modelChanged_rest _⟩

theorem State.coupled_site : (x.coupled entries).site = { x.site with
    iso := (x.site.couple entries).iso
    generation := if (x.site.couple entries).iso = x.site.iso then x.site.generation else x.site.generation + 1 } := by
  have fields := x.site.couple_fields entries
  unfold State.coupled
  split
  · next same =>
    rw [same]
  · refine (congrArg State.site (State.modelChanged_rest _)).trans ?_
    exact congrArg Site.bump fields

theorem State.coupled_port : (x.coupled entries).port = x.portFor (x.coupled entries) := by
  unfold State.coupled
  split
  · exact (if_neg fun both => both.1 both.2).symm
  · exact State.modelChanged_port _

theorem State.coupled_census : (x.coupled entries).census =
    if (x.site.couple entries).iso ≠ x.site.iso ∧ x.plan.held = true then
      { x.census with state := .stale, cause := .model } else x.census := by
  unfold State.coupled
  split
  · next same => rw [if_neg fun both => both.1 same]
  · next differs =>
    refine (State.modelChanged_census _).trans ?_
    by_cases held : x.plan.held = true
    · rw [if_pos held, if_pos ⟨differs, held⟩]
    · rw [if_neg held, if_neg fun both => held both.2]

theorem State.coupled_engine : (x.coupled entries).engine = { x.engine with
    routine := x.engine.routine ++ if (x.site.couple entries).iso = x.site.iso then [] else
      x.rebuilds ++ x.allShort (x.coupled entries) } := by
  unfold State.coupled
  split
  · rw [List.append_nil]
  · exact State.modelChanged_engine _

end

theorem couplingBytes_length (x : Site) (entries : List CouplingEntry) :
    (entries.flatMap x.couplingBytes).length = 4 * entries.length := by
  induction entries with
  | nil => rfl
  | cons e l ih =>
    rw [List.flatMap_cons, List.length_append, ih, List.length_cons]
    exact Nat.add_comm ..

theorem allPresent_length {α : Type} {l : List (Option α)} {m : List α} (h : allPresent l = some m) :
    m.length = l.length := by
  rw [allPresent_eq_some h, List.length_map]

end Sys2Proof.Machine

open Sys2Proof Sys2Proof.Machine

/-- Settles O12. -/
theorem setCouplingStoresBothWays : Obligations.SetCouplingStoresBothWays := by
  intro s u o entries h low high he
  have ne := State.couplingEntries_ne he
  have entry : (s.begin u o).couplingEntry o = s.couplingEntry o := by
    funext i
    unfold State.couplingEntry
    simp only [State.begin_param]
  have p := setCouplingOrder_couples (x := s.begin u o) (o := o) (entries := entries)
    (low.trans_eq (State.begin_param ..).symm) ((State.begin_param ..).trans_le high) (by rwa [State.begin_param, entry])
  rw [State.begin_param] at p
  obtain ⟨g, rest⟩ := (s.begin u o).coupled_rest entries
  have site := (s.begin u o).coupled_site entries
  have port := (s.begin u o).coupled_port entries
  obtain ⟨keeps, moved⟩ := (s.begin u o).portFor_keeps ((s.begin u o).coupled entries)
  rw [← port] at keeps moved
  have isolation : ((s.begin u o).coupled entries).site.isolation = (s.site.couple entries).isolation := by
    rw [site]
    rfl
  have count : entries.length ≤ 28 := by
    rw [allPresent_length he, List.length_map, List.length_range]
    exact high
  have pb : (s.begin u o).site.couple entries = s.site.couple entries := rfl
  obtain ⟨t, run, reached, leaves, ends, alone, raised⟩ := h.reaches (b := s.noticed ((s.begin u o).coupled entries)) p keeps
    moved (congrArg State.now rest :) (congrArg State.pending rest :) ((s.begin u o).coupled_engine entries)
    (State.memoryOk_noticed _ h.2.2) (State.noticed_port rfl port) (congrArg State.reports rest :) fun l m => by
      rw [List.mem_singleton.1 m, List.length_append, couplingBytes_length, List.length_cons, List.length_cons,
        List.length_cons, List.length_singleton]
      omega
  have iso : t.site.iso = (s.site.couple entries).iso := by
    rw [reached.site, site]
    rfl
  have site' := reached.site.trans site
  have bytes : (s.site.couple entries).couplingBytes = t.site.couplingBytes := by
    funext e
    unfold Site.couplingBytes Site.isolation
    rw [iso]
  have census := reached.census.trans ((s.begin u o).coupled_census entries)
  have told : t.site.isolation = (s.site.couple entries).isolation := by rw [reached.site, isolation]
  rw [pb, bytes] at ends alone
  rw [pb, State.begin_rebuilds h.1, State.allShort, h.short reached, ← iso] at leaves
  rw [← State.noticed_congr reached.census] at alone
  rw [pb, ← iso] at census
  refine ⟨t, run, fun a b unnamed => ?_, fun l e l' split last => ?_, (congrArg Site.window site' :),
    (congrArg Site.params site' :), (congrArg Site.stages site' :), (congrArg Site.exclusions site' :), ?_,
    fun differs held => ⟨census.trans (if_pos ⟨differs, held⟩), ?_, fun fresh => ?_⟩, fun same => census.trans (if_neg ?_),
    fun same => ?_, fun differs => ?_, reached.plan.trans (congrArg State.plan rest :),
    ⟨reached.links.trans (congrArg State.links rest :), reached.zones.trans (congrArg State.zones rest :)⟩, leaves, ends, alone⟩
  · rw [told]
    exact Site.isolation_couple_unnamed _ ne unnamed
  · rw [told, split]
    exact Site.isolation_couple_last _ (split ▸ ne) last
  · rw [iso]
    exact (congrArg Site.generation site' :)
  · refine leaves.waits h.1 nofun ?_
    by_cases waits : Entry.rebuild ∈ s.engine.routine
    · exact .inl waits
    · refine .inr ?_
      have entries : s.rebuilds = [.rebuild] := if_pos ⟨held, waits⟩
      rw [entries]
      exact (if_neg differs).symm ▸ (.head _)
  · refine raised censusBit ?_
    have stale : ((s.begin u o).coupled entries).census.state = .stale := by
      rw [← reached.census, census, if_pos ⟨differs, held⟩]
    rw [port, State.portFor, if_pos ⟨fresh, stale⟩]
    exact or_raised _ _
  · rcases same with same | free
    · exact fun both => both.1 same
    · exact fun both => absurd (free.symm.trans both.2) nofun
  · have stays : (s.begin u o).coupled entries = s.begin u o := if_pos (iso.symm.trans same)
    rw [reached.spares, stays]
    rfl
  · have changed : (s.begin u o).coupled entries =
        State.modelChanged { s.begin u o with site := (s.site.couple entries).bump } := if_neg fun same => differs (iso.trans same)
    rw [changed] at reached
    exact State.rechecks_congr (State.modelChanged_rechecks { s.begin u o with site := (s.site.couple entries).bump })
      (s' := s) rfl reached.site (congrArg Plan.channels reached.plan)
      reached.census reached.spares

end


section
/-! ADD EXCLUSION and DROP EXCLUSION (R14 to R16). -/

namespace Sys2Proof.Machine

/-! ### Spare lists that pass (R85, R86) -/

theorem State.keepSpares_all (s : State) (b : Fin 8) (r : StageRecord) (kept l : List Spare)
    (pass : ∀ x ∈ l, s.sparePasses b r x.step = true)
    (apart : (kept ++ l).Pairwise fun x y => s.site.spareSpacing r ≤ distance x.step y.step) :
    s.keepSpares b r kept l = kept ++ l := by
  induction l generalizing kept with
  | nil => exact (List.append_nil _).symm
  | cons x l ih =>
    have spaced : kept.all (fun k => decide (s.site.spareSpacing r ≤ distance k.step x.step)) = true :=
      List.all_eq_true.2 fun k m => decide_eq_true ((List.pairwise_append.1 apart).2.2 k m x (.head _))
    unfold State.keepSpares
    rw [pass x (.head _), spaced, Bool.and_self, if_pos rfl, ih (kept ++ [x]) (fun y m => pass y (.tail _ m))
      (by rwa [List.append_assoc]), List.append_assoc]
    rfl

/-- A list whose spares pass and stand apart stays as it is. -/
theorem State.rechecked_stays {s : State} {b : Fin 8}
    (pass : ∀ r, s.site.stages[b] = some r → ∀ x ∈ s.spares[b], s.sparePasses b r x.step = true) (apart : s.sparesApart) :
    s.rechecked b = s.spares[b] := by
  unfold State.rechecked
  split
  · rfl
  · next r hr => exact s.keepSpares_all b r [] _ (pass r hr) (apart b r hr)

theorem State.sparePasses_iff (s : State) (b : Fin 8) (r : StageRecord) (f : Nat) :
    s.sparePasses b r f = true ↔ s.check2 (s.site.spareCandidate b r f) = true ∧
      s.check4 (s.site.spareCandidate b r f) s.plan.transmitters = true ∧
      s.check5 (s.site.spareCandidate b r f) s.plan.transmitters [] = true ∧
      s.check6 (s.site.spareCandidate b r f) s.plan.transmitters = true := by
  simp only [State.sparePasses, Bool.and_eq_true, and_assoc]

/-! ### Cells of an order (R146) -/

theorem countP_set_le {α : Type} (p : α → Bool) (l : List α) (i : Nat) {a : α} (h : p a = false) :
    (l.set i a).countP p ≤ l.countP p := by
  induction l generalizing i with
  | nil => exact Nat.le_refl _
  | cons b l ih =>
    cases i with
    | zero =>
      rw [List.set_cons_zero, List.countP_cons_of_neg (by rw [h]; exact nofun)]
      exact (List.sublist_cons_self b l).countP_le
    | succ i =>
      rw [List.set_cons_succ, List.countP_cons, List.countP_cons]
      exact Nat.add_le_add_right (ih i) _

/-- Putting cells into another state than FREE makes no cell FREE. -/
theorem Port.freeCount_setCells (p : Port) (cs : List Nat) {st : CellState} (h : st ≠ .free) :
    (p.setCells cs st).freeCount ≤ p.freeCount := by
  unfold Port.setCells
  induction cs generalizing p with
  | nil => exact Nat.le_refl _
  | cons c cs ih =>
    refine (ih (p.setCell c st)).trans ?_
    unfold Port.setCell
    split
    · next i _ => exact (congrArg _ (Vector.toList_set i.isLt)).trans_le (countP_set_le _ _ _ (decide_eq_false h))
    · exact Nat.le_refl _

/-- The cells of an order in progress stay ACTIVE through marks and attempts. -/
theorem State.takes.emits {s x y : State} {code : OrderCode} {u : Bool} {o : Handed} (h : s.takes code u o)
    (port : x.port = (s.begin u o).port) (k : x.Emits y) :
    (s.begin u o).port.Keeps y.port ∧ (s.begin u o).port.Reports y.port ∧ y.memoryOk ∧
      y.port = y.port.setCells o.cells .active := by
  have keeps := k.keeps
  have reports := k.reports
  rw [port] at keeps reports
  refine ⟨keeps, reports, State.memoryOk_keeps keeps (State.memoryOk_keeps (s.holds_begin u o).port h.2.2),
    (Port.setCells_same _ _ _ fun c m => ?_).symm⟩
  have active := s.begin_active u o h.ok c m
  rw [reports.1 c (by rw [active]; exact nofun), active]

/-- A state that shares the port, the Report Builder, the items and the reserve of another one. -/
theorem State.aloneWith_of {b y t : State} {o : Handed} {outcome : OrderOutcome} {payloads : List (List Byte)}
    (h : y.aloneWith t o outcome payloads) (same : y.port = b.port ∧ y.reports = b.reports) :
    b.aloneWith t o outcome payloads := State.aloneWith_congr h same.1.symm same.2.symm

/-! ### ADD EXCLUSION -/

/-- The channels marked, from a state with the record in the list. -/
theorem addExclusionOrder_adds {o : Handed} {x : State} {e : Exclusion} (sent : x.sentExclusion o = some e)
    (ok : e.ok = true) (new : e ∉ x.site.exclusions) (room : x.site.exclusions.length < 64) :
    addExclusionOrder o x = (x.addExclusionRecord e).done o 0
      ([byte ((x.addExclusionRecord e).site.exclusions.findIdx (· = e)),
          byte (x.addExclusionRecord e).site.exclusions.length] ++ half (x.conflicting e).length) := by
  unfold addExclusionOrder
  rw [sent]
  dsimp only
  rw [ok, if_neg nofun, if_neg fun m => new (List.contains_iff_mem.1 m), if_neg (Nat.not_le.2 room)]

/-- The state with the record in the list, before its marks. -/
def State.excluding (x : State) (e : Exclusion) : State :=
  { x with site := { x.site with exclusions := insertExclusion e x.site.exclusions }.bump }

/-- The state after the marks of ADD EXCLUSION. -/
def State.conflictMarked (x : State) (e : Exclusion) : State := (x.excluding e).markConflicts (x.conflicting e)

theorem State.addExclusionRecord_eq (x : State) (e : Exclusion) :
    x.addExclusionRecord e = (x.conflictMarked e).recheck (allStages.filter fun b => e.mask.getLsbD b) := rfl

theorem State.conflictMarked_emits (x : State) (e : Exclusion) : (x.excluding e).Emits (x.conflictMarked e) :=
  State.Emits.marks (fun c => .channel c) (fun _ => conflictFlag) (fun _ => none) _ _

/-- A recheck of the triggered stages after a change of the site model and marks. -/
theorem State.recheck_marked {x y z : State} (emits : y.Emits z) (spares : y.spares = x.spares)
    (engine : y.engine = x.engine) (triggered : Fin 8 → Bool) :
    x.rechecks (z.recheck (allStages.filter triggered)) triggered ∧
      (z.recheck (allStages.filter triggered)).engine = { x.engine with
        routine := x.engine.routine ++ x.shortEntries (z.recheck (allStages.filter triggered)) triggered } := by
  obtain ⟨p, r, rest⟩ := emits.rest
  have lists : z.spares = x.spares := (congrArg State.spares rest).trans spares
  have same : z.engine = x.engine := (congrArg State.engine rest).trans engine
  refine ⟨State.rechecks_congr (z.rechecks_recheck triggered) lists.symm rfl rfl rfl rfl, ?_⟩
  rw [State.recheck_engine, State.shortEntries_congr (s := x) (s' := z) triggered (fun _ => by rw [same])
    (fun _ => by rw [same]) rfl fun _ => rfl, same]

/-! ### DROP EXCLUSION -/

/-- The state with a record out of the list. -/
def State.including (x : State) (e : Exclusion) : State :=
  { x with site := { x.site with exclusions := x.site.exclusions.erase e }.bump }

theorem dropExclusionOrder_drops {o : Handed} {x : State} {e : Exclusion} (low : validStep (x.param o 0 2) = true)
    (high : validStep (x.param o 2 2) = true) (sent : x.sentExclusion o = some e) (mem : e ∈ x.site.exclusions) :
    dropExclusionOrder o x =
      ((x.including e).recheck (allStages.filter fun b => e.mask.getLsbD b)).done o 0
        [byte (x.site.exclusions.erase e).length] := by
  unfold dropExclusionOrder
  rw [low, high, if_neg nofun, sent]
  dsimp only
  rw [if_pos (List.contains_iff_mem.2 mem)]
  rfl

/-- The products read the parameters and the coupling alone of the site model. -/
theorem Site.thirdOf_congr {x y : Site} (params : y.params = x.params) (iso : y.iso = x.iso) (b : Fin 8)
    (l m : List Transmitter) : y.thirdOf b l m = x.thirdOf b l m := by
  rw [Site.thirdOf_eq, Site.thirdOf_eq, params]
  unfold Site.relevant Site.nearIm Site.isolation
  rw [params, iso]

theorem Site.fifthOf_congr {x y : Site} (params : y.params = x.params) (iso : y.iso = x.iso) (b : Fin 8)
    (l m : List Transmitter) : y.fifthOf b l m = x.fifthOf b l m := by
  rw [Site.fifthOf_eq, Site.fifthOf_eq, params]
  unfold Site.relevant Site.nearIm Site.isolation
  rw [params, iso]

theorem State.check5_including (x : State) (e : Exclusion) (c : Candidate) (set aside : List Transmitter) :
    (x.including e).check5 c set aside = x.check5 c set aside := by
  have third : ∀ b, (x.including e).count3 b set aside = x.count3 b set aside := fun b => by
    unfold State.count3
    rw [Site.thirdOf_congr (x := x.site) (y := (x.including e).site) rfl rfl b aside set,
      Site.thirdOf_congr (x := x.site) (y := (x.including e).site) rfl rfl b set []]
    rfl
  have fifth : ∀ b, (x.including e).count5 b set aside = x.count5 b set aside := fun b => by
    unfold State.count5
    rw [Site.fifthOf_congr (x := x.site) (y := (x.including e).site) rfl rfl b aside set,
      Site.fifthOf_congr (x := x.site) (y := (x.including e).site) rfl rfl b set []]
    rfl
  unfold State.check5
  rw [third, fifth]
  rfl

/-- Where every spare passed and stood apart, one record less drops none. -/
theorem State.including_stays {x : State} (e : Exclusion) (pass : x.sparesPass) (apart : x.sparesApart) (b : Fin 8) :
    (x.including e).rechecked b = x.spares[b] := by
  refine State.rechecked_stays (s := x.including e) (fun r hr y m => ?_) apart
  obtain ⟨excluded, placed, products, checks⟩ := pass b r hr y m
  refine (State.sparePasses_iff _ b r y.step).2 ⟨?_, placed, (State.check5_including ..).trans products, checks⟩
  unfold State.check2 at excluded ⊢
  rw [List.all_eq_true] at excluded ⊢
  exact fun k mem => excluded k (List.mem_of_mem_erase mem)

end Sys2Proof.Machine

open Sys2Proof Sys2Proof.Machine

/-- Settles O13. -/
theorem exclusionOrdersChangeList : Obligations.ExclusionOrdersChangeList := by
  refine ⟨fun s u o e h sent ok new room => ?_, fun s u o e h low high sent mem => ?_⟩
  · have sent' : (s.begin u o).sentExclusion o = some e := by
      rw [← sent]
      unfold State.sentExclusion
      simp only [State.begin_param]
    have p := addExclusionOrder_adds (x := s.begin u o) sent' ok new room
    have emits := (s.begin u o).conflictMarked_emits e
    obtain ⟨q, r, rest⟩ := emits.rest
    obtain ⟨rechecks, engine⟩ := State.recheck_marked (x := s.begin u o) emits rfl rfl fun b => e.mask.getLsbD b
    rw [← State.addExclusionRecord_eq] at rechecks engine
    have whole : ∃ l v, (s.begin u o).addExclusionRecord e =
        { (s.begin u o).excluding e with port := q, reports := r, spares := v, engine := { s.engine.begin u with routine := l } } := by
      rw [State.addExclusionRecord_eq, rest]
      exact ⟨_, _, rfl⟩
    obtain ⟨l, v, whole⟩ := whole
    have port : ((s.begin u o).addExclusionRecord e).port = ((s.begin u o).conflictMarked e).port := rfl
    have reports : ((s.begin u o).addExclusionRecord e).reports = ((s.begin u o).conflictMarked e).reports := rfl
    have site : ((s.begin u o).addExclusionRecord e).site =
        { s.site with exclusions := insertExclusion e s.site.exclusions, generation := s.site.generation + 1 } :=
      (congrArg State.site whole :)
    let taken : State := { s with port := s.port.setCells o.cells .active }
    have told := State.marks_congr (fun c => .channel c) (fun _ => conflictFlag) (fun _ => none) (s.conflicting e)
      (s := taken) (t := (s.begin u o).excluding e) rfl rfl
      (State.item_congr rfl rfl rfl rfl rfl) rfl
    obtain ⟨keeps, moved, mem, active⟩ := h.emits (x := (s.begin u o).excluding e) rfl emits
    obtain ⟨t, run, reached, leaves, ends, alone, -⟩ := h.reaches (b := (s.begin u o).conflictMarked e) p keeps moved
      (congrArg State.now whole :) (congrArg State.pending whole :) engine mem active rfl fun l m => by
        rw [List.mem_singleton.1 m]
        exact Nat.le_of_ble_eq_true rfl
    rw [h.short reached] at leaves
    have site' := reached.site.trans site
    have list : t.site.exclusions = insertExclusion e s.site.exclusions := (congrArg Site.exclusions site' :)
    rw [site, ← list] at ends alone
    refine ⟨t, run, ?_, fun rules => Site.exclusionsOk_insert rules ok new room list, ?_, ?_, fun c m loud held => ?_,
      reached.plan.trans (congrArg State.plan whole :), reached.census.trans (congrArg State.census whole :),
      ⟨reached.links.trans (congrArg State.links whole :), reached.zones.trans (congrArg State.zones whole :)⟩,
      leaves, ends, State.aloneWith_of alone told⟩
    · rw [list]
      exact insertExclusion_perm e _
    · rw [list]
      exact site'
    · exact State.rechecks_congr rechecks (s' := s) rfl reached.site (congrArg Plan.channels reached.plan) reached.census
        reached.spares
    · have back : ((s.begin u o).excluding e).heldBack := .inl ((Port.freeCount_setCells s.port o.cells (st := .active) nofun).trans held)
      obtain ⟨q, m, flags⟩ := (State.marks_heldBack (fun c => Subject.channel c) (fun _ => conflictFlag) (fun _ => none)
        (s.conflicting e) back).2.2 c m
      exact ⟨q, (alone.1 (Handed.silent_loud loud .done)).1 ▸ m, flags⟩
  · have sent' : (s.begin u o).sentExclusion o = some e := by
      rw [← sent]
      unfold State.sentExclusion
      simp only [State.begin_param]
    have p := dropExclusionOrder_drops (x := s.begin u o) (o := o)
      ((congrArg validStep (State.begin_param ..)).trans low) ((congrArg validStep (State.begin_param ..)).trans high) sent' mem
    obtain ⟨rechecks, engine⟩ := State.recheck_marked (x := s.begin u o) (.refl ((s.begin u o).including e)) rfl rfl
      fun b => e.mask.getLsbD b
    obtain ⟨t, run, reached, leaves, ends, alone, -⟩ := h.reaches (b := s) p (.refl _) (.refl _) rfl rfl engine h.2.2 rfl rfl
      fun l m => by
        rw [List.mem_singleton.1 m]
        exact Nat.le_of_ble_eq_true rfl
    rw [h.short reached] at leaves
    have list : t.site.exclusions = s.site.exclusions.erase e := (congrArg Site.exclusions reached.site :)
    have same : (s.begin u o).site.exclusions.erase e = t.site.exclusions := list.symm
    rw [same] at ends alone
    have told : s.rechecks t fun b => e.mask.getLsbD b :=
      State.rechecks_congr rechecks rfl reached.site (congrArg Plan.channels reached.plan) reached.census reached.spares
    refine ⟨t, run, ?_, ?_, ?_, told, fun pass apart => ?_, reached.plan, reached.census, ⟨reached.links, reached.zones⟩,
      leaves, ends, alone⟩
    · rw [list]
      exact List.perm_cons_erase mem
    · rw [list]
      exact List.erase_sublist
    · rw [list]
      exact reached.site
    · refine Vector.ext fun i hi => ?_
      refine (told ⟨i, hi⟩).trans ?_
      have stays : State.rechecked { t with spares := s.spares } ⟨i, hi⟩ = s.spares[i] :=
        (State.rechecked_congr (s := { t with spares := s.spares }) (t := s.including e)
          (State.sparePasses_congr reached.site (congrArg Plan.channels reached.plan) reached.census)
          reached.site rfl ⟨i, hi⟩).trans (State.including_stays e pass apart ⟨i, hi⟩)
      rw [stays]
      exact ite_self _

end


section
/-! Zones that go STALE (R7, R109): what it does to a zone, its link, the port and the Report Builder. -/

namespace Sys2Proof.Machine

/-! ### States in which marks do the same -/

/-- Two states that agree in all that marks and their items read. -/
structure State.MarksAlike (s t : State) : Prop where
  channels : t.plan.channels = s.plan.channels
  zones : t.zones = s.zones
  links : t.links = s.links
  stages : t.site.stages = s.site.stages
  spares : t.spares = s.spares
  port : t.port = s.port
  reports : t.reports = s.reports
  reserve : t.site.params.reserve = s.site.params.reserve

namespace State.MarksAlike

theorem item {s t : State} (h : s.MarksAlike t) : t.item = s.item :=
  State.item_congr h.channels h.zones h.links h.stages h.spares

theorem attempt {s t : State} (h : s.MarksAlike t) : s.attempt.MarksAlike t.attempt := by
  have one := State.attempt_congr (x := t) (y := s) h.port h.reports h.item h.reserve
  exact ⟨h.channels, h.zones, h.links, h.stages, h.spares, one.1, one.2, h.reserve⟩

theorem mark {s t : State} (h : s.MarksAlike t) (x : Subject) (f : Byte) (hit : Option (Nat × Nat)) :
    (s.mark x f hit).MarksAlike (t.mark x f hit) :=
  attempt (s := { s with reports := { s.reports with pending := addMark x f hit s.reports.pending } })
    (t := { t with reports := { t.reports with pending := addMark x f hit t.reports.pending } })
    ⟨h.channels, h.zones, h.links, h.stages, h.spares, h.port,
      congrArg (fun r : Reports => { r with pending := addMark x f hit r.pending }) h.reports, h.reserve⟩

theorem onZone {s t : State} (h : s.MarksAlike t) (z : Fin 4) (f : Zone → Zone) :
    (s.onZone z f).MarksAlike (t.onZone z f) :=
  ⟨h.channels, congrArg (fun v : Vector Zone 4 => v.set z (f v[z])) h.zones, h.links, h.stages, h.spares, h.port, h.reports,
    h.reserve⟩

theorem onLink {s t : State} (h : s.MarksAlike t) (z : Fin 4) (f : Link → Link) :
    (s.onLink z f).MarksAlike (t.onLink z f) :=
  ⟨h.channels, h.zones, congrArg (fun v : Vector Link 4 => v.set z (f v[z])) h.links, h.stages, h.spares, h.port, h.reports,
    h.reserve⟩

theorem goStale {s t : State} (h : s.MarksAlike t) (z : Fin 4) : (s.goStale z).MarksAlike (t.goStale z) :=
  (((h.onZone z _).mark (.zone z) staleFlag none).onLink z Link.abandon).onZone z Zone.restartPeriod

end State.MarksAlike

/-! ### A zone that goes STALE -/

theorem State.goStale_zones (s : State) (z y : Fin 4) : (s.goStale z).zones[y] =
    if y = z then { s.zones[z] with freshness := .stale, goodSweeps := 0, map := (s.goStale z).zones[z].map }
    else s.zones[y] := by
  have zones : (s.goStale z).zones = (s.zones.set z { s.zones[z] with freshness := .stale }).set z
      (s.zones.set z { s.zones[z] with freshness := .stale })[z].restartPeriod := rfl
  rw [zones, vector_set_get, vector_set_get]
  split
  · rw [vector_set_get, if_pos rfl, vector_set_get, if_pos rfl]
    rfl
  · next other => rw [vector_set_get, if_neg other]

theorem State.goStale_map (s : State) (z : Fin 4) : (s.goStale z).zones[z].map =
    sparseMap Bin.cleared Bin.restart s.zones[z].map := by
  have zones : (s.goStale z).zones = (s.zones.set z { s.zones[z] with freshness := .stale }).set z
      (s.zones.set z { s.zones[z] with freshness := .stale })[z].restartPeriod := rfl
  rw [zones, vector_set_get, if_pos rfl, vector_set_get, if_pos rfl]
  rfl

theorem State.goStale_links (s : State) (z y : Fin 4) :
    (s.goStale z).links[y] = if y = z then s.links[z].abandon else s.links[y] := vector_set_get _ _ _ _

theorem State.goStale_rest (s : State) (z : Fin 4) : ∃ v l p r, s.goStale z =
    { s with zones := v, links := l, port := p, reports := r } := ⟨_, _, _, _, rfl⟩

theorem State.goStale_emits (s : State) (z : Fin 4) : s.port.Keeps (s.goStale z).port ∧
    s.port.Reports (s.goStale z).port ∧ ∀ b, s.port.raw &&& b = b → (s.goStale z).port.raw &&& b = b := by
  have emits := State.Emits.mark (s.onZone z fun zone => { zone with freshness := .stale }) (.zone z) staleFlag none
  exact ⟨emits.keeps, emits.reports, emits.raised⟩

theorem State.goStale_heldBack {s : State} (z : Fin 4) (h : s.heldBack) : (s.goStale z).heldBack ∧
    (s.goStale z).flagged (.zone z) staleFlag ∧ ∀ x f, s.flagged x f → (s.goStale z).flagged x f :=
  ⟨State.heldBack_mark (s := s.onZone z fun zone => { zone with freshness := .stale }) h (.zone z) staleFlag none,
    State.flagged_mark (s := s.onZone z fun zone => { zone with freshness := .stale }) h (.zone z) staleFlag none,
    fun _ _ m => State.flagged.mark (s := s.onZone z fun zone => { zone with freshness := .stale }) m h (.zone z) staleFlag none⟩

/-! ### Several zones that go STALE -/

/-- The zones of a list for which `late` says so go STALE in turn. -/
def State.staleAll (s : State) (late : Fin 4 → Bool) (l : List (Fin 4)) : State :=
  l.foldl (fun x z => if late z then x.goStale z else x) s

namespace State

variable (late : Fin 4 → Bool)

theorem staleAll_on {y : Fin 4} (on : late y = true) (l : List (Fin 4)) (s : State) :
    s.staleAll late (y :: l) = (s.goStale y).staleAll late l :=
  congrArg (fun x : State => x.staleAll late l) (if_pos on)

theorem staleAll_off {y : Fin 4} (off : late y = false) (l : List (Fin 4)) (s : State) :
    s.staleAll late (y :: l) = s.staleAll late l :=
  congrArg (fun x : State => x.staleAll late l) (if_neg (ne_true_of_eq_false off))

theorem staleAll_rest (l : List (Fin 4)) (s : State) : ∃ v k p r, s.staleAll late l =
    { s with zones := v, links := k, port := p, reports := r } := by
  induction l generalizing s with
  | nil => exact ⟨_, _, _, _, rfl⟩
  | cons z l ih =>
    obtain ⟨v, k, p, r, e⟩ := ih (if late z then s.goStale z else s)
    refine ⟨v, k, p, r, e.trans ?_⟩
    split <;> rfl

theorem staleAll_emits (l : List (Fin 4)) (s : State) : s.port.Keeps (s.staleAll late l).port ∧
    s.port.Reports (s.staleAll late l).port ∧ ∀ b, s.port.raw &&& b = b → (s.staleAll late l).port.raw &&& b = b := by
  induction l generalizing s with
  | nil => exact ⟨.refl _, .refl _, fun _ h => h⟩
  | cons z l ih =>
    have one : s.port.Keeps (if late z then s.goStale z else s).port ∧ s.port.Reports (if late z then s.goStale z else s).port ∧
        ∀ b, s.port.raw &&& b = b → (if late z then s.goStale z else s).port.raw &&& b = b := by
      split
      · exact s.goStale_emits z
      · exact ⟨.refl _, .refl _, fun _ h => h⟩
    obtain ⟨keeps, reports, raised⟩ := ih (if late z then s.goStale z else s)
    exact ⟨one.1.trans keeps, Port.Reports.trans one.1 one.2.1 reports, fun b h => raised b (one.2.2 b h)⟩

theorem staleAll_alike (l : List (Fin 4)) {s t : State} (h : s.MarksAlike t) :
    (s.staleAll late l).MarksAlike (t.staleAll late l) := by
  induction l generalizing s t with
  | nil => exact h
  | cons z l ih =>
    cases on : late z with
    | true =>
      rw [staleAll_on late on, staleAll_on late on]
      exact ih (h.goStale z)
    | false =>
      rw [staleAll_off late on, staleAll_off late on]
      exact ih h

theorem staleAll_untouched {l : List (Fin 4)} {z : Fin 4} (h : z ∈ l → late z = false) (s : State) :
    (s.staleAll late l).zones[z] = s.zones[z] ∧ (s.staleAll late l).links[z] = s.links[z] := by
  induction l generalizing s with
  | nil => exact ⟨rfl, rfl⟩
  | cons y l ih =>
    have behind : z ∈ l → late z = false := fun m => h (.tail _ m)
    cases on : late y with
    | true =>
      have other : z ≠ y := by
        rintro rfl
        exact absurd ((h (.head _)).symm.trans on) nofun
      obtain ⟨zones, links⟩ := ih behind (s.goStale y)
      rw [staleAll_on late on]
      exact ⟨zones.trans (by rw [State.goStale_zones, if_neg other]),
        links.trans (by rw [State.goStale_links, if_neg other])⟩
    | false =>
      rw [staleAll_off late on]
      exact ih behind s

theorem staleAll_late {l : List (Fin 4)} (once : l.Nodup) {z : Fin 4} (m : z ∈ l) (on : late z = true) (s : State) :
    (s.staleAll late l).zones[z] =
        { s.zones[z] with freshness := .stale, goodSweeps := 0, map := sparseMap Bin.cleared Bin.restart s.zones[z].map } ∧
      (s.staleAll late l).links[z] = s.links[z].abandon := by
  induction l generalizing s with
  | nil => exact absurd m List.not_mem_nil
  | cons y l ih =>
    obtain ⟨new, once⟩ := List.nodup_cons.1 once
    by_cases e : z = y
    · subst e
      obtain ⟨zones, links⟩ := State.staleAll_untouched late (fun m => absurd m new) (s.goStale z)
      rw [staleAll_on late on, zones, links, State.goStale_zones, State.goStale_links, if_pos rfl, if_pos rfl, State.goStale_map]
      exact ⟨rfl, rfl⟩
    · obtain ⟨zones, links⟩ := ih once (List.mem_of_ne_of_mem e m) (if late y then s.goStale y else s)
      have same : (if late y then s.goStale y else s).zones[z] = s.zones[z] ∧
          (if late y then s.goStale y else s).links[z] = s.links[z] := by
        split
        · exact ⟨by rw [State.goStale_zones, if_neg e], by rw [State.goStale_links, if_neg e]⟩
        · exact ⟨rfl, rfl⟩
      rw [same.1] at zones
      rw [same.2] at links
      exact ⟨zones, links⟩

theorem staleAll_flagged (l : List (Fin 4)) {s : State} (h : s.heldBack) :
    (∀ x f, s.flagged x f → (s.staleAll late l).flagged x f) ∧
      ∀ z ∈ l, late z = true → (s.staleAll late l).flagged (.zone z) staleFlag := by
  induction l generalizing s with
  | nil => exact ⟨fun _ _ m => m, nofun⟩
  | cons y l ih =>
    cases on : late y with
    | true =>
      obtain ⟨held, flagged, stays⟩ := State.goStale_heldBack y h
      obtain ⟨behind, all⟩ := ih held
      rw [staleAll_on late on]
      refine ⟨fun x f m => behind x f (stays x f m), fun z m late => ?_⟩
      rcases List.mem_cons.1 m with rfl | m
      · exact behind _ _ flagged
      · exact all z m late
    | false =>
      obtain ⟨behind, all⟩ := ih h
      rw [staleAll_off late on]
      refine ⟨behind, fun z m on' => ?_⟩
      rcases List.mem_cons.1 m with rfl | m
      · exact absurd (on.symm.trans on') nofun
      · exact all z m on'

end State

/-! ### A lowered link timeout (R7) -/

/-- Whether a zone is overdue depends on the zone, its link, the link timeout and the clock. -/
theorem State.overdue_congr {s t : State} {z : Fin 4} (zone : t.zones[z] = s.zones[z]) (link : t.links[z] = s.links[z])
    (site : t.site = s.site) (now : t.now = s.now) : t.overdue z = s.overdue z := by
  unfold State.overdue State.timeoutAt
  rw [zone, link, site, now]

/-- The zones that a lowered link timeout makes STALE are those overdue before. -/
theorem State.timeoutLowered_eq (s : State) : s.timeoutLowered = s.staleAll s.overdue allZones := by
  have all : ∀ (l : List (Fin 4)) (t : State), l.Nodup → (∀ z ∈ l, t.overdue z = s.overdue z) →
      l.foldl (fun t z => if t.overdue z then t.goStale z else t) t = t.staleAll s.overdue l := by
    intro l
    induction l with
    | nil => exact fun _ _ _ => rfl
    | cons y l ih =>
      intro t once same
      obtain ⟨new, once⟩ := List.nodup_cons.1 once
      have step : (if t.overdue y then t.goStale y else t) = if s.overdue y then t.goStale y else t := by
        rw [same y (.head _)]
      refine (congrArg (fun x => l.foldl (fun t z => if t.overdue z then t.goStale z else t) x) step).trans ?_
      refine ih _ once fun z m => ?_
      have other : z ≠ y := fun e => new (e ▸ m)
      refine Eq.trans ?_ (same z (.tail _ m))
      split
      · exact State.overdue_congr (by rw [State.goStale_zones, if_neg other]) (by rw [State.goStale_links, if_neg other]) rfl rfl
      · rfl
  exact all allZones s (by decide) fun _ _ => rfl

theorem State.overdue_eq (s : State) (z : Fin 4) : s.overdue z = (s.zones[z].freshness.timed &&
    (s.links[z].lastValid.map fun v => decide (v + s.site.params.linkTimeout ≤ s.now)).getD false) := by
  unfold State.overdue State.timeoutAt
  cases s.zones[z].freshness.timed with
  | false => rfl
  | true => cases s.links[z].lastValid <;> rfl

end Sys2Proof.Machine
end


section
/-! SET PARAMETERS (R3 to R8). -/

namespace Sys2Proof.Machine

theorem setParametersOrder_stores {o : Handed} {x : State} (window : (x.sentWindow o).ok = true)
    (low : 1 ≤ (x.sentParams o).imLevel) (high : (x.sentParams o).imLevel ≤ 3)
    (plan : x.site.window = x.sentWindow o ∨ x.plan.held = false) :
    setParametersOrder o x = (x.storeParameters (x.sentWindow o) (x.sentParams o).clamped).done o 0
      ((x.storeParameters (x.sentWindow o) (x.sentParams o).clamped).site.parameterBytes ++
        half (x.sentParams o).marks) := by
  unfold setParametersOrder
  dsimp only
  rw [window, if_neg nofun, if_neg (by omega), if_neg]
  rintro ⟨differs, held⟩
  rcases plan with same | free
  · exact differs same
  · exact absurd (free.symm.trans held) nofun

section

variable (x : State) (w : Window) (p : Params)

/-- The state with the values stored, before their effects. -/
def State.stored : State := { x with site := x.site.store w p }

/-- The state after the effects of a changed window. -/
def State.windowed : State := if x.site.window ≠ w then (x.stored w p).windowChanged else x.stored w p

/-- The state after the effects of R5 and R6. -/
def State.changed : State := if x.site.params.checkChange p then (x.windowed w p).modelChanged else x.windowed w p

/-- The state after the attempt that a changed reserve makes. -/
def State.retried : State := if x.site.params.reserve ≠ p.reserve then (x.changed w p).attempt else x.changed w p

/-- The zones that a lowered link timeout makes STALE. -/
def State.late (z : Fin 4) : Bool :=
  decide (p.linkTimeout < x.site.params.linkTimeout) && (x.retried w p).overdue z

theorem State.staleAll_none {s : State} {late : Fin 4 → Bool} (h : ∀ z, late z = false) (l : List (Fin 4)) :
    s.staleAll late l = s := by
  induction l with
  | nil => rfl
  | cons z l ih => rw [State.staleAll_off late (h z), ih]

theorem State.storeParameters_eq :
    x.storeParameters w p = (x.retried w p).staleAll (x.late w p) allZones := by
  have whole : x.storeParameters w p =
      if p.linkTimeout < x.site.params.linkTimeout then (x.retried w p).timeoutLowered else x.retried w p := rfl
  rw [whole]
  split
  · next lowered =>
    rw [State.timeoutLowered_eq]
    congr 1
    funext z
    unfold State.late
    rw [decide_eq_true lowered, Bool.true_and]
  · next kept =>
    exact (State.staleAll_none (fun z => by rw [State.late, decide_eq_false kept, Bool.false_and]) _).symm

theorem State.changed_rest : ∃ c v z e q, x.changed w p =
    { x with site := x.site.store w p, census := c, spares := v, zones := z, engine := e, port := q } := by
  have one : ∃ c v z e, x.windowed w p = { x with site := x.site.store w p, census := c, spares := v, zones := z, engine := e } := by
    unfold State.windowed
    split <;> exact ⟨_, _, _, _, rfl⟩
  obtain ⟨c, v, z, e, one⟩ := one
  unfold State.changed
  split
  · rw [State.modelChanged_rest, one]
    exact ⟨_, _, _, _, _, rfl⟩
  · exact ⟨c, v, z, e, _, one⟩

/-- The zones once the window stands. -/
theorem State.changed_zones : (x.changed w p).zones =
    if x.site.window = w then x.zones else mapTable Zone.newWindow x.zones := by
  have one : (x.windowed w p).zones = if x.site.window = w then x.zones else mapTable Zone.newWindow x.zones := by
    unfold State.windowed
    by_cases same : x.site.window = w
    · rw [if_neg (not_not.2 same), if_pos same]
      rfl
    · rw [if_pos same, if_neg same]
      rfl
  unfold State.changed
  split
  · rw [State.modelChanged_zones, one]
  · exact one

variable {x w p}

/-! ### A window that is the same (R6) -/

theorem State.windowed_same (same : x.site.window = w) : x.windowed w p = x.stored w p := if_neg (not_not.2 same)

theorem State.changed_same (same : x.site.window = w) :
    x.changed w p = if x.site.params.checkChange p then (x.stored w p).modelChanged else x.stored w p := by
  unfold State.changed
  rw [State.windowed_same same]

/-! ### A changed window (R5) -/

theorem State.windowed_other (differs : x.site.window ≠ w) : x.windowed w p = (x.stored w p).windowChanged :=
  if_pos differs

theorem State.changed_other_census (differs : x.site.window ≠ w) (free : x.plan.held = false) :
    (x.changed w p).census = Census.cleared := by
  unfold State.changed
  rw [State.windowed_other differs]
  split
  · exact State.modelChanged_census_not (x.stored w p).windowChanged free
  · rfl

theorem State.changed_other_spares (differs : x.site.window ≠ w) :
    (x.changed w p).spares = Vector.replicate 8 [] := by
  unfold State.changed
  rw [State.windowed_other differs]
  split
  · refine State.recheck_empty _ ?_ _
    exact (congrArg State.spares (State.staled_eq (x.stored w p).windowChanged) :)
  · rfl

theorem State.windowChanged_engine (y : State) : y.windowChanged.engine = { y.engine with
    routine := y.engine.routine ++ y.allShort y.windowChanged } :=
  congrArg (fun l => { y.engine with routine := y.engine.routine ++ l })
    (State.upkeepEntries_all { y with
      census := Census.cleared, spares := Vector.replicate 8 [], zones := mapTable Zone.newWindow y.zones })

/-- The entries of a changed window stand already when the check parameters change as well. -/
theorem State.changed_other_engine (differs : x.site.window ≠ w) (free : x.plan.held = false) :
    (x.changed w p).engine = { x.engine with routine := x.engine.routine ++ x.allShort (x.changed w p) } := by
  have spares := State.changed_other_spares (p := p) differs
  have windowed := State.windowChanged_engine (x.stored w p)
  have same : x.allShort (x.changed w p) = (x.stored w p).allShort (x.stored w p).windowChanged :=
    State.shortEntries_congr _ (fun _ => rfl) (fun _ => rfl) spares fun b => by
      obtain ⟨c, v, z, e, q, rest⟩ := x.changed_rest w p
      exact (congrArg (fun s : State => s.site.target b) rest :)
  rw [same]
  unfold State.changed at spares ⊢
  rw [State.windowed_other differs] at spares ⊢
  split
  · next check =>
    rw [if_pos check] at spares
    have none : (x.stored w p).windowChanged.rebuilds = [] := if_neg fun both => ne_true_of_eq_false free both.1
    have queued : (x.stored w p).windowChanged.allShort (x.stored w p).windowChanged.modelChanged = [] := by
      refine List.eq_nil_iff_forall_not_mem.2 fun e m => ?_
      obtain ⟨b, -, rfl⟩ := List.mem_map.1 m
      obtain ⟨-, short, new, idle⟩ := State.mem_shortEntries.1 m
      rw [spares, (State.modelChanged_keeps _).site] at short
      rw [windowed] at new idle
      exact new (List.mem_append_right _ (State.mem_shortEntries.2 ⟨rfl, short, fun m => new (List.mem_append_left _ m), idle⟩))
    rw [State.modelChanged_engine, none, queued, List.append_nil, List.append_nil]
    exact windowed
  · exact windowed

/-! ### The state in which SET PARAMETERS ends -/

/-- The entries that SET PARAMETERS queues. -/
def State.parameterEntries (s t : State) (w : Window) (p : Params) : List Entry :=
  (if s.site.params.checkChange p = true ∧ s.plan.held = true ∧ Entry.rebuild ∉ s.engine.routine then [.rebuild] else []) ++
    if s.site.window ≠ w ∨ s.site.params.checkChange p = true then s.allShort t else []

theorem State.changed_engine (plan : x.site.window = w ∨ x.plan.held = false) : (x.changed w p).engine = { x.engine with
    routine := x.engine.routine ++ x.parameterEntries (x.changed w p) w p } := by
  unfold State.parameterEntries
  by_cases same : x.site.window = w
  · by_cases check : x.site.params.checkChange p = true
    · have model : x.changed w p = (x.stored w p).modelChanged := (State.changed_same same).trans (if_pos check)
      have rebuilds : (if x.site.params.checkChange p = true ∧ x.plan.held = true ∧ Entry.rebuild ∉ x.engine.routine then
          [Entry.rebuild] else []) = (x.stored w p).rebuilds :=
        ite_congr (propext ⟨And.right, And.intro check⟩) (fun _ => rfl) fun _ => rfl
      rw [rebuilds, if_pos (.inr check), model]
      exact State.modelChanged_engine _
    · have kept : x.changed w p = x.stored w p := (State.changed_same same).trans (if_neg check)
      rw [kept, if_neg fun all => check all.1, if_neg (by simp [same, check])]
      exact congrArg (fun l => { x.engine with routine := l }) (List.append_nil _).symm
  · have free := plan.resolve_left same
    rw [if_neg fun all => ne_true_of_eq_false free all.2.1, if_pos (.inl same)]
    exact State.changed_other_engine same free

theorem State.changed_census_same (same : x.site.window = w) : (x.changed w p).census =
    if x.site.params.checkChange p = true ∧ x.plan.held = true then { x.census with state := .stale, cause := .model }
    else x.census := by
  rw [State.changed_same same]
  split
  · next check =>
    refine (State.modelChanged_census _).trans ?_
    exact ite_congr (propext ⟨And.intro check, And.right⟩) (fun _ => rfl) fun _ => rfl
  · next kept => rw [if_neg fun all => kept all.1]; rfl

/-- CENSUS is raised where the census enters STALE, and the port is otherwise the same. -/
theorem State.changed_port (plan : x.site.window = w ∨ x.plan.held = false) :
    (x.changed w p).port = x.portFor (x.changed w p) := by
  by_cases same : x.site.window = w
  · rw [State.changed_same same]
    split
    · exact State.modelChanged_port (x.stored w p)
    · exact (if_neg fun both => both.1 both.2).symm
  · have free := plan.resolve_left same
    have valid : x.portFor (x.changed w p) = x.port :=
      if_neg fun both => by
        rw [State.changed_other_census same free] at both
        exact absurd both.2 nofun
    rw [valid]
    unfold State.changed
    rw [State.windowed_other same]
    split
    · refine (State.modelChanged_port _).trans (if_neg fun both => ?_)
      rw [State.modelChanged_census_not (x.stored w p).windowChanged free] at both
      exact absurd both.2 nofun
    · rfl

theorem State.retried_emits : (x.changed w p).Emits (x.retried w p) := by
  unfold State.retried
  split
  · exact .attempt _
  · exact .refl _

/-- All but the zones, the links, the port and the Report Builder stands once R5 and R6 have applied. -/
theorem State.storeParameters_rest : ∃ v k q r, x.storeParameters w p =
    { x.changed w p with zones := v, links := k, port := q, reports := r } := by
  obtain ⟨q, r, retried⟩ := (State.retried_emits (x := x) (w := w) (p := p)).rest
  obtain ⟨v, k, q', r', stale⟩ := State.staleAll_rest (x.late w p) allZones (x.retried w p)
  rw [State.storeParameters_eq, stale, retried]
  exact ⟨v, k, q', r', rfl⟩

/-- From the port after R5 and R6 to the port at the end only attempts to emit are made. -/
theorem State.storeParameters_port : (x.changed w p).port.Keeps (x.storeParameters w p).port ∧
    (x.changed w p).port.Reports (x.storeParameters w p).port ∧
    ∀ b, (x.changed w p).port.raw &&& b = b → (x.storeParameters w p).port.raw &&& b = b := by
  have first := State.retried_emits (x := x) (w := w) (p := p)
  obtain ⟨keeps, reports, raised⟩ := State.staleAll_emits (x.late w p) allZones (x.retried w p)
  rw [State.storeParameters_eq]
  exact ⟨first.keeps.trans keeps, Port.Reports.trans first.keeps first.reports reports, fun b h => raised b (first.raised b h)⟩

theorem State.late_eq (z : Fin 4) : x.late w p z =
    (decide (p.linkTimeout < x.site.params.linkTimeout) && ((x.changed w p).zones[z]).freshness.timed &&
      ((x.links[z].lastValid).map fun v => decide (v + p.linkTimeout ≤ x.now)).getD false) := by
  obtain ⟨q, r, retried⟩ := (State.retried_emits (x := x) (w := w) (p := p)).rest
  obtain ⟨c, v, y, e, q', changed⟩ := x.changed_rest w p
  rw [State.late, State.overdue_eq, retried, changed, Bool.and_assoc]
  rfl

theorem State.storeParameters_zones (z : Fin 4) :
    (x.late w p z = false → (x.storeParameters w p).zones[z] = (x.changed w p).zones[z] ∧
      (x.storeParameters w p).links[z] = x.links[z]) ∧
    (x.late w p z = true → (x.storeParameters w p).zones[z] = { (x.changed w p).zones[z] with
        freshness := .stale, goodSweeps := 0, map := sparseMap Bin.cleared Bin.restart ((x.changed w p).zones[z]).map } ∧
      (x.storeParameters w p).links[z] = (x.links[z]).abandon) := by
  obtain ⟨q, r, retried⟩ := (State.retried_emits (x := x) (w := w) (p := p)).rest
  obtain ⟨c, v, y, e, q', changed⟩ := x.changed_rest w p
  have zones : (x.retried w p).zones = (x.changed w p).zones := (congrArg State.zones retried :)
  have links : (x.retried w p).links = x.links := by
    rw [retried, changed]
  rw [State.storeParameters_eq, ← links, ← zones]
  exact ⟨fun off => State.staleAll_untouched _ (fun _ => off) _,
    fun on => State.staleAll_late _ (by decide) (mem_allZones z) on _⟩

/-- The marks of a lowered link timeout are held back at or below the new reserve. -/
theorem State.storeParameters_flagged {z : Fin 4} (h : (x.changed w p).heldBack) (on : x.late w p z = true) :
    (x.storeParameters w p).flagged (.zone z) staleFlag := by
  have held : (x.retried w p).heldBack := by
    unfold State.retried
    split
    · obtain ⟨-, b, port⟩ := State.attempt_heldBack h
      exact State.heldBack_congr (s := x.changed w p) (t := (x.changed w p).attempt) (by rw [port]) (by rw [port]) rfl h
    · exact h
  rw [State.storeParameters_eq]
  exact (State.staleAll_flagged _ allZones held).2 z (mem_allZones z) on

/-- The attempt and the marks, told from a state that agrees with the one after R5 and R6. -/
theorem State.storeParameters_alike {b : State} (h : (x.changed w p).MarksAlike b) :
    (x.storeParameters w p).MarksAlike
      ((if x.site.params.reserve = p.reserve then b else b.attempt).staleAll (x.late w p) allZones) := by
  rw [State.storeParameters_eq]
  refine State.staleAll_alike _ _ ?_
  unfold State.retried
  by_cases same : x.site.params.reserve = p.reserve
  · rw [if_neg (not_not.2 same), if_pos same]
    exact h
  · rw [if_pos same, if_neg same]
    exact h.attempt

theorem Zone.newWindow_eq (z : Zone) : z.newWindow = { z with
    map := []
    goodSweeps := 0
    segments := Vector.replicate 64 Segment.cleared
    freshness := if z.freshness = .silent then .silent else .warming
    referencePending := if z.freshness = .silent then z.referencePending else true } := by
  unfold Zone.newWindow
  by_cases silent : z.freshness = .silent
  · simp only [silent, if_true]
    rw [← silent]
    rfl
  · simp only [silent, if_false]
    rfl

end

end Sys2Proof.Machine

open Sys2Proof Sys2Proof.Machine

/-- Settles O10. -/
theorem setParametersStoresClamped : Obligations.SetParametersStoresClamped := by
  intro s u o h window low high plan
  have sentW : (s.begin u o).sentWindow o = s.sentWindow o := by
    unfold State.sentWindow
    simp only [State.begin_param]
  have sentP : (s.begin u o).sentParams o = s.sentParams o := by
    unfold State.sentParams
    simp only [State.begin_param]
  have p := setParametersOrder_stores (x := s.begin u o) (o := o) (by rwa [sentW]) (by rwa [sentP]) (by rwa [sentP])
    (by rwa [sentW])
  rw [sentW, sentP] at p
  have ok := Params.clamped_ok _ low high
  have changedPort := State.changed_port (x := s.begin u o) (w := s.sentWindow o) (p := (s.sentParams o).clamped) plan
  obtain ⟨keeps0, moved0⟩ := (s.begin u o).portFor_keeps ((s.begin u o).changed (s.sentWindow o) (s.sentParams o).clamped)
  rw [← changedPort] at keeps0 moved0
  obtain ⟨keeps, moved, raises⟩ := State.storeParameters_port (x := s.begin u o) (w := s.sentWindow o) (p := (s.sentParams o).clamped)
  have keeps' := keeps0.trans keeps
  have moved' := Port.Reports.trans keeps0 moved0 moved
  obtain ⟨c, v, y, e, q', rest⟩ := (s.begin u o).changed_rest (s.sentWindow o) (s.sentParams o).clamped
  obtain ⟨v', k, q'', r, whole⟩ := State.storeParameters_rest (x := s.begin u o) (w := s.sentWindow o) (p := (s.sentParams o).clamped)
  have engine := State.changed_engine (x := s.begin u o) (w := s.sentWindow o) (p := (s.sentParams o).clamped) plan
  have now : ((s.begin u o).storeParameters (s.sentWindow o) (s.sentParams o).clamped).now = s.now := by rw [whole, rest]; rfl
  have pending : ((s.begin u o).storeParameters (s.sentWindow o) (s.sentParams o).clamped).pending = s.pending := by rw [whole, rest]; rfl
  have sameEngine : ((s.begin u o).storeParameters (s.sentWindow o) (s.sentParams o).clamped).engine = ((s.begin u o).changed (s.sentWindow o) (s.sentParams o).clamped).engine := by rw [whole]
  have active : ((s.begin u o).storeParameters (s.sentWindow o) (s.sentParams o).clamped).port =
      ((s.begin u o).storeParameters (s.sentWindow o) (s.sentParams o).clamped).port.setCells o.cells .active :=
    (Port.setCells_same _ _ _ fun c m => by
      have active := s.begin_active u o h.ok c m
      rw [moved'.1 c (by rw [active]; exact nofun), active]).symm
  obtain ⟨t, run, reached, leaves, ends, alone, raised⟩ := h.reaches (b := (s.begin u o).storeParameters (s.sentWindow o) (s.sentParams o).clamped) p keeps' moved'
    now pending (sameEngine.trans engine)
    (State.memoryOk_keeps keeps' (State.memoryOk_keeps (s.holds_begin u o).port h.2.2)) active rfl fun l m => by
      rw [List.mem_singleton.1 m]
      exact Nat.le_of_ble_eq_true rfl
  have site : t.site = s.site.store (s.sentWindow o) (s.sentParams o).clamped := reached.site.trans (by rw [whole, rest]; rfl)
  have plan' : t.plan = s.plan := reached.plan.trans (by rw [whole, rest]; rfl)
  have census : t.census = ((s.begin u o).changed (s.sentWindow o) (s.sentParams o).clamped).census := reached.census.trans (by rw [whole])
  have spares : t.spares = ((s.begin u o).changed (s.sentWindow o) (s.sentParams o).clamped).spares := reached.spares.trans (by rw [whole])
  have entries : (s.begin u o).parameterEntries ((s.begin u o).changed (s.sentWindow o) (s.sentParams o).clamped) (s.sentWindow o) (s.sentParams o).clamped = s.parameterEntries t (s.sentWindow o) (s.sentParams o).clamped := by
    have short : (s.begin u o).allShort ((s.begin u o).changed (s.sentWindow o) (s.sentParams o).clamped) = s.allShort t :=
      (State.begin_shortEntries h.1 _ _).trans (State.shortEntries_congr _ (fun _ => rfl) (fun _ => rfl) spares.symm fun b => by
        rw [site, rest]
        rfl)
    have waits : Entry.rebuild ∈ (s.begin u o).engine.routine ↔ Entry.rebuild ∈ s.engine.routine :=
      State.granted_waits h.1 nofun
    unfold State.parameterEntries
    rw [short]
    simp only [waits]
    rfl
  rw [entries] at leaves
  have begunZones : ((s.begin u o).changed (s.sentWindow o) (s.sentParams o).clamped).zones =
      if s.site.window = s.sentWindow o then s.zones else mapTable Zone.newWindow s.zones :=
    (s.begin u o).changed_zones (s.sentWindow o) (s.sentParams o).clamped
  have tardy := fun z => State.late_eq (x := s.begin u o) (w := s.sentWindow o) (p := (s.sentParams o).clamped) z
  have told := fun z => State.storeParameters_zones (x := s.begin u o) (w := s.sentWindow o) (p := (s.sentParams o).clamped) z
  rw [begunZones] at tardy told
  rw [← reached.zones, ← reached.links] at told
  rw [← reached.site] at ends alone
  refine ⟨t, run, ?_⟩
  intro w q changed begun late bytes
  have lateEq : (s.begin u o).late w q = late := funext tardy
  rw [lateEq] at told
  refine ⟨site, ok, plan', fun differs => ⟨?_, ?_, fun z => ?_⟩, fun same check held => ⟨?_, ?_, fun fresh => ?_⟩,
    fun same kept => ?_, fun same check => ?_, fun same kept => ?_, fun z off => ?_, fun z on => ⟨?_, fun maps n => ?_, ?_, fun held loud => ?_⟩,
    leaves, ends, ?_⟩
  · exact census.trans (State.changed_other_census differs (plan.resolve_left differs))
  · exact spares.trans (State.changed_other_spares differs)
  · have zones : begun = mapTable Zone.newWindow s.zones := if_neg differs
    rw [zones, mapTable_get]
    exact Zone.newWindow_eq _
  · exact census.trans ((State.changed_census_same (x := s.begin u o) same).trans (if_pos ⟨check, held⟩))
  · refine leaves.waits h.1 nofun ?_
    by_cases waits : Entry.rebuild ∈ s.engine.routine
    · exact .inl waits
    · refine .inr (List.mem_append_left _ ?_)
      rw [if_pos ⟨check, held, waits⟩]
      exact .head _
  · refine raised _ (raises _ ?_)
    have stale : ((s.begin u o).changed w q).census.state = .stale :=
      congrArg Census.state ((State.changed_census_same (x := s.begin u o) same).trans (if_pos ⟨check, held⟩))
    rw [changedPort, State.portFor, if_pos ⟨fresh, stale⟩]
    exact or_raised _ _
  · refine census.trans ((State.changed_census_same (x := s.begin u o) same).trans (if_neg fun both => ?_))
    rcases kept with e | e
    · exact ne_true_of_eq_false e both.1
    · exact ne_true_of_eq_false e both.2
  · have model : (s.begin u o).changed w q = ((s.begin u o).stored w q).modelChanged :=
      (State.changed_same (x := s.begin u o) same).trans (if_pos check)
    rw [model] at census spares
    refine State.rechecks_congr (State.modelChanged_rechecks ((s.begin u o).stored w q)) rfl ?_ ?_ census spares
    · exact site.trans (State.modelChanged_keeps ((s.begin u o).stored w q)).site.symm
    · exact congrArg Plan.channels (plan'.trans (State.modelChanged_plan ((s.begin u o).stored w q)).symm)
  · have model : (s.begin u o).changed w q = (s.begin u o).stored w q :=
      (State.changed_same (x := s.begin u o) same).trans (if_neg (ne_true_of_eq_false kept))
    rw [spares, model]
    rfl
  · exact (told z).1 off
  · rw [((told z).2 on).1]
  · rw [((told z).2 on).1]
    have canonical : sparseOk Bin.cleared (begun[z]).map = true := by
      by_cases same : s.site.window = w
      · have zones : begun = s.zones := if_pos same
        rw [zones]
        exact maps z
      · have zones : begun = mapTable Zone.newWindow s.zones := if_neg same
        rw [zones, mapTable_get, Zone.newWindow_eq]
        rfl
    exact sparseMap_get rfl canonical n
  · rw [((told z).2 on).2]
    by_cases idle : s.links[z].sweep = none
    · rw [Link.abandon_none (l := (s.begin u o).links[z]) idle, if_pos idle, ← idle]
      rfl
    · rw [Link.abandon_some (l := (s.begin u o).links[z]) idle, if_neg idle]
      rfl
  · have back : ((s.begin u o).changed w q).heldBack := by
      refine .inl ?_
      have cells : ((s.begin u o).changed w q).port.cells = (s.port.setCells o.cells .active).cells := by
        rw [changedPort, State.portFor]
        split <;> rfl
      have count : ((s.begin u o).changed w q).port.freeCount = (s.port.setCells o.cells .active).freeCount := by
        unfold Port.freeCount
        rw [cells]
      rw [count, rest]
      exact (Port.freeCount_setCells s.port o.cells (st := .active) nofun).trans held
    obtain ⟨m, mem, flags⟩ := State.storeParameters_flagged (z := z) back (by rw [lateEq]; exact on)
    exact ⟨m, (alone.1 (Handed.silent_loud loud .done)).1 ▸ mem, flags⟩
  · intro stored tried
    have alike : ((s.begin u o).changed w q).MarksAlike stored :=
      ⟨congrArg Plan.channels (plan'.trans (by rw [rest]; rfl)), begunZones.symm, by rw [rest]; rfl,
        by rw [rest]; exact congrArg Site.stages site, spares, (State.noticed_port census changedPort).symm, by rw [rest]; rfl,
        by rw [rest]; exact congrArg (fun v : Site => v.params.reserve) site⟩
    have same := State.storeParameters_alike alike
    rw [lateEq] at same
    exact State.aloneWith_congr alone same.port same.reports

end


section
/-! The routing of a hit, ARM WATCH and FORCE HIT (R87, R98, R127 to R129). -/

namespace Sys2Proof.Machine

/-! ### What a hit reaches (R98) -/

/-- A frequency with its half-width reaches a segment where both hold a step of the window. -/
def Window.reaches (w : Window) (j : Fin 64) (f halfWidth : Nat) : Prop :=
  ∃ n, w.w0 ≤ n ∧ n ≤ w.top ∧ w.segmentLow j ≤ n ∧ n ≤ w.segmentHigh j ∧ f ≤ n + halfWidth ∧ n ≤ f + halfWidth

theorem Window.inSegment_iff (w : Window) (j : Fin 64) (f halfWidth : Nat) :
    w.inSegment j f halfWidth = true ↔ w.reaches j f halfWidth := by
  unfold Window.inSegment Window.segmentFull Window.share Window.reaches
  rw [Bool.and_eq_true, decide_eq_true_eq, decide_eq_true_eq]
  constructor
  · rintro ⟨-, share⟩
    refine ⟨max w.w0 (max (w.segmentLow j) (f - halfWidth)), ?_⟩
    omega
  · rintro ⟨n, h⟩
    omega

section

variable (s : State) (z : Fin 4) (j : Fin 64)

theorem Hold.markedByHit_iff (h : Hold) : h.markedByHit = true ↔ h ≠ .defined ∧ ∀ f, h ≠ .tentative f := by
  cases h <;> simp [Hold.markedByHit]

theorem State.mem_hitChannels {c : Fin 256} {r : ChannelRecord} : (c, r) ∈ s.hitChannels z j ↔
    s.channel c = some r ∧ r.hold ≠ .defined ∧ (∀ f, r.hold ≠ .tentative f) ∧
      s.site.zoneOf r.fields.stage = some z ∧ ∃ f ∈ r.hold.frequencies, s.site.window.reaches j f.2 r.halfWidth := by
  unfold State.hitChannels
  rw [List.mem_filter, Plan.mem_records]
  simp only [Bool.and_eq_true, Hold.markedByHit_iff, decide_eq_true_eq, List.any_eq_true, Window.inSegment_iff, and_assoc]
  rfl

theorem Plan.records_ascending (p : Plan) : p.records.Pairwise fun x y => x.1 < y.1 := by
  rw [p.records_eq, List.pairwise_filterMap]
  refine (List.pairwise_lt_finRange 256).imp fun {c d} below x hx y hy => ?_
  obtain ⟨r, -, rfl⟩ := Option.map_eq_some_iff.1 hx
  obtain ⟨q, -, rfl⟩ := Option.map_eq_some_iff.1 hy
  exact below

theorem State.hitChannels_ascending : (s.hitChannels z j).Pairwise fun x y => x.1 < y.1 :=
  s.plan.records_ascending.filter _

theorem Engine.autoMoveQueued_iff (e : Engine) (c : Fin 256) :
    e.autoMoveQueued c = true ↔ ∃ g, Entry.autoMove c g ∈ e.urgent := by
  unfold Engine.autoMoveQueued
  rw [List.any_eq_true]
  constructor
  · rintro ⟨x, m, is⟩
    split at is
    · next d g => exact ⟨g, of_decide_eq_true is ▸ m⟩
    · cases is
  · rintro ⟨g, m⟩
    exact ⟨_, m, decide_eq_true rfl⟩

theorem State.autoMoveFor_some {c : Fin 256} {r : ChannelRecord} {e : Entry} : s.autoMoveFor (c, r) = some e ↔
    ∃ f, r.hold = .live f ∧ s.port.auto = true ∧ (∃ p, s.site.stages[r.fields.stage] = some p ∧ p.autoMove = true) ∧
      r.fields.autoMove = true ∧ (∀ g, Entry.autoMove c g ∉ s.engine.urgent) ∧ e = .autoMove c f := by
  have permission : ((s.site.stages[r.fields.stage]).map StageRecord.autoMove).getD false = true ↔
      ∃ p, s.site.stages[r.fields.stage] = some p ∧ p.autoMove = true := by
    cases s.site.stages[r.fields.stage] <;> simp
  have queued : s.engine.autoMoveQueued c = false ↔ ∀ g, Entry.autoMove c g ∉ s.engine.urgent := by
    rw [← Bool.not_eq_true, Engine.autoMoveQueued_iff, not_exists]
  unfold State.autoMoveFor
  constructor
  · intro h
    split at h
    · next f live =>
      split at h
      · next all =>
        simp only [Bool.and_eq_true, Bool.not_eq_true', permission, queued] at all
        obtain ⟨⟨⟨auto, stage⟩, channel⟩, new⟩ := all
        exact ⟨f, live, auto, stage, channel, new, (Option.some.inj h).symm⟩
      · cases h
    · cases h
  · rintro ⟨f, live, auto, stage, channel, new, rfl⟩
    rw [live]
    refine if_pos ?_
    simp only [Bool.and_eq_true, Bool.not_eq_true', permission, queued]
    exact ⟨⟨⟨auto, stage⟩, channel⟩, new⟩

theorem State.mem_hitMoves {e : Entry} : e ∈ s.hitMoves z j ↔ ∃ c r f, (c, r) ∈ s.hitChannels z j ∧ r.hold = .live f ∧
    s.port.auto = true ∧ (∃ p, s.site.stages[r.fields.stage] = some p ∧ p.autoMove = true) ∧ r.fields.autoMove = true ∧
      (∀ g, Entry.autoMove c g ∉ s.engine.urgent) ∧ e = .autoMove c f := by
  unfold State.hitMoves
  rw [List.mem_filterMap]
  constructor
  · rintro ⟨⟨c, r⟩, m, h⟩
    obtain ⟨f, rest⟩ := s.autoMoveFor_some.1 h
    exact ⟨c, r, f, m, rest⟩
  · rintro ⟨c, r, f, m, rest⟩
    exact ⟨(c, r), m, s.autoMoveFor_some.2 ⟨f, rest⟩⟩

theorem State.hitMoves_ascending : (s.hitMoves z j).Pairwise fun x y =>
    ∀ c f d g, x = .autoMove c f → y = .autoMove d g → c < d := by
  unfold State.hitMoves
  rw [List.pairwise_filterMap]
  refine (s.hitChannels_ascending z j).imp fun {x y} below e he e' he' c f d g h h' => ?_
  obtain ⟨f1, -, -, -, -, -, eq⟩ := s.autoMoveFor_some.1 he
  obtain ⟨g1, -, -, -, -, -, eq'⟩ := s.autoMoveFor_some.1 he'
  rw [h] at eq
  rw [h'] at eq'
  obtain ⟨rfl, -⟩ := Entry.autoMove.inj eq
  obtain ⟨rfl, -⟩ := Entry.autoMove.inj eq'
  exact below

theorem State.mem_hitSpares {b : Fin 8} {x : Spare} : x ∈ s.hitSpares z j b ↔ x ∈ s.spares[b] ∧
    ∃ p, s.site.stages[b] = some p ∧ p.zone = some z ∧ s.site.window.reaches j x.step p.bandwidth.halfWidth := by
  unfold State.hitSpares
  cases s.site.stages[b] with
  | none => simp
  | some p =>
    dsimp only
    split
    · next zone => simp [List.mem_filter, Window.inSegment_iff, zone]
    · next other => simp [other]

/-! ### Routing (R127) -/

/-- The marks of a hit. -/
def State.hitMarked (rise : Nat) : State :=
  (s.hitChannels z j).foldl (fun q e => q.mark (.channel e.1) hitFlag (some (j.val, rise))) s

theorem State.hitMarked_emits (rise : Nat) : s.Emits (s.hitMarked z j rise) :=
  State.Emits.marks (fun e : Fin 256 × ChannelRecord => .channel e.1) (fun _ => hitFlag) (fun _ => some (j.val, rise)) _ _

/-- The stages that a hit in a zone triggers. -/
def State.boundTo (b : Fin 8) : Bool := decide (s.site.zoneOf b = some z)

theorem State.dropSpares_spares (b : Fin 8) :
    (s.dropSpares z j).spares[b] = (s.spares[b]).filter fun x => !(s.hitSpares z j b).contains x := mapPlaces_get _ _ b

theorem State.dropSpares_eq : s.dropSpares z j = { s with
    spares := (s.dropSpares z j).spares
    engine := { s.engine with routine := s.engine.routine ++ s.shortEntries (s.dropSpares z j) (s.boundTo z) } } := by
  have queued := State.upkeepEntries_filter { s with spares := (s.dropSpares z j).spares } (s.boundTo z)
  have same : State.shortEntries { s with spares := (s.dropSpares z j).spares }
      { s with spares := (s.dropSpares z j).spares } (s.boundTo z) = s.shortEntries (s.dropSpares z j) (s.boundTo z) :=
    State.shortEntries_congr (s := s) (t := s.dropSpares z j) _ (fun _ => rfl) (fun _ => rfl) rfl fun _ => rfl
  rw [same] at queued
  exact congrArg (fun l => { s with
    spares := (s.dropSpares z j).spares
    engine := { s.engine with routine := s.engine.routine ++ l } }) queued

/-- The state whose spares a hit drops: its marks are made and its AUTO-MOVE entries queued. -/
def State.hitQueued (rise : Nat) : State := { s with
  port := (s.hitMarked z j rise).port
  reports := (s.hitMarked z j rise).reports
  engine := { s.engine with urgent := s.engine.urgent ++ s.hitMoves z j } }

theorem State.routeHit_drops (rise : Nat) : s.routeHit z j rise = (s.hitQueued z j rise).dropSpares z j := by
  obtain ⟨p, r, rest⟩ := (s.hitMarked_emits z j rise).rest
  have marked : s.hitMarked z j rise = { s with
      port := (s.hitMarked z j rise).port, reports := (s.hitMarked z j rise).reports } := by rw [rest]
  exact congrArg (fun y : State => (y.queueUrgent (s.hitMoves z j)).dropSpares z j) marked

theorem State.routeHit_spares (rise : Nat) (b : Fin 8) :
    (s.routeHit z j rise).spares[b] = (s.spares[b]).filter fun x => !(s.hitSpares z j b).contains x := by
  rw [State.routeHit_drops]
  exact (s.hitQueued z j rise).dropSpares_spares z j b

theorem State.routeHit_rest (rise : Nat) : ∃ p r v e, s.routeHit z j rise =
    { s with port := p, reports := r, spares := v, engine := e } := by
  rw [State.routeHit_drops, State.dropSpares_eq]
  exact ⟨_, _, _, _, rfl⟩

theorem State.routeHit_eq (rise : Nat) : s.routeHit z j rise = { s with
    port := (s.hitMarked z j rise).port
    reports := (s.hitMarked z j rise).reports
    spares := (s.routeHit z j rise).spares
    engine := { s.engine with
      urgent := s.engine.urgent ++ s.hitMoves z j
      routine := s.engine.routine ++ s.shortEntries (s.routeHit z j rise) (s.boundTo z) } } := by
  have same : (s.hitQueued z j rise).shortEntries ((s.hitQueued z j rise).dropSpares z j) (s.boundTo z) =
      s.shortEntries ((s.hitQueued z j rise).dropSpares z j) (s.boundTo z) :=
    State.shortEntries_congr _ (fun _ => rfl) (fun _ => rfl) rfl fun _ => rfl
  rw [State.routeHit_drops, ← same]
  exact (s.hitQueued z j rise).dropSpares_eq z j

end

/-! ### HIT in the pending set (R159) -/

/-- A subject stands in a list of pending subjects with a flag and the hit of its last HIT mark. -/
def hitIn (l : List PendingSubject) (x : Subject) (f : Byte) (hit : Nat × Nat) : Prop :=
  ∃ q ∈ l, q.subject = x ∧ q.flags &&& f = f ∧ q.hit = some hit

theorem hitIn_addMark (x : Subject) (f : Byte) (hit : Nat × Nat) (l : List PendingSubject) :
    hitIn (addMark x f (some hit) l) x f hit := by
  induction l with
  | nil => exact ⟨_, List.mem_singleton.2 rfl, rfl, BitVec.and_self, rfl⟩
  | cons q l ih =>
    unfold addMark
    split
    · rename_i e
      refine ⟨_, .head _, e, ?_, rfl⟩
      show (q.flags ||| f) &&& f = f
      rw [BitVec.or_comm]
      exact flag_or q.flags BitVec.and_self
    · obtain ⟨p, mem, rest⟩ := ih
      exact ⟨p, .tail _ mem, rest⟩

/-- A further mark with the same hit leaves it. -/
theorem hitIn.addMark {l : List PendingSubject} {x : Subject} {f : Byte} {hit : Nat × Nat} (m : hitIn l x f hit)
    (y : Subject) (g : Byte) : hitIn (addMark y g (some hit) l) x f hit := by
  obtain ⟨q, mem, subject, flags, value⟩ := m
  induction l with
  | nil => exact absurd mem List.not_mem_nil
  | cons p l ih =>
    unfold Machine.addMark
    rcases List.mem_cons.1 mem with rfl | mem
    · split
      · exact ⟨_, .head _, subject, flag_or g flags, rfl⟩
      · exact ⟨q, .head _, subject, flags, value⟩
    · split
      · exact ⟨q, .tail _ mem, subject, flags, value⟩
      · obtain ⟨q', mem', rest⟩ := ih mem
        exact ⟨q', .tail _ mem', rest⟩

theorem State.hits_heldBack {α : Type} (x : α → Subject) (f : Byte) (hit : Nat × Nat) (l : List α) {s : State}
    (h : s.heldBack) :
    (∀ y, hitIn s.reports.pending y f hit →
      hitIn (l.foldl (fun t a => t.mark (x a) f (some hit)) s).reports.pending y f hit) ∧
    ∀ a ∈ l, hitIn (l.foldl (fun t a => t.mark (x a) f (some hit)) s).reports.pending (x a) f hit := by
  induction l generalizing s with
  | nil => exact ⟨fun _ m => m, nofun⟩
  | cons a l ih =>
    obtain ⟨stays, all⟩ := ih (State.heldBack_mark h (x a) f (some hit))
    have pending := (State.mark_heldBack h (x a) f (some hit)).1
    refine ⟨fun y m => stays y (pending ▸ m.addMark _ _), fun b mem => ?_⟩
    rcases List.mem_cons.1 mem with rfl | mem
    · exact stays _ (pending ▸ hitIn_addMark _ _ _ _)
    · exact all b mem

/-- An item states of a zone its freshness and the count of its link. -/
theorem State.item_congr_fresh {s t : State} (channels : t.plan.channels = s.plan.channels)
    (fresh : ∀ z : Fin 4, (t.zones[z]).freshness = (s.zones[z]).freshness)
    (links : t.links = s.links) (stages : t.site.stages = s.site.stages) (spares : t.spares = s.spares) :
    t.item = s.item := by
  funext q
  unfold State.item State.channelItem State.zoneItem State.stageItem Site.target State.channel
  simp only [channels, fresh, links, stages, spares]

/-! ### ARM WATCH (R128) -/

theorem littleEndian_lt (l : List Byte) : littleEndian l < 256 ^ l.length := by
  induction l with
  | nil => exact Nat.one_pos
  | cons b l ih =>
    have := b.isLt
    rw [List.length_cons, Nat.pow_succ]
    unfold littleEndian
    omega

theorem Memory.readAll_length (m : Memory) (a n : Nat) : (m.readAll a n).length = n := by
  induction n generalizing a with
  | zero => rfl
  | succ n ih => exact congrArg (· + 1) (ih _)

theorem State.param_lt (s : State) (o : Handed) (i n : Nat) : s.param o i n < 256 ^ n := by
  have := littleEndian_lt (s.port.memory.readAll (payloadOffset o.head i) n)
  rwa [Memory.readAll_length] at this

/-- A segment that ARM WATCH names. -/
def Window.names (w : Window) (mask : BitVec 64) (j : Fin 64) : Bool := mask.getLsbD j && w.segmentFull j

theorem Zone.arm_segments (z : Zone) (w : Window) (mask : BitVec 64) (j : Fin 64) :
    (z.arm w mask).segments[j] = if w.names mask j then (z.segments[j]).armed else z.segments[j] := mapPlaces_get _ _ j

theorem zip_segments {α : Type} (v : Vector α 64) : allSegments.zip v.toList = allSegments.map fun j => (j, v[j]) := by
  refine List.ext_getElem (by simp [allSegments]) fun i h _ => ?_
  have small : i < 64 := by simpa [allSegments] using h
  simp [allSegments]

theorem Zone.hitsNamed_eq (z : Zone) (w : Window) (mask : BitVec 64) :
    z.hitsNamed w mask = allSegments.countP fun j => w.names mask j && (z.segments[j]).hit := by
  unfold Zone.hitsNamed
  rw [zip_segments, List.countP_map]
  rfl

theorem armWatchOrder_arms {o : Handed} {x : State} {z : Fin 4} (hz : x.param o 0 1 = z.val) (some : x.param o 4 8 ≠ 0) :
    armWatchOrder o x = (x.onZone z fun zone => zone.arm x.site.window (BitVec.ofNat 64 (x.param o 4 8))).done o 0
      [byte ((x.zones[z]).hitsNamed x.site.window (BitVec.ofNat 64 (x.param o 4 8))),
        byte ((x.zones[z]).arm x.site.window (BitVec.ofNat 64 (x.param o 4 8))).summary] := by
  have mask : BitVec.ofNat 64 (x.param o 4 8) ≠ 0 := by
    intro zero
    have value := congrArg BitVec.toNat zero
    have small : x.param o 4 8 < 2 ^ 64 := x.param_lt o 4 8
    rw [BitVec.toNat_ofNat, Nat.mod_eq_of_lt small] at value
    exact some value
  unfold armWatchOrder
  rw [hz, index_eq_some]
  dsimp only
  rw [if_neg mask, State.onZone_get, if_pos rfl]

/-! ### FORCE HIT (R129) -/

theorem Zone.force_segments (z : Zone) (j i : Fin 64) : (z.force j).segments[i] =
    if i = j then { z.segments[j] with
      hit := true, frozen := (z.segments[j]).frozen || decide (z.settings.mode = .latching) } else z.segments[i] :=
  vector_set_get _ _ _ _

theorem forceHitOrder_forces {o : Handed} {x : State} {z : Fin 4} {j : Fin 64} (hz : x.param o 0 1 = z.val)
    (hj : x.param o 1 1 = j.val) (full : x.site.window.segmentFull j = true) :
    forceHitOrder o x = ((x.onZone z fun zone => zone.force j).routeHit z j 0).done o 0 (x.forceResult z j) := by
  unfold forceHitOrder
  rw [hz, hj, index_eq_some, index_eq_some]
  dsimp only
  rw [full]
  rfl

/-- What a hit reaches reads the site model, the plan, the spare lists, AUTO and the AUTO-MOVE entries that wait. -/
theorem State.hitMoves_congr {s t : State} {z : Fin 4} {j : Fin 64} (site : t.site = s.site) (plan : t.plan = s.plan)
    (auto : t.port.auto = s.port.auto) (queued : ∀ c, t.engine.autoMoveQueued c = s.engine.autoMoveQueued c) :
    t.hitMoves z j = s.hitMoves z j := by
  unfold State.hitMoves State.hitChannels
  rw [site, plan]
  congr 1
  funext e
  unfold State.autoMoveFor
  rw [site, auto, queued]

/-- Taking up an order leaves the AUTO-MOVE entries that wait. -/
theorem State.granted_autoMove {s : State} {code : OrderCode} {u : Bool} {o : Handed} (h : s.granted code = some (u, o))
    (c : Fin 256) : (s.engine.begin u).autoMoveQueued c = s.engine.autoMoveQueued c := by
  obtain ⟨-, -, kind, -, -⟩ := State.granted_waiting h
  rcases kind with ⟨rfl, head⟩ | ⟨rfl, -⟩
  · obtain ⟨l, e⟩ := List.head?_eq_some_iff.1 head
    unfold Engine.autoMoveQueued Engine.begin
    rw [e]
    exact (Bool.false_or _).symm
  · rfl

theorem Engine.release_lists (e : Engine) (l m : List Entry) :
    Engine.release { e with urgent := l, routine := m } = { e.release with urgent := l, routine := m } := by
  unfold Engine.release
  cases e.urgentContext <;> rfl

theorem Engine.lists_release (e : Engine) : e.release.urgent = e.urgent ∧ e.release.routine = e.routine := by
  unfold Engine.release
  cases e.urgentContext <;> exact ⟨rfl, rfl⟩

end Sys2Proof.Machine

open Sys2Proof Sys2Proof.Machine

/-- Settles O46. -/
theorem armWatchAndForceHit : Obligations.ArmWatchAndForceHit := by
  refine ⟨fun s z j => ⟨fun c r => s.mem_hitChannels z j, s.hitChannels_ascending z j, fun e => s.mem_hitMoves z j,
    s.hitMoves_ascending z j, fun b x => s.mem_hitSpares z j, fun rise => ?_⟩, fun s u o z hz => ⟨fun h some => ?_, fun j h hj full => ?_⟩⟩
  · have whole := s.routeHit_eq z j rise
    refine ⟨?_, (congrArg State.port whole :), (congrArg State.reports whole :), s.routeHit_spares z j rise, ?_⟩
    · obtain ⟨p, r, v, e, rest⟩ := s.routeHit_rest z j rise
      rw [rest]
    · have site : (s.routeHit z j rise).site = s.site := (congrArg State.site whole :)
      refine (congrArg State.engine whole).trans ?_
      unfold State.shortEntries State.boundTo
      rw [site]
  · have p := armWatchOrder_arms (x := s.begin u o) (o := o) (z := z) ((State.begin_param ..).trans hz)
      (by rwa [State.begin_param])
    rw [State.begin_param, Zone.hitsNamed_eq] at p
    obtain ⟨t, run, reached, ends, alone⟩ := h.done p rfl rfl rfl rfl (Nat.le_of_ble_eq_true rfl)
    intro named bytes
    have zone : ∀ y : Fin 4, t.zones[y] = if y = z then (s.zones[z]).arm s.site.window (BitVec.ofNat 64 (s.param o 4 8))
        else s.zones[y] := fun y =>
      (congrArg (fun v : Vector Zone 4 => v[y]) reached.zones).trans (State.onZone_get _ z y _)
    have own := (zone z).trans (if_pos rfl)
    have result : bytes t = _ := congrArg (fun y : Zone =>
      [byte (allSegments.countP fun j => named j && (s.zones[z].segments[j]).hit), byte y.summary]) own
    refine ⟨t, run, fun j => ?_, ?_, reached.links, fun y other => (zone y).trans (if_neg other),
      ⟨reached.site, reached.plan, reached.census, reached.spares⟩, reached.engine, reached.free, ?_, ?_⟩
    · rw [own, Zone.arm_segments]
      rfl
    · rw [own]
      rfl
    · rw [result]
      exact ends
    · rw [result]
      exact alone
  · have p := forceHitOrder_forces (x := s.begin u o) (o := o) (z := z) (j := j) ((State.begin_param ..).trans hz)
      ((State.begin_param ..).trans hj) full
    let y : State := (s.begin u o).onZone z fun zone => zone.force j
    have emits := y.hitMarked_emits z j 0
    have whole := y.routeHit_eq z j 0
    obtain ⟨keeps, moved, mem, active⟩ := h.emits (x := y) rfl emits
    have port : (y.routeHit z j 0).port = (y.hitMarked z j 0).port := (congrArg State.port whole :)
    have reports : (y.routeHit z j 0).reports = (y.hitMarked z j 0).reports := (congrArg State.reports whole :)
    intro bytes
    have auto : (s.begin u o).port.auto = s.port.auto := by
      obtain ⟨-, -, auto, -⟩ := (s.holds_begin u o).port
      exact auto
    have moves : (s.begin u o).hitMoves z j = s.hitMoves z j :=
      State.hitMoves_congr rfl rfl auto (State.granted_autoMove h.1)
    have moves' : y.hitMoves z j = s.hitMoves z j := State.hitMoves_congr rfl rfl auto (State.granted_autoMove h.1)
    have result : (s.begin u o).forceResult z j = bytes := by
      unfold State.forceResult
      rw [moves]
      rfl
    rw [result] at p
    obtain ⟨t, run, reached, ends, alone, -⟩ := h.arrives (b := y.hitMarked z j 0) p (port ▸ keeps) (port ▸ moved)
      (congrArg State.now whole :) (congrArg State.pending whole :) mem (port.trans active) reports fun l m => by
        rw [List.mem_singleton.1 m]
        exact Nat.le_of_ble_eq_true rfl
    have zones : t.zones = y.zones := reached.zones.trans (congrArg State.zones whole :)
    have zone : ∀ i : Fin 4, t.zones[i] = if i = z then (s.zones[z]).force j else s.zones[i] := fun i =>
      (congrArg (fun v : Vector Zone 4 => v[i]) zones).trans
        (State.onZone_get (s.begin u o) z i fun zone => zone.force j)
    have own := (zone z).trans (if_pos rfl)
    have site : t.site = s.site := reached.site.trans (congrArg State.site whole :)
    have short : y.shortEntries (y.routeHit z j 0) (y.boundTo z) = s.shortEntries t fun b => decide (s.site.zoneOf b = some z) :=
      (State.shortEntries_congr (s := s.begin u o) (t := y.routeHit z j 0) _ (fun _ => rfl) (fun _ => rfl) rfl
        fun _ => rfl).trans (h.short reached _)
    refine ⟨t, run, fun i other => ?_, ?_, ?_, reached.links.trans (congrArg State.links whole :),
      fun i other => (zone i).trans (if_neg other), site, reached.plan.trans (congrArg State.plan whole :),
      reached.census.trans (congrArg State.census whole :), fun b => ?_, ?_, reached.free.trans (congrArg State.free whole :),
      fun held loud e m => ?_, ends, ?_⟩
    · rw [own, Zone.force_segments, if_neg other]
    · rw [own, Zone.force_segments, if_pos rfl]
    · rw [own]
      rfl
    · rw [reached.spares]
      exact y.routeHit_spares z j 0 b
    · have engine : (y.routeHit z j 0).engine = { s.engine.begin u with
          urgent := (s.engine.begin u).urgent ++ s.hitMoves z j
          routine := (s.engine.begin u).routine ++ s.shortEntries t fun b => decide (s.site.zoneOf b = some z) } := by
        rw [← moves', ← short]
        exact (congrArg State.engine whole :)
      obtain ⟨urgent, routine⟩ := (s.engine.begin u).lists_release
      rw [reached.engine, engine, Engine.release_lists]
      unfold Engine.after
      rw [urgent, routine]
    · have back : y.heldBack := by
        rcases held with few | reset
        · exact .inl ((Port.freeCount_setCells s.port o.cells (st := .active) nofun).trans few)
        · refine .inr ?_
          obtain ⟨same, -⟩ := (s.holds_begin u o).port
          exact fun none => reset (same.symm.trans none)
      obtain ⟨q, mem, rest⟩ := (State.hits_heldBack (fun e : Fin 256 × ChannelRecord => .channel e.1) hitFlag (j.val, 0)
        (y.hitChannels z j) back).2 e m
      exact ⟨q, (alone.1 (Handed.silent_loud loud .done)).1 ▸ mem, rest⟩
    · intro taken
      refine State.aloneWith_of alone (State.marks_congr (fun e : Fin 256 × ChannelRecord => .channel e.1) (fun _ => hitFlag)
        (fun _ => some (j.val, 0)) (s.hitChannels z j) rfl rfl ?_ rfl)
      refine State.item_congr_fresh rfl (fun i => ?_) rfl rfl rfl
      refine (congrArg Zone.freshness (State.onZone_get (s.begin u o) z i _)).trans ?_
      split
      · next e => rw [e]; rfl
      · rfl

end


section
/-! The Spectrum Map: the levels of a good sweep in a map, and a sweep in progress (R104 to R106, R110, R111). -/

namespace Sys2Proof.Machine

/-! ### Levels that join a map (R110) -/

theorem sparseGet_addLevel (level : Nat) {m : Sparse Bin} (ok : sparseOk Bin.cleared m = true) (k n : Nat) :
    sparseGet Bin.cleared (addLevel level m k) n =
      if n = k then (sparseGet Bin.cleared m n).add level else sparseGet Bin.cleared m n := by
  unfold addLevel
  rw [sparseGet_set k n _ ok]
  split
  · next e => rw [e]
  · rfl

/-- A level that joins the bins of a list joins each as often as it stands there. -/
theorem sparseGet_addLevels (level : Nat) (l : List Nat) {m : Sparse Bin} (ok : sparseOk Bin.cleared m = true) (n : Nat) :
    sparseGet Bin.cleared (l.foldl (addLevel level) m) n = { sparseGet Bin.cleared m n with
      sum := (sparseGet Bin.cleared m n).sum + level * l.count n
      samples := (sparseGet Bin.cleared m n).samples + l.count n } := by
  induction l generalizing m with
  | nil => rfl
  | cons k l ih =>
    have stays : sparseOk Bin.cleared (addLevel level m k) = true := sparseSet_ok k _ ok
    rw [List.foldl_cons, ih stays, sparseGet_addLevel level ok, List.count_cons]
    by_cases e : n = k
    · rw [if_pos e, if_pos (by simp [e])]
      simp only [Bin.add, Bin.mk.injEq, true_and, and_true, Nat.mul_add]
      omega
    · rw [if_neg e, if_neg (by simpa using fun h => e h.symm), Nat.add_zero]

/-- Whether a level covers a step. -/
def SweepLevel.covers (l : SweepLevel) (n : Nat) : Bool := decide (l.first ≤ (n : Int) ∧ (n : Int) < l.first + l.stride)

/-- The steps a level covers. -/
def SweepLevel.steps (l : SweepLevel) : List Int := (List.range l.stride).map fun i : ℕ => l.first + Int.ofNat i

theorem SweepLevel.bins_eq (l : SweepLevel) (w : Window) : l.bins w = w.binsOf l.steps := by
  unfold SweepLevel.bins SweepLevel.steps
  congr 1
  simp [← List.map_eq_flatMap, Function.comp_def]

theorem SweepLevel.count_bins (l : SweepLevel) (w : Window) (n : Nat) :
    (l.bins w).count n = if w.has n then (if l.covers n then 1 else 0) else 0 := by
  have once : l.steps.Nodup := List.nodup_range.map fun i k h => by simpa using h
  have mem : (n : Int) ∈ l.steps ↔ l.covers n = true := by
    rw [SweepLevel.steps, List.mem_map, SweepLevel.covers, decide_eq_true_eq]
    constructor
    · rintro ⟨i, m, e⟩
      have := List.mem_range.1 m
      have : l.first + (i : Int) = n := e
      omega
    · rintro ⟨low, high⟩
      have : l.first + (((n : Int) - l.first).toNat : Int) = n := by omega
      exact ⟨((n : Int) - l.first).toNat, List.mem_range.2 (by omega), this⟩
  rw [SweepLevel.bins_eq, Window.count_binsOf, landing]
  split
  · rw [once.count]
    simp only [mem]
  · rfl

/-- The levels of a good sweep join the bins of the window they cover. -/
theorem sparseGet_integrate (w : Window) (buffer : List SweepLevel) {m : Sparse Bin} (ok : sparseOk Bin.cleared m = true)
    (n : Nat) : sparseGet Bin.cleared (integrate w buffer m) n =
      if w.has n then { sparseGet Bin.cleared m n with
        sum := (sparseGet Bin.cleared m n).sum + ((buffer.filter (fun k => k.covers n)).map SweepLevel.level).sum
        samples := (sparseGet Bin.cleared m n).samples + (buffer.filter (fun k => k.covers n)).length }
      else sparseGet Bin.cleared m n := by
  induction buffer generalizing m with
  | nil => exact (ite_self _).symm
  | cons l buffer ih =>
    have step : integrate w (l :: buffer) m = integrate w buffer ((l.bins w).foldl (addLevel l.level) m) := rfl
    rw [step, ih (foldl_addLevel_ok _ _ _ ok), sparseGet_addLevels _ _ ok, SweepLevel.count_bins]
    by_cases has : w.has n = true
    · simp only [has, if_true]
      cases covers : l.covers n with
      | true =>
        rw [List.filter_cons_of_pos (p := fun k : SweepLevel => k.covers n) covers]
        simp only [if_true, List.map_cons, List.sum_cons, List.length_cons, Bin.mk.injEq, true_and, and_true]
        omega
      | false =>
        rw [List.filter_cons_of_neg (p := fun k : SweepLevel => k.covers n) (ne_true_of_eq_false covers)]
        rfl
    · simp only [has, if_false, Bool.false_eq_true]
      rfl

/-! ### A bin at a period end (R111) -/

theorem Bin.settle_gained (b : Bin) (sum samples : Nat) :
    Bin.settle { b with sum := b.sum + sum, samples := b.samples + samples } =
      if b.samples + samples = 0 then { b with sum := 0 }
      else { settled := (b.sum + sum) / (b.samples + samples), sum := 0, samples := 0, seen := true } := by
  unfold Bin.settle
  dsimp only
  split
  · next none =>
    simp only [Bin.mk.injEq, true_and, and_true]
    omega
  · rfl

/-! ### The sweep in progress (R105) -/

theorem assemble_none (number : Half) (f last : Int) (kept : List SweepLevel) :
    assemble none number f last kept = ({ number := number, last := last, damaged := false, buffer := kept }, false) := rfl

theorem assemble_other {w : SweepWork} {number : Half} (other : w.number ≠ number) (f last : Int) (kept : List SweepLevel) :
    assemble (some w) number f last kept =
      ({ number := number, last := last, damaged := false, buffer := kept }, true) := if_neg other

theorem assemble_behind {w : SweepWork} {number : Half} (own : w.number = number) {f : Int} (behind : w.last < f) (last : Int)
    (kept : List SweepLevel) :
    assemble (some w) number f last kept = ({ w with last := last, buffer := w.buffer ++ kept }, false) :=
  (if_pos own).trans (if_pos behind)

theorem assemble_overlaps {w : SweepWork} {number : Half} (own : w.number = number) {f : Int} (overlaps : ¬ w.last < f)
    (last : Int) (kept : List SweepLevel) :
    assemble (some w) number f last kept = ({ w with damaged := true }, false) :=
  (if_pos own).trans (if_neg overlaps)

end Sys2Proof.Machine
end


section
/-! The end of an integration period and the routing of its hits (R111, R122, R127). -/

namespace Sys2Proof.Machine

/-! ### Several hits in turn (R127) -/

/-- The hits of a period end routed in turn. -/
def State.routeAll (s : State) (z : Fin 4) (hits : List (Fin 64 × Nat)) : State :=
  hits.foldl (fun q h => q.routeHit z h.1 h.2) s

theorem State.routeHits_eq (z : Fin 4) (l : List (Fin 64 × Option Nat)) (s : State) :
    s.routeHits z l = s.routeAll z (l.filterMap fun x => x.2.map fun rise => (x.1, rise)) := by
  induction l generalizing s with
  | nil => rfl
  | cons x l ih =>
    obtain ⟨j, rise⟩ := x
    cases rise with
    | none => exact ih s
    | some rise => exact ih (s.routeHit z j rise)

theorem State.routeAll_cons (s : State) (z : Fin 4) (h : Fin 64 × Nat) (l : List (Fin 64 × Nat)) :
    s.routeAll z (h :: l) = (s.routeHit z h.1 h.2).routeAll z l := rfl

/-- What a hit routes: marks, internal entries and spares dropped. -/
structure State.Routes (z : Fin 4) (s t : State) : Prop where
  rest : ∃ p r v e, t = { s with port := p, reports := r, spares := v, engine := e }
  keeps : s.port.Keeps t.port
  moved : s.port.Reports t.port
  entries : ∃ m n, (∀ e ∈ m ++ n, Entry.isInternal e = true) ∧
    t.engine = { s.engine with urgent := s.engine.urgent ++ m, routine := s.engine.routine ++ n }
  queues : State.Queues (s.boundTo z) s t
  held : s.heldBack → t.heldBack ∧ ∀ x f, s.flagged x f → t.flagged x f

theorem State.Routes.refl (z : Fin 4) (s : State) : s.Routes z s :=
  ⟨⟨_, _, _, _, rfl⟩, .refl _, .refl _, ⟨[], [], nofun, by rw [List.append_nil, List.append_nil]⟩, .refl _ s,
    fun h => ⟨h, fun _ _ m => m⟩⟩

theorem State.Routes.trans {z : Fin 4} {s t u : State} (h : s.Routes z t) (k : t.Routes z u) : s.Routes z u := by
  obtain ⟨p, r, v, e, rest⟩ := h.rest
  obtain ⟨p', r', v', e', rest'⟩ := k.rest
  obtain ⟨m, n, internal, engine⟩ := h.entries
  obtain ⟨m', n', internal', engine'⟩ := k.entries
  refine ⟨⟨p', r', v', e', rest'.trans (by rw [rest])⟩, h.keeps.trans k.keeps, Port.Reports.trans h.keeps h.moved k.moved,
    ⟨m ++ m', n ++ n', fun e mem => ?_, ?_⟩, h.queues.trans ?_, fun held => ?_⟩
  · simp only [List.mem_append] at mem internal internal'
    rcases mem with (i | i) | i | i
    · exact internal e (.inl i)
    · exact internal' e (.inl i)
    · exact internal e (.inr i)
    · exact internal' e (.inr i)
  · rw [engine', engine, List.append_assoc, List.append_assoc]
  · have same : t.boundTo z = s.boundTo z := by rw [rest]; rfl
    exact same ▸ k.queues
  · obtain ⟨held, flags⟩ := h.held held
    obtain ⟨held', flags'⟩ := k.held held
    exact ⟨held', fun x f m => flags' x f (flags x f m)⟩

theorem State.mem_bound {s : State} {z : Fin 4} (b : Fin 8) : b ∈ allStages.filter (s.boundTo z) ↔ s.boundTo z b = true :=
  ⟨fun m => (List.mem_filter.1 m).2, fun on => List.mem_filter.2 ⟨mem_allStages b, on⟩⟩

/-- A hit has UPKEEP queued for the stages it triggers. -/
theorem State.routeHit_upkept (s : State) (z : Fin 4) (j : Fin 64) (rise : Nat) :
    State.Upkept (s.boundTo z) s (s.routeHit z j rise) := by
  let y : State := { s.hitQueued z j rise with spares := (s.routeHit z j rise).spares }
  have queues : State.Queues (s.boundTo z) s y := by
    refine ⟨fun _ => rfl, rfl, fun b => ?_, fun _ m => m, fun _ m => .inl m⟩
    show ((s.routeHit z j rise).spares[b]).length ≤ _
    rw [State.routeHit_spares]
    exact List.length_filter_le _ _
  have whole : s.routeHit z j rise = y.queueUpkeep (allStages.filter (s.boundTo z)) := by
    have dropped := s.routeHit_drops z j rise
    rw [dropped]
    show (s.hitQueued z j rise).dropSpares z j = State.queueUpkeep
      { s.hitQueued z j rise with spares := (s.routeHit z j rise).spares } (allStages.filter (s.boundTo z))
    rw [dropped]
    rfl
  rw [whole]
  exact .queueUpkeep queues State.mem_bound

theorem State.routeHit_routes (s : State) (z : Fin 4) (j : Fin 64) (rise : Nat) : s.Routes z (s.routeHit z j rise) := by
  have emits := s.hitMarked_emits z j rise
  have whole := s.routeHit_eq z j rise
  have port : (s.routeHit z j rise).port = (s.hitMarked z j rise).port := (congrArg State.port whole :)
  have reports : (s.routeHit z j rise).reports = (s.hitMarked z j rise).reports := (congrArg State.reports whole :)
  refine ⟨s.routeHit_rest z j rise, port ▸ emits.keeps, port ▸ emits.reports, ⟨s.hitMoves z j, _, fun e m => ?_,
    (congrArg State.engine whole :)⟩, (s.routeHit_upkept z j rise).toQueues, fun held => ?_⟩
  · rcases List.mem_append.1 m with m | m
    · obtain ⟨c, r, f, -, -, -, -, -, -, rfl⟩ := (s.mem_hitMoves z j).1 m
      rfl
    · obtain ⟨b, -, rfl⟩ := List.mem_map.1 m
      rfl
  · obtain ⟨back, flags, -⟩ := State.marks_heldBack (fun e : Fin 256 × ChannelRecord => .channel e.1) (fun _ => hitFlag)
      (fun _ => some (j.val, rise)) (s.hitChannels z j) held
    refine ⟨State.heldBack_congr (s := s.hitMarked z j rise) (t := s.routeHit z j rise) (by rw [port]) (by rw [port]) ?_ back,
      fun x f m => ?_⟩
    · obtain ⟨p, r, rest⟩ := emits.rest
      obtain ⟨p', r', v, e, rest'⟩ := s.routeHit_rest z j rise
      rw [rest, rest']
    · rw [State.flagged_iff, reports]
      exact flags x f m

theorem State.routeAll_routes (z : Fin 4) (hits : List (Fin 64 × Nat)) (s : State) : s.Routes z (s.routeAll z hits) := by
  induction hits generalizing s with
  | nil => exact .refl z s
  | cons h l ih => exact (s.routeHit_routes z h.1 h.2).trans (ih _)

/-- The hits of a period end have UPKEEP queued for the stages of the zone. -/
theorem State.routeAll_upkept (z : Fin 4) {hits : List (Fin 64 × Nat)} (some : hits ≠ []) (s : State) :
    State.Upkept (s.boundTo z) s (s.routeAll z hits) := by
  induction hits generalizing s with
  | nil => exact absurd rfl some
  | cons h l ih =>
    cases l with
    | nil => exact s.routeHit_upkept z h.1 h.2
    | cons h' l =>
      have one := s.routeHit_routes z h.1 h.2
      obtain ⟨p, r, v, e, rest⟩ := one.rest
      have same : (s.routeHit z h.1 h.2).boundTo z = s.boundTo z := by rw [rest]; rfl
      exact one.queues.upkept (same ▸ ih nofun (s.routeHit z h.1 h.2))

/-! ### The period end (R111, R122) -/

/-- The state with the bins of a zone settled and the zone FRESH. -/
def State.settled (u : State) (z : Fin 4) : State := (u.onZone z Zone.settlePeriod).freshen z

/-- The state with the segments compared as well. -/
def State.segmented (u : State) (z : Fin 4) : State :=
  (u.settled z).onZone z fun zone =>
    { zone with segments := mapTable Prod.fst ((u.settled z).comparedSegments z), referencePending := false }

/-- The segments that hit at a period end, each with its rise. -/
def State.hitsOf (s : State) (z : Fin 4) : List (Fin 64 × Nat) :=
  allSegments.filterMap fun j => ((s.comparedSegments z)[j]).2.map fun rise => (j, rise)

theorem State.periodEnd_eq (u : State) (z : Fin 4) :
    u.periodEnd z = (u.settled z).inStageOrder ((u.segmented z).routeAll z ((u.settled z).hitsOf z)) := by
  have list : allSegments.zip (((u.settled z).comparedSegments z).toList.map Prod.snd) =
      allSegments.map fun j => (j, (((u.settled z).comparedSegments z)[j]).2) := by
    rw [List.zip_map_right, zip_segments, List.map_map]
    rfl
  show (u.settled z).inStageOrder ((u.segmented z).routeHits z
    (allSegments.zip (((u.settled z).comparedSegments z).toList.map Prod.snd))) = _
  rw [list, State.routeHits_eq, List.filterMap_map]
  rfl

/-- A segment at a period end, and the rise of its hit. -/
theorem State.comparedSegments_full {s : State} (z : Fin 4) {j : Fin 64} (full : s.site.window.segmentFull j = true) :
    (s.comparedSegments z)[j] =
      ((((s.zones[z]).segments[j]).periodEnd (s.zones[z]).settings (s.selected z j) (s.zones[z]).referencePending
          ((s.zones[z]).newCode s.site.window j)).1.afterMode (s.zones[z]).settings.mode
        (((s.zones[z]).segments[j]).periodEnd (s.zones[z]).settings (s.selected z j) (s.zones[z]).referencePending
          ((s.zones[z]).newCode s.site.window j)).2,
        (((s.zones[z]).segments[j]).periodEnd (s.zones[z]).settings (s.selected z j) (s.zones[z]).referencePending
          ((s.zones[z]).newCode s.site.window j)).2) := by
  unfold State.comparedSegments
  dsimp only
  rw [mapPlaces_get, if_pos full]
  rfl

theorem State.comparedSegments_empty {s : State} (z : Fin 4) {j : Fin 64} (empty : s.site.window.segmentFull j ≠ true) :
    ((s.comparedSegments z)[j]).2 = none := by
  unfold State.comparedSegments
  dsimp only
  rw [mapPlaces_get, if_neg empty]

theorem State.mark_congr {s t : State} (port : t.port = s.port) (reports : t.reports = s.reports) (item : t.item = s.item)
    (reserve : t.site.params.reserve = s.site.params.reserve) (x : Subject) (f : Byte) :
    (t.mark x f).port = (s.mark x f).port ∧ (t.mark x f).reports = (s.mark x f).reports :=
  State.marks_congr (fun _ : Unit => x) (fun _ => f) (fun _ => none) [()] port reports item reserve

section

variable {u : State} {z : Fin 4}

/-- The state with the bins settled, before the zone becomes FRESH. -/
def State.binsSettled (u : State) (z : Fin 4) : State := u.onZone z Zone.settlePeriod

theorem State.settled_warming (warming : (u.zones[z]).freshness = .warming) :
    u.settled z = ((u.binsSettled z).onZone z fun zone => { zone with freshness := .fresh }).mark (.zone z) freshFlag := by
  have same : ((u.binsSettled z).zones[z]).freshness = .warming := by
    rw [State.binsSettled, State.onZone_get, if_pos rfl]
    exact warming
  exact if_pos same

theorem State.settled_fresh (fresh : (u.zones[z]).freshness = .fresh) : u.settled z = u.binsSettled z := by
  have same : ((u.binsSettled z).zones[z]).freshness ≠ .warming := by
    rw [State.binsSettled, State.onZone_get, if_pos rfl]
    exact fun e => absurd (fresh.symm.trans e) nofun
  exact if_neg same

/-- At a period end the zone is FRESH, its bins are settled and its next period begins. -/
theorem State.settled_zones (timed : (u.zones[z]).freshness.timed = true) (y : Fin 4) : (u.settled z).zones[y] =
    if y = z then { u.zones[z] with
      map := sparseMap Bin.cleared Bin.settle (u.zones[z]).map, goodSweeps := 0, freshness := .fresh }
    else u.zones[y] := by
  have bins : ∀ y : Fin 4, (u.binsSettled z).zones[y] = if y = z then (u.zones[z]).settlePeriod else u.zones[y] :=
    fun y => State.onZone_get u z y _
  cases state : (u.zones[z]).freshness with
  | warming =>
    rw [State.settled_warming state, State.mark_zones, State.onZone_get, bins, bins, if_pos rfl]
    split <;> rfl
  | fresh =>
    rw [State.settled_fresh state, bins]
    split
    · rw [← state]
      rfl
    · rfl
  | silent => rw [state] at timed; exact absurd timed nofun
  | stale => rw [state] at timed; exact absurd timed nofun

theorem State.segmented_zones (y : Fin 4) : (u.segmented z).zones[y] =
    if y = z then { (u.settled z).zones[z] with
      segments := mapTable Prod.fst ((u.settled z).comparedSegments z), referencePending := false }
    else (u.settled z).zones[y] := State.onZone_get (u.settled z) z y _

/-- The mark of a zone that becomes FRESH, told from the zones as the period end leaves them. -/
theorem State.segmented_eq (timed : (u.zones[z]).freshness.timed = true) : u.segmented z =
    if (u.zones[z]).freshness = .fresh then { u with zones := (u.segmented z).zones }
    else State.mark { u with zones := (u.segmented z).zones } (.zone z) freshFlag := by
  cases state : (u.zones[z]).freshness with
  | warming =>
    let a : State := (u.binsSettled z).onZone z fun zone => { zone with freshness := .fresh }
    have fresh : ∀ y : Fin 4, ((u.segmented z).zones[y]).freshness = (a.zones[y]).freshness := fun y => by
      have same : (u.settled z).zones = a.zones := by rw [State.settled_warming state]; rfl
      rw [State.segmented_zones, same]
      split
      · next e => rw [e]
      · rfl
    obtain ⟨port, reports⟩ := State.mark_congr (s := a) (t := { u with zones := (u.segmented z).zones }) rfl rfl
      (State.item_congr_fresh rfl fresh rfl rfl rfl) rfl (.zone z) freshFlag
    rw [if_neg nofun]
    have marked : State.mark { u with zones := (u.segmented z).zones } (.zone z) freshFlag = { u with
        zones := (u.segmented z).zones
        port := (a.mark (.zone z) freshFlag).port, reports := (a.mark (.zone z) freshFlag).reports } := by
      rw [← port, ← reports]
      rfl
    have whole : u.segmented z = { u with
        zones := (u.segmented z).zones
        port := (a.mark (.zone z) freshFlag).port, reports := (a.mark (.zone z) freshFlag).reports } := by
      unfold State.segmented
      rw [State.settled_warming state]
      rfl
    exact whole.trans marked.symm
  | fresh =>
    rw [if_pos rfl]
    unfold State.segmented
    rw [State.settled_fresh state]
    rfl
  | silent => rw [state] at timed; exact absurd timed nofun
  | stale => rw [state] at timed; exact absurd timed nofun

/-- What becoming FRESH marks. -/
theorem State.segmented_marks (timed : (u.zones[z]).freshness.timed = true) :
    u.port.Keeps (u.segmented z).port ∧ u.port.Reports (u.segmented z).port ∧
      (u.heldBack → (u.segmented z).heldBack ∧
        ((u.zones[z]).freshness ≠ .fresh → (u.segmented z).flagged (.zone z) freshFlag)) := by
  let a : State := { u with zones := (u.segmented z).zones }
  rw [State.segmented_eq timed]
  split
  · next fresh => exact ⟨.refl _, .refl _, fun held => ⟨held, fun other => absurd fresh other⟩⟩
  · have emits := State.Emits.mark a (.zone z) freshFlag none
    exact ⟨emits.keeps, emits.reports, fun held => ⟨State.heldBack_mark (s := a) held _ _ _, fun _ =>
      State.flagged_mark (s := a) held _ _ _⟩⟩

end

end Sys2Proof.Machine
end


section
/-! SWEEP frames: assembly, integration and the period end they bring about (R103 to R106, R110, R111). -/

namespace Sys2Proof.Machine

/-! ### The zone and the link of a valid frame (R103) -/

/-- A zone that takes a valid frame. -/
def Zone.received (z : Zone) : Zone := if z.freshness.timed then z else z.warm

theorem Zone.received_warm (z : Zone) : z.received = { z with
    freshness := if z.freshness = .silent ∨ z.freshness = .stale then .warming else z.freshness
    referencePending := decide (z.freshness = .silent ∨ z.freshness = .stale) || z.referencePending } := by
  obtain ⟨freshness, settings, map, goodSweeps, segments, pending⟩ := z
  cases freshness <;> rfl

theorem Zone.received_timed (z : Zone) : z.received.freshness.timed = true := by
  unfold Zone.received
  split
  · assumption
  · rfl

theorem Zone.received_fresh (z : Zone) : z.received.freshness = .fresh ↔ z.freshness = .fresh := by
  rw [Zone.received_warm]
  cases z.freshness <;> simp

theorem State.validFrame_zones (s : State) (z y : Fin 4) :
    (s.validFrame z).zones[y] = if y = z then (s.zones[z]).received else s.zones[y] := State.onZone_get _ z y _

/-! ### A SWEEP frame -/

/-- A state with a frame's levels in the sweep in progress. -/
def State.swept (s : State) (z : Fin 4) (x : SweepWork × Bool) : State := (s.validFrame z).onLink z fun l => l.assembled x

/-- The state with the sweep ended. -/
def State.sweptOut (s : State) (z : Fin 4) (x : SweepWork × Bool) : State :=
  (s.swept z x).onLink z fun l => l.ended x.1.damaged

/-- The state with a good sweep integrated. -/
def State.sweptIn (s : State) (z : Fin 4) (x : SweepWork × Bool) : State :=
  (s.sweptOut z x).onZone z fun zone => zone.integrated s.site.window x.1.buffer

theorem exec_sweep {s : State} {z : Fin 4} {number first : Half} {stride flags : Byte} {levels : List Byte}
    (stride' : strideOk stride = true) (count : levelCountOk levels = true) :
    exec (.sweep z number first stride flags levels) s =
      .next (s.finish ((s.validFrame z).sweepFrame z number first stride flags levels)).arbitrate := by
  show execSweep z number first stride flags levels s = _
  unfold execSweep
  exact if_pos (by rw [Instr.wellFormed, stride', count]; rfl)

section

variable (s : State) (z : Fin 4) (x : SweepWork × Bool)

theorem State.sweepFrame_eq (number first : Half) (stride flags : Byte) (levels : List Byte)
    (hx : assemble s.links[z].sweep number (first.toNat + s.zones[z].settings.correction)
      (first.toNat + s.zones[z].settings.correction + levels.length * stride.toNat - 1)
      (keptLevels (first.toNat + s.zones[z].settings.correction) stride.toNat levels) = x) :
    (s.validFrame z).sweepFrame z number first stride flags levels =
      if flags.getLsbD 0 then (s.swept z x).sweepEnd z x.1 else s.swept z x := by
  have settings : ((s.validFrame z).zones[z]).settings = s.zones[z].settings := by
    rw [State.validFrame_zones, if_pos rfl, Zone.received_warm]
  have sweep : ((s.validFrame z).links[z]).sweep = s.links[z].sweep := by rw [State.validFrame_link]
  unfold State.sweepFrame
  dsimp only
  rw [settings, sweep, hx]
  rfl

theorem State.sweepEnd_damaged (damaged : x.1.damaged = true) : (s.swept z x).sweepEnd z x.1 = s.sweptOut z x :=
  if_pos damaged

theorem State.sweepEnd_good (good : x.1.damaged = false) : (s.swept z x).sweepEnd z x.1 =
    if ((s.sweptIn z x).zones[z]).settings.period ≤ ((s.sweptIn z x).zones[z]).goodSweeps then (s.sweptIn z x).periodEnd z
    else s.sweptIn z x := if_neg (ne_true_of_eq_false good)

theorem State.swept_links (y : Fin 4) : (s.swept z x).links[y] = if y = z then { s.links[z] with
      receiver := [], lastValid := some s.now, good := s.links[z].good + 1, sweep := some x.1
      abandoned := if x.2 then min (s.links[z].abandoned + 1) 255 else s.links[z].abandoned }
    else s.links[y] := by
  refine ((s.validFrame z).onLink_get z y fun l => l.assembled x).trans ?_
  rw [State.validFrame_links, State.validFrame_links, if_pos rfl]
  split <;> rfl

theorem State.sweptOut_links (y : Fin 4) : (s.sweptOut z x).links[y] = if y = z then { s.links[z] with
      receiver := [], lastValid := some s.now, good := s.links[z].good + 1, sweep := none
      abandoned := if x.2 then min (s.links[z].abandoned + 1) 255 else s.links[z].abandoned
      damaged := if x.1.damaged then min (s.links[z].damaged + 1) 255 else s.links[z].damaged }
    else s.links[y] := by
  refine ((s.swept z x).onLink_get z y fun l => l.ended x.1.damaged).trans ?_
  rw [State.swept_links, State.swept_links, if_pos rfl]
  split <;> rfl

theorem State.sweptIn_zones (y : Fin 4) : (s.sweptIn z x).zones[y] =
    if y = z then ((s.zones[z]).received).integrated s.site.window x.1.buffer else s.zones[y] := by
  refine ((s.sweptOut z x).onZone_get z y fun zone => zone.integrated s.site.window x.1.buffer).trans ?_
  have zones : (s.sweptOut z x).zones = (s.validFrame z).zones := rfl
  rw [zones, State.validFrame_zones, State.validFrame_zones, if_pos rfl]
  split <;> rfl

theorem State.swept_zones (y : Fin 4) : (s.swept z x).zones[y] = if y = z then (s.zones[z]).received else s.zones[y] :=
  s.validFrame_zones z y

/-- A frame that ends no period leaves all but its link, its zone, the header and the line. -/
theorem State.reportsOnly_same {s t : State} (h : s.samePort t) : s.reportsOnly t :=
  State.reportsOnly_of (.refl _) (.refl _) h

theorem State.swept_rest : ∃ k v, s.swept z x = { s with links := k, zones := v } := ⟨_, _, rfl⟩

theorem State.sweptOut_rest : ∃ k v, s.sweptOut z x = { s with links := k, zones := v } := by
  obtain ⟨k, v, e⟩ := s.swept_rest z x
  unfold State.sweptOut
  rw [e]
  exact ⟨_, _, rfl⟩

theorem State.sweptIn_rest : ∃ k v, s.sweptIn z x = { s with links := k, zones := v } := by
  obtain ⟨k, v, e⟩ := s.sweptOut_rest z x
  unfold State.sweptIn
  rw [e]
  exact ⟨_, _, rfl⟩

theorem State.sweptOut_zones (y : Fin 4) :
    (s.sweptOut z x).zones[y] = if y = z then (s.zones[z]).received else s.zones[y] := s.validFrame_zones z y

theorem State.sweptIn_links (y : Fin 4) : (s.sweptIn z x).links[y] = (s.sweptOut z x).links[y] := rfl

/-- The selection of segments reads the site model, the plan, the spare lists and the settings of the zone. -/
theorem State.selected_congr {s t : State} {z : Fin 4} (site : t.site = s.site) (plan : t.plan = s.plan)
    (spares : t.spares = s.spares) (settings : (t.zones[z]).settings = (s.zones[z]).settings) (j : Fin 64) :
    t.selected z j = s.selected z j := by
  unfold State.selected State.selects State.watchedIn
  rw [site, plan, spares, settings]

theorem State.settled_rest (u : State) (z : Fin 4) : ∃ v p r, u.settled z = { u with zones := v, port := p, reports := r } := by
  unfold State.settled State.freshen
  split <;> exact ⟨_, _, _, rfl⟩

end

/-! ### A period end, told from the state it began in -/

section

variable {u : State} {z : Fin 4}

/-- The state a period end routes its hits to. -/
def State.hitRouted (u : State) (z : Fin 4) : State := (u.segmented z).routeAll z ((u.settled z).hitsOf z)

theorem State.segmented_rest (timed : (u.zones[z]).freshness.timed = true) : ∃ p r, u.segmented z =
    { u with zones := (u.segmented z).zones, port := p, reports := r } := by
  have whole := State.segmented_eq timed
  generalize (u.segmented z).zones = v at whole ⊢
  rw [whole]
  split <;> exact ⟨_, _, rfl⟩

/-- A period end: what it routes, and one UPKEEP entry for each stage of the zone that is short. -/
theorem State.periodEnd_whole (timed : (u.zones[z]).freshness.timed = true) : u.periodEnd z = { u with
    zones := (u.segmented z).zones
    port := (u.hitRouted z).port
    reports := (u.hitRouted z).reports
    spares := (u.hitRouted z).spares
    engine := { u.engine with
      urgent := (u.hitRouted z).engine.urgent
      routine := u.engine.routine ++
        if (u.settled z).hitsOf z = [] then [] else u.shortEntries (u.hitRouted z) (u.boundTo z) } } := by
  obtain ⟨v, p, r, settled⟩ := u.settled_rest z
  obtain ⟨p', r', segmented⟩ := State.segmented_rest timed
  have routes := State.routeAll_routes z ((u.settled z).hitsOf z) (u.segmented z)
  obtain ⟨p'', r'', v'', e, rest⟩ := routes.rest
  obtain ⟨m, n, -, engine⟩ := routes.entries
  have before : (u.settled z).engine = u.engine := by rw [settled]
  have between : (u.segmented z).engine = u.engine := by rw [segmented]
  have joined : u.engine.joined (u.hitRouted z).engine =
      if (u.settled z).hitsOf z = [] then [] else u.shortEntries (u.hitRouted z) (u.boundTo z) := by
    by_cases none : (u.settled z).hitsOf z = []
    · have stays : u.hitRouted z = u.segmented z := by
        unfold State.hitRouted
        rw [none]
        rfl
      rw [if_pos none, stays, between, Engine.joined_self]
    · have upkept := State.routeAll_upkept z none (u.segmented z)
      have bound : (u.segmented z).boundTo z = u.boundTo z := by rw [segmented]; rfl
      rw [bound] at upkept
      have entries := upkept.joined_eq
      rw [between] at entries
      rw [if_neg none]
      exact entries.trans (State.shortEntries_congr _ (fun _ => by rw [between]) (fun _ => by rw [between]) rfl fun _ => rfl)
  rw [State.periodEnd_eq, ← joined]
  show State.inStageOrder (u.settled z) (u.hitRouted z) = _
  have routed : u.hitRouted z = { u with
      zones := (u.segmented z).zones, port := (u.hitRouted z).port, reports := (u.hitRouted z).reports
      spares := (u.hitRouted z).spares
      engine := { u.engine with urgent := (u.hitRouted z).engine.urgent, routine := (u.hitRouted z).engine.routine } } := by
    have eng : (u.hitRouted z).engine = { u.engine with
        urgent := (u.hitRouted z).engine.urgent, routine := (u.hitRouted z).engine.routine } := by
      have := engine
      rw [between] at this
      rw [State.hitRouted, this]
    have whole : u.hitRouted z = { u.segmented z with port := (u.hitRouted z).port, reports := (u.hitRouted z).reports,
                                                      spares := (u.hitRouted z).spares, engine := (u.hitRouted z).engine } := by
      unfold State.hitRouted
      rw [rest]
    rw [← eng]
    refine whole.trans ?_
    generalize u.hitRouted z = q
    generalize (u.segmented z).zones = w at segmented ⊢
    rw [segmented]
  unfold State.inStageOrder
  rw [before]
  exact congrArg (fun q : State => { q with engine := { q.engine with
    routine := u.engine.routine ++ u.engine.joined (u.hitRouted z).engine } }) routed

theorem Zone.newCode_congr {y z : Zone} (h : y.map = z.map) (w : Window) (j : Fin 64) : y.newCode w j = z.newCode w j := by
  unfold Zone.newCode
  rw [h]

/-- The zone at the end of a period. -/
theorem State.segmented_zone (timed : (u.zones[z]).freshness.timed = true) : (u.segmented z).zones[z] = { u.zones[z] with
    map := sparseMap Bin.cleared Bin.settle (u.zones[z]).map, goodSweeps := 0, freshness := .fresh
    segments := mapTable Prod.fst ((u.settled z).comparedSegments z), referencePending := false } := by
  rw [State.segmented_zones, if_pos rfl, State.settled_zones timed, if_pos rfl]

/-- What a period end compares a segment with, told from the state it began in. -/
theorem State.settled_compared (timed : (u.zones[z]).freshness.timed = true) {j : Fin 64}
    (full : u.site.window.segmentFull j = true) : ((u.settled z).comparedSegments z)[j] =
      ((((u.zones[z]).segments[j]).periodEnd (u.zones[z]).settings (u.selected z j) (u.zones[z]).referencePending
          (((u.segmented z).zones[z]).newCode u.site.window j)).1.afterMode (u.zones[z]).settings.mode
        (((u.zones[z]).segments[j]).periodEnd (u.zones[z]).settings (u.selected z j) (u.zones[z]).referencePending
          (((u.segmented z).zones[z]).newCode u.site.window j)).2,
        (((u.zones[z]).segments[j]).periodEnd (u.zones[z]).settings (u.selected z j) (u.zones[z]).referencePending
          (((u.segmented z).zones[z]).newCode u.site.window j)).2) := by
  obtain ⟨v, p, r, settled⟩ := u.settled_rest z
  have site : (u.settled z).site = u.site := by rw [settled]
  have zone := (State.settled_zones timed z).trans (if_pos rfl)
  have select : (u.settled z).selected z j = u.selected z j :=
    State.selected_congr site (by rw [settled]) (by rw [settled]) (by rw [zone]) j
  have code : ((u.settled z).zones[z]).newCode u.site.window j = ((u.segmented z).zones[z]).newCode u.site.window j :=
    Zone.newCode_congr (by rw [State.segmented_zone timed, zone]) _ j
  rw [State.comparedSegments_full z (by rw [site]; exact full), select, site, code, zone]

theorem State.hitsOf_settled (timed : (u.zones[z]).freshness.timed = true) : (u.settled z).hitsOf z =
    allSegments.filterMap fun j => if u.site.window.segmentFull j then
      (((u.zones[z]).segments[j]).periodEnd (u.zones[z]).settings (u.selected z j) (u.zones[z]).referencePending
        (((u.segmented z).zones[z]).newCode u.site.window j)).2.map fun rise => (j, rise) else none := by
  unfold State.hitsOf
  congr 1
  funext j
  by_cases full : u.site.window.segmentFull j = true
  · rw [if_pos full, State.settled_compared timed full]
  · obtain ⟨v, p, r, settled⟩ := u.settled_rest z
    have empty : (u.settled z).site.window.segmentFull j ≠ true := by rw [settled]; exact full
    rw [if_neg full, State.comparedSegments_empty z empty]
    rfl

/-! ### A period end that a sweep brings about -/

/-- The comparison of a segment at the period end that a frame brings about, told from the state before the frame. -/
def State.comparison (s : State) (z : Fin 4) (after : Zone) (j : Fin 64) : Segment × Option Nat :=
  (s.zones[z].segments[j]).periodEnd s.zones[z].settings (s.selected z j)
    (decide (s.zones[z].freshness = .silent ∨ s.zones[z].freshness = .stale) || s.zones[z].referencePending)
    (after.newCode s.site.window j)

section

variable {s : State} {k : Vector Link 4} {v : Vector Zone 4} {buffer : List SweepLevel}

/-- The state with a link and a zone changed by a frame. -/
def State.framed (s : State) (k : Vector Link 4) (v : Vector Zone 4) : State := { s with links := k, zones := v }

theorem State.framed_timed (zone : v[z] = (s.zones[z].received).integrated s.site.window buffer) :
    (((s.framed k v).zones[z]).freshness).timed = true :=
  (congrArg (fun y : Zone => y.freshness.timed) zone).trans (Zone.received_timed _)

theorem State.framed_fresh (zone : v[z] = (s.zones[z].received).integrated s.site.window buffer) :
    ((s.framed k v).zones[z]).freshness = .fresh ↔ s.zones[z].freshness = .fresh := by
  have same : ((s.framed k v).zones[z]).freshness = (s.zones[z].received).freshness :=
    (congrArg Zone.freshness zone :)
  rw [same, Zone.received_fresh]

theorem State.framed_comparison (zone : v[z] = (s.zones[z].received).integrated s.site.window buffer) (after : Zone)
    (j : Fin 64) : (((s.framed k v).zones[z]).segments[j]).periodEnd ((s.framed k v).zones[z]).settings
        ((s.framed k v).selected z j) ((s.framed k v).zones[z]).referencePending
        (after.newCode (s.framed k v).site.window j) = s.comparison z after j := by
  have own : (s.framed k v).zones[z] = (s.zones[z].received).integrated s.site.window buffer := zone
  have settings : ((s.framed k v).zones[z]).settings = s.zones[z].settings := by
    rw [own, Zone.integrated, Zone.received_warm]
  rw [State.selected_congr (s := s) (t := s.framed k v) rfl rfl rfl settings j, own, Zone.integrated, Zone.received_warm]
  rfl

theorem State.framed_segments (zone : v[z] = (s.zones[z].received).integrated s.site.window buffer) {j : Fin 64}
    (full : s.site.window.segmentFull j = true) : (((s.framed k v).segmented z).zones[z]).segments[j] =
      (s.comparison z (((s.framed k v).segmented z).zones[z]) j).1.afterMode s.zones[z].settings.mode
        (s.comparison z (((s.framed k v).segmented z).zones[z]) j).2 := by
  have timed := State.framed_timed (k := k) zone
  have settings : ((s.framed k v).zones[z]).settings = s.zones[z].settings := by
    refine (congrArg Zone.settings zone).trans ?_
    rw [Zone.integrated, Zone.received_warm]
  have one := congrArg (fun y : Zone => y.segments[j]) (State.segmented_zone timed)
  refine one.trans ?_
  dsimp only
  rw [mapTable_get, State.settled_compared timed full, State.framed_comparison zone, settings]

theorem State.framed_hits (zone : v[z] = (s.zones[z].received).integrated s.site.window buffer) :
    ((s.framed k v).settled z).hitsOf z = allSegments.filterMap fun j => if s.site.window.segmentFull j then
      (s.comparison z (((s.framed k v).segmented z).zones[z]) j).2.map fun rise => (j, rise) else none := by
  rw [State.hitsOf_settled (State.framed_timed zone)]
  simp only [State.framed_comparison zone]
  rfl

theorem State.framed_bins (zone : v[z] = (s.zones[z].received).integrated s.site.window buffer)
    (ok : sparseOk Bin.cleared s.zones[z].map = true) {n : Nat} (has : s.site.window.has n = true) :
    sparseGet Bin.cleared (((s.framed k v).segmented z).zones[z]).map n =
      Bin.settle { sparseGet Bin.cleared s.zones[z].map n with
        sum := (sparseGet Bin.cleared s.zones[z].map n).sum + ((buffer.filter (fun k => k.covers n)).map SweepLevel.level).sum
        samples := (sparseGet Bin.cleared s.zones[z].map n).samples + (buffer.filter (fun k => k.covers n)).length } := by
  have settles : Bin.settle Bin.cleared = Bin.cleared := rfl
  have map : ((s.framed k v).zones[z]).map = integrate s.site.window buffer s.zones[z].map := by
    refine (congrArg Zone.map zone).trans ?_
    rw [Zone.integrated, Zone.received_warm]
  rw [State.segmented_zone (State.framed_timed zone)]
  dsimp only
  rw [map, sparseMap_get settles (integrate_ok _ _ _ ok), sparseGet_integrate _ _ ok, if_pos has]

/-- The state the hits are routed from: the frame's zone, marked FRESH if it was not. -/
theorem State.framed_segmented (zone : v[z] = (s.zones[z].received).integrated s.site.window buffer) :
    (s.framed k v).segmented z = if s.zones[z].freshness = .fresh then
      s.framed k ((s.framed k v).segmented z).zones
    else (s.framed k ((s.framed k v).segmented z).zones).mark (.zone z) freshFlag :=
  (State.segmented_eq (State.framed_timed zone)).trans
    (ite_congr (propext (State.framed_fresh zone)) (fun _ => rfl) fun _ => rfl)

end

end

/-- The hits of a period end that a frame brings about, told from the zone as it ends. -/
def State.frameHits (s : State) (z : Fin 4) (after : Zone) : List (Fin 64 × Nat) :=
  allSegments.filterMap fun j => if s.site.window.segmentFull j then
    (s.comparison z after j).2.map fun rise => (j, rise) else none

/-- The state from which the hits are routed, told from the links and the zones as they end. -/
def State.freshened (s t : State) (z : Fin 4) : State :=
  if s.zones[z].freshness = .fresh then s.framed t.links t.zones
  else (s.framed t.links t.zones).mark (.zone z) freshFlag

/-- What a frame that ends a period leaves. -/
structure State.PeriodEnded (s t : State) (z : Fin 4) (k : Vector Link 4) (v : Vector Zone 4) (buffer : List SweepLevel) :
    Prop where
  site : t.site = s.site
  plan : t.plan = s.plan
  census : t.census = s.census
  free : t.free = s.free
  now : t.now = s.now
  pending : t.pending = s.pending
  links : t.links = k
  others : ∀ y : Fin 4, y ≠ z → t.zones[y] = v[y]
  reportsOnly : s.reportsOnly t
  settings : t.zones[z].settings = s.zones[z].settings
  goodSweeps : t.zones[z].goodSweeps = 0
  referencePending : t.zones[z].referencePending = false
  freshness : t.zones[z].freshness = .fresh
  bins : s.mapsOk → ∀ n, s.site.window.has n = true → sparseGet Bin.cleared t.zones[z].map n =
    Bin.settle { sparseGet Bin.cleared s.zones[z].map n with
      sum := (sparseGet Bin.cleared s.zones[z].map n).sum + ((buffer.filter (fun k => k.covers n)).map SweepLevel.level).sum
      samples := (sparseGet Bin.cleared s.zones[z].map n).samples + (buffer.filter (fun k => k.covers n)).length }
  segments : ∀ j : Fin 64, s.site.window.segmentFull j = true → t.zones[z].segments[j] =
    (s.comparison z t.zones[z] j).1.afterMode s.zones[z].settings.mode (s.comparison z t.zones[z] j).2
  engine : t.engine = { s.engine with
    urgent := ((s.freshened t z).routeAll z (s.frameHits z t.zones[z])).engine.urgent
    routine := s.engine.routine ++ if s.frameHits z t.zones[z] = [] then [] else s.shortEntries t (s.boundTo z) }
  spares : t.spares = ((s.freshened t z).routeAll z (s.frameHits z t.zones[z])).spares
  reports : t.reports = ((s.freshened t z).routeAll z (s.frameHits z t.zones[z])).reports
  port : t.port = { ((s.freshened t z).routeAll z (s.frameHits z t.zones[z])).port with
    header := t.port.header, line := t.port.line }
  entries : ∃ m n : List Entry, (∀ e ∈ m ++ n, e.isInternal = true) ∧
    t.engine = { s.engine with urgent := s.engine.urgent ++ m, routine := s.engine.routine ++ n }
  flagged : s.heldBack → s.zones[z].freshness ≠ .fresh → t.flagged (.zone z) freshFlag

theorem State.framed_ends {s : State} {z : Fin 4} {k : Vector Link 4} {v : Vector Zone 4} {buffer : List SweepLevel}
    (zone : v[z] = (s.zones[z].received).integrated s.site.window buffer) :
    s.PeriodEnded (s.finish ((s.framed k v).periodEnd z)) z k v buffer := by
  have timed := State.framed_timed (k := k) zone
  obtain ⟨keeps, moved, marks⟩ := State.segmented_marks timed
  have routes := State.routeAll_routes z (((s.framed k v).settled z).hitsOf z) ((s.framed k v).segmented z)
  have ended := State.segmented_zone timed
  have settings : (v[z]).settings = s.zones[z].settings := by
    rw [zone, Zone.integrated, Zone.received_warm]
  have routed : (s.framed k v).hitRouted z = State.routeAll (if s.zones[z].freshness = .fresh then
        s.framed k ((s.framed k v).segmented z).zones
      else (s.framed k ((s.framed k v).segmented z).zones).mark (.zone z) freshFlag) z
      (s.frameHits z (((s.framed k v).segmented z).zones[z])) := by
    rw [← State.framed_segmented zone]
    unfold State.hitRouted
    rw [State.framed_hits zone]
    rfl
  have bins := fun (maps : s.mapsOk) n has => State.framed_bins (k := k) (n := n) zone (maps z) has
  have segments := fun j full => State.framed_segments (k := k) (j := j) zone full
  have hits : ((s.framed k v).settled z).hitsOf z = s.frameHits z (((s.framed k v).segmented z).zones[z]) :=
    State.framed_hits zone
  have others : ∀ y : Fin 4, y ≠ z → ((s.framed k v).segmented z).zones[y] = v[y] := fun y other => by
    rw [State.segmented_zones, if_neg other, State.settled_zones timed, if_neg other]
    rfl
  have whole := State.periodEnd_whole timed
  obtain ⟨p, r, segmented⟩ := State.segmented_rest timed
  obtain ⟨m, n, internal, engine⟩ := routes.entries
  obtain ⟨p', r', w, e, rest⟩ := routes.rest
  have between : ((s.framed k v).segmented z).engine = s.engine := by rw [segmented]; rfl
  have site : ((s.framed k v).hitRouted z).site = s.site := by
    unfold State.hitRouted
    rw [rest, segmented]
    rfl
  have queued : ((s.framed k v).hitRouted z).engine = { s.engine with
      urgent := s.engine.urgent ++ m, routine := s.engine.routine ++ n } := by
    rw [← between]
    exact engine
  have flagged : s.heldBack → s.zones[z].freshness ≠ .fresh → ((s.framed k v).hitRouted z).flagged (.zone z) freshFlag :=
    fun held other => by
      obtain ⟨back, flags⟩ := marks held
      exact (routes.held back).2 _ _ (flags fun e => other ((State.framed_fresh zone).1 e))
  have keeps' : s.port.Keeps ((s.framed k v).hitRouted z).port := keeps.trans routes.keeps
  have moved' : s.port.Reports ((s.framed k v).hitRouted z).port := Port.Reports.trans keeps moved routes.moved
  have short : (s.framed k v).shortEntries ((s.framed k v).hitRouted z) ((s.framed k v).boundTo z) =
      s.shortEntries { s with spares := ((s.framed k v).hitRouted z).spares } (s.boundTo z) :=
    State.shortEntries_congr _ (fun _ => rfl) (fun _ => rfl) rfl fun b => by rw [site]
  rw [whole, hits, short]
  clear whole hits short rest segmented between engine routes marks keeps moved site
  generalize (s.framed k v).hitRouted z = R at *
  generalize ((s.framed k v).segmented z).zones = SZ at *
  have engineEnds : ∃ m n : List Entry, (∀ e ∈ m ++ n, e.isInternal = true) ∧ { s.engine with
      urgent := R.engine.urgent
      routine := s.engine.routine ++ if s.frameHits z SZ[z] = [] then [] else
        s.shortEntries { s with spares := R.spares } (s.boundTo z) } =
      { s.engine with urgent := s.engine.urgent ++ m, routine := s.engine.routine ++ n } := by
    refine ⟨m, _, fun e mem => ?_, by rw [queued]⟩
    rcases List.mem_append.1 mem with mem | mem
    · exact internal e (List.mem_append_left _ mem)
    · split at mem
      · exact absurd mem List.not_mem_nil
      · obtain ⟨b, -, rfl⟩ := List.mem_map.1 mem
        rfl
  exact {
    site := rfl, plan := rfl, census := rfl, free := rfl, now := rfl, pending := rfl, links := rfl
    others := others
    reportsOnly := State.reportsOnly_of keeps' moved' rfl
    settings := (congrArg Zone.settings ended).trans settings
    goodSweeps := congrArg Zone.goodSweeps ended
    referencePending := congrArg Zone.referencePending ended
    freshness := congrArg Zone.freshness ended
    bins := bins
    segments := segments
    engine := by rw [routed]; rfl
    spares := (congrArg State.spares routed :)
    reports := (congrArg State.reports routed :)
    port := by rw [routed]; rfl
    entries := engineEnds
    flagged := flagged }

end Sys2Proof.Machine

open Sys2Proof Sys2Proof.Machine

/-- Settles O48. -/
theorem sweepAssemblesAndEnds : Obligations.SweepAssemblesAndEnds := by
  intro s z number first stride flags levels strides counts maps l f last kept begun next lost link warm
  have hx : assemble s.links[z].sweep number f last kept = (next, lost) := by
    show assemble l.sweep number f last kept = (next, lost)
    dsimp only [next, lost]
    cases l.sweep with
    | none => rfl
    | some w =>
      by_cases own : w.number = number
      · by_cases behind : w.last < f
        · rw [assemble_behind own behind]
          simp [own, behind]
        · rw [assemble_overlaps own behind]
          simp [own, behind]
      · rw [assemble_other own]
        simp [own, begun]
  have run := exec_sweep (s := s) (z := z) (number := number) (first := first) (flags := flags) strides counts
  rw [s.sweepFrame_eq z (next, lost) number first stride flags levels hx] at run
  clear hx
  clear_value next lost
  cases lastFrame : flags.getLsbD 0 with
  | false =>
    rw [lastFrame, if_neg nofun] at run
    have links := s.swept_links z (next, lost)
    have zones := s.swept_zones z (next, lost)
    obtain ⟨k, v, rest⟩ := s.swept_rest z (next, lost)
    rw [rest] at run links zones
    have own := (links z).trans (if_pos rfl)
    have zone := (zones z).trans (if_pos rfl)
    refine ⟨_, run, rfl, rfl, rfl, fun y other => ⟨(links y).trans (if_neg other), (zones y).trans (if_neg other)⟩, rfl, rfl,
      rfl, State.reportsOnly_same rfl, ?_, fun _ => ⟨own, State.frameTaken_of (congrArg Link.lastValid own)
        (congrArg Link.good own) (congrArg Link.receiver own) (zone.trans (s.validFrame_zone z).symm), rfl, rfl, rfl, rfl⟩,
      nofun, nofun⟩
    exact (congrArg Zone.settings zone).trans (by rw [Zone.received_warm])
  | true =>
    rw [lastFrame, if_pos rfl] at run
    cases damaged : next.damaged with
    | true =>
      rw [s.sweepEnd_damaged z (next, lost) damaged] at run
      have links := s.sweptOut_links z (next, lost)
      have zones := s.sweptOut_zones z (next, lost)
      obtain ⟨k, v, rest⟩ := s.sweptOut_rest z (next, lost)
      rw [rest] at run links zones
      have own := (links z).trans (if_pos rfl)
      dsimp only at own
      rw [damaged, if_pos rfl] at own
      have zone := (zones z).trans (if_pos rfl)
      refine ⟨_, run, rfl, rfl, rfl, fun y other => ⟨(links y).trans (if_neg other), (zones y).trans (if_neg other)⟩, rfl, rfl,
        rfl, State.reportsOnly_same rfl, ?_, nofun, fun _ _ => ⟨own, State.frameTaken_of (congrArg Link.lastValid own)
          (congrArg Link.good own) (congrArg Link.receiver own) (zone.trans (s.validFrame_zone z).symm), rfl, rfl, rfl, rfl⟩,
        nofun⟩
      exact (congrArg Zone.settings zone).trans (by rw [Zone.received_warm])
    | false =>
      rw [s.sweepEnd_good z (next, lost) damaged] at run
      have links : ∀ y : Fin 4, (s.sweptIn z (next, lost)).links[y] = _ := s.sweptOut_links z (next, lost)
      have zones := s.sweptIn_zones z (next, lost)
      obtain ⟨k, v, rest⟩ := s.sweptIn_rest z (next, lost)
      rw [rest] at run links zones
      have own := (links z).trans (if_pos rfl)
      dsimp only at own
      rw [damaged, if_neg Bool.false_ne_true] at own
      have zone := (zones z).trans (if_pos rfl)
      have canonical : sparseOk Bin.cleared (s.zones[z].received).map = true := by
        rw [Zone.received_warm]
        exact maps z
      have settings : (v[z]).settings = s.zones[z].settings := by
        rw [zone, Zone.integrated, Zone.received_warm]
      have good : (v[z]).goodSweeps = s.zones[z].goodSweeps + 1 := by
        rw [zone, Zone.integrated, Zone.received_warm]
      rw [settings, good] at run
      by_cases ends : s.zones[z].settings.period ≤ s.zones[z].goodSweeps + 1
      · rw [if_pos ends] at run
        have done := State.framed_ends (k := k) zone
        have run' : exec (.sweep z number first stride flags levels) s = .next
          (s.finish ((s.framed k v).periodEnd z)).arbitrate := run
        generalize s.finish ((s.framed k v).periodEnd z) = t at run' done
        refine ⟨t, run', done.site, done.plan, done.census, fun y other =>
          ⟨(congrArg (fun w : Vector Link 4 => w[y]) done.links).trans ((links y).trans (if_neg other)),
            (done.others y other).trans ((zones y).trans (if_neg other))⟩, done.free, done.now, done.pending, done.reportsOnly,
          done.settings, nofun, nofun, fun _ _ => ⟨(congrArg (fun w : Vector Link 4 => w[z]) done.links).trans own, ?_⟩⟩
        intro covering sum bin
        exact ⟨fun few => absurd ends (Nat.not_le.2 few), fun _ => ⟨done.goodSweeps, done.referencePending, done.freshness,
          fun n has => (done.bins maps n has).trans (Bin.settle_gained (bin n) (sum n) (covering n).length), done.segments,
          ⟨done.engine, done.spares, done.reports, done.port⟩, done.entries, done.flagged⟩⟩
      · rw [if_neg ends] at run
        refine ⟨_, run, rfl, rfl, rfl, fun y other => ⟨(links y).trans (if_neg other), (zones y).trans (if_neg other)⟩, rfl, rfl,
          rfl, State.reportsOnly_same rfl, settings, nofun, nofun, fun _ _ => ⟨own, ?_⟩⟩
        intro covering sum bin
        refine ⟨fun _ => ⟨good, ?_, fun on => ?_, fun off => ?_, fun n => ?_, rfl, rfl, rfl, rfl⟩, fun e => absurd e ends⟩
        · refine (congrArg Zone.segments zone).trans ?_
          rw [Zone.integrated, Zone.received_warm]
        · have silent := of_decide_eq_true on
          refine ⟨(congrArg Zone.freshness zone).trans ?_, (congrArg Zone.referencePending zone).trans ?_⟩
          · rw [Zone.integrated, Zone.received_warm]
            exact if_pos silent
          · rw [Zone.integrated, Zone.received_warm]
            exact (congrArg (· || _) on)
        · have timed := of_decide_eq_false off
          refine ⟨(congrArg Zone.freshness zone).trans ?_, (congrArg Zone.referencePending zone).trans ?_⟩
          · rw [Zone.integrated, Zone.received_warm]
            exact if_neg timed
          · rw [Zone.integrated, Zone.received_warm]
            exact (congrArg (· || _) off)
        · refine (congrArg (fun y : Zone => sparseGet Bin.cleared y.map n) zone).trans ?_
          refine (sparseGet_integrate _ _ canonical n).trans ?_
          rw [Zone.received_warm]
          rfl

end


section
/-! The receiver of a scanner link: what it does with each byte, with a frame that fails a check, and with a whole frame as the
scanner sends it (R102, R166). -/

namespace Sys2Proof.Machine

/-! ### Hunting and taking bytes -/

/-- Behind the first byte of the sync pair the receiver takes the second. -/
theorem feed_begun (b : Byte) : feed [0x9B#8] b =
    if b = 0x64#8 then [0x9B#8, 0x64#8] else if b = 0x9B#8 then [b] else [] :=
  ite_congr rfl (fun e => by rw [e]) fun _ => rfl

/-- Inside a frame the receiver takes each byte. -/
theorem foldl_feed_inside (l : List Byte) (a c : Byte) (t : List Byte) : l.foldl feed (a :: c :: t) = a :: c :: t ++ l := by
  induction l generalizing t with
  | nil => exact (List.append_nil _).symm
  | cons b l ih =>
    show l.foldl feed (a :: c :: (t ++ [b])) = _
    rw [ih, List.cons_append, List.cons_append, List.append_assoc, List.singleton_append]
    rfl

/-- Hunting, the receiver takes a sync pair and what stands behind it. -/
theorem foldl_feed_sync (l : List Byte) : (0x9B#8 :: 0x64#8 :: l).foldl feed [] = 0x9B#8 :: 0x64#8 :: l :=
  foldl_feed_inside l _ _ []

theorem bigEndian_high (h : Half) : bigEndian (h.extractLsb' 8 8) (h.extractLsb' 0 8) = h.toNat := by
  simp only [bigEndian, BitVec.extractLsb'_toNat, Nat.shiftRight_eq_div_pow]
  have bound := h.isLt
  omega

theorem lengthOk_iff (c : Byte) (n : Nat) : lengthOk c n = true ↔
    (c = 0x01#8 ∧ 10 ≤ n ∧ n ≤ 1033) ∨ (c = 0x03#8 ∧ n = 3) ∨ (c = 0x04#8 ∧ n = 1) := by
  unfold lengthOk
  split
  · next sweep => subst sweep; simp
  · next other =>
    split
    · next answer => subst answer; simp
    · next neither => simp [other, neither]

/-! ### The checks of a frame's start -/

section
variable (z : Fin 4) (a b c : Byte) (l : List Byte)

theorem badStart_untyped : badStart [0x9B#8, 0x64#8, a, b] = true ↔ bigEndian a b = 0 ∨ 1100 < bigEndian a b := by
  simp [badStart, frameLength, frameType]

theorem badStart_typed : badStart ([0x9B#8, 0x64#8, a, b] ++ c :: l) = true ↔
    (bigEndian a b = 0 ∨ 1100 < bigEndian a b) ∨ lengthOk c (bigEndian a b) = false := by
  simp [badStart, frameLength, frameType]

theorem badStart_allowed (allowed : lengthOk c (bigEndian a b) = true) :
    badStart ([0x9B#8, 0x64#8, a, b] ++ c :: l) = false := by
  refine Bool.eq_false_iff.mpr fun bad => ?_
  have bound := (lengthOk_iff c _).mp allowed
  rcases (badStart_typed a b c l).mp bad with outside | refused
  · omega
  · exact Bool.false_ne_true (refused.symm.trans allowed)

theorem complete_untyped : complete [0x9B#8, 0x64#8, a, b] = false :=
  decide_eq_false fun (e : 4 = bigEndian a b + 6) => by omega

theorem complete_typed : complete ([0x9B#8, 0x64#8, a, b] ++ c :: l) = true ↔ l.length + 1 = bigEndian a b + 2 := by
  rw [complete]
  exact decide_eq_true_iff.trans ⟨fun e => by simp at e; omega, fun e => by simp; omega⟩

theorem receive_bad {l : List Byte} (bad : badStart l = true) : receive z l = (some (.formatError z), feedAll (l.drop 2)) :=
  if_pos bad

theorem receive_more {l : List Byte} (good : badStart l = false) (more : complete l = false) : receive z l = (none, l) := by
  rw [receive, good, more]; rfl

theorem receive_complete {l : List Byte} (good : badStart l = false) (whole : complete l = true) :
    receive z l = (some (frameEvent z l), []) := by
  rw [receive, good, whole]; rfl

/-! ### A complete frame -/

/-- The CRC of a frame covers its length and its type and payload; the two bytes behind them are compared with it. -/
theorem crcMatches_iff (whole : l.length + 1 = bigEndian a b + 2) :
    crcMatches ([0x9B#8, 0x64#8, a, b] ++ c :: l) = true ↔
      high (crc ([a, b] ++ (c :: l).take (bigEndian a b))) = (c :: l).drop (bigEndian a b) := by
  have covered : ((([0x9B#8, 0x64#8, a, b] ++ c :: l).drop 2).dropLast.dropLast) =
      [a, b] ++ (c :: l).take (bigEndian a b) := by
    show (a :: b :: c :: l).dropLast.dropLast = _
    rw [List.dropLast_eq_take, List.dropLast_eq_take, List.take_take]
    have count : min ((List.take ((a :: b :: c :: l).length - 1) (a :: b :: c :: l)).length - 1)
        ((a :: b :: c :: l).length - 1) = bigEndian a b + 2 := by simp; omega
    rw [count]; rfl
  have behind : ([0x9B#8, 0x64#8, a, b] ++ c :: l).drop (([0x9B#8, 0x64#8, a, b] ++ c :: l).length - 2) =
      (c :: l).drop (bigEndian a b) := by
    have count : ([0x9B#8, 0x64#8, a, b] ++ c :: l).length - 2 = 4 + bigEndian a b := by simp; omega
    rw [count, ← List.drop_drop]; rfl
  rw [crcMatches, covered, behind]
  exact decide_eq_true_iff

theorem frameEvent_failed {l : List Byte} (fails : crcMatches l = false) : frameEvent z l = .crcError z := by
  rw [frameEvent, fails]; rfl

theorem sweepEvent_not_crcError (p : List Byte) : sweepEvent z p ≠ .crcError z := by
  unfold sweepEvent
  split
  · split <;> nofun
  · nofun

theorem frameEvent_matched {l : List Byte} (fits : crcMatches l = true) : frameEvent z l ≠ .crcError z := by
  rw [frameEvent, fits]
  show (match frameType l, (l.drop 5).dropLast.dropLast with
    | some 0x01#8, p => sweepEvent z p
    | some 0x03#8, [i, v] => .probeAnswer z i v
    | some 0x04#8, [] => .idle z
    | _, _ => .formatError z) ≠ _
  split
  · exact sweepEvent_not_crcError z _
  · nofun
  · nofun
  · nofun

end

/-! ### The frames of the scanner -/

section
variable (z : Fin 4) (type : Byte) (payload : List Byte)

/-- The length field of a frame. -/
def lengthField : Half := BitVec.ofNat 16 (payload.length + 1)

theorem frameBytes_eq : frameBytes type payload =
    [0x9B#8, 0x64#8, (lengthField payload).extractLsb' 8 8, (lengthField payload).extractLsb' 0 8] ++
      type :: (payload ++ high (crc (high (lengthField payload) ++ type :: payload))) := rfl

theorem frameBytes_fed : (frameBytes type payload).foldl feed [] = frameBytes type payload := foldl_feed_sync _

theorem frameType_frameBytes : frameType (frameBytes type payload) = some type := rfl

theorem payload_frameBytes : ((frameBytes type payload).drop 5).dropLast.dropLast = payload := by
  show (payload ++ high _).dropLast.dropLast = payload
  simp [high]

variable {type payload}

theorem bigEndian_lengthField (short : payload.length ≤ 1099) :
    bigEndian ((lengthField payload).extractLsb' 8 8) ((lengthField payload).extractLsb' 0 8) = payload.length + 1 := by
  rw [bigEndian_high, lengthField, BitVec.toNat_ofNat]
  omega

theorem crcMatches_frameBytes (short : payload.length ≤ 1099) : crcMatches (frameBytes type payload) = true := by
  have length := bigEndian_lengthField short
  rw [frameBytes_eq]
  refine (crcMatches_iff _ _ _ _ ?_).mpr ?_
  · rw [length]; simp [high]
  · rw [length, ← List.cons_append, List.take_left' (by rfl), List.drop_left' (by rfl)]; rfl

/-- A frame of the scanner's brings about its event, and the hunt goes on behind it. -/
theorem receive_frameBytes (short : payload.length ≤ 1099) (allowed : lengthOk type (payload.length + 1) = true) :
    receive z (frameBytes type payload) = (some (frameEvent z (frameBytes type payload)), []) := by
  have length := bigEndian_lengthField short
  refine receive_complete z ?_ ?_
  · exact badStart_allowed _ _ _ _ ((congrArg (lengthOk type) length).trans allowed)
  · refine (complete_typed _ _ _ _).mpr (Eq.trans ?_ (congrArg (· + 2) length.symm))
    simp [high]

theorem frameEvent_sweep (short : payload.length ≤ 1099) : frameEvent z (frameBytes 0x01#8 payload) = sweepEvent z payload := by
  rw [frameEvent, crcMatches_frameBytes short, payload_frameBytes]
  rfl

end

section
variable (z : Fin 4) (number first : Half) (stride flags : Byte) (count : Half) (levels : List Byte)

/-- The payload of a SWEEP frame. -/
def sweepPayload : List Byte := high number ++ high first ++ [stride, flags] ++ high count ++ levels

theorem sweepPayload_length : (sweepPayload number first stride flags count levels).length = levels.length + 8 := by
  simp [sweepPayload, high]

theorem sweepEvent_payload : sweepEvent z (sweepPayload number first stride flags count levels) =
    if levels.length = count.toNat then .sweep z number first stride flags levels else .formatError z := by
  show (if levels.length = bigEndian (count.extractLsb' 8 8) (count.extractLsb' 0 8) then
    Instr.sweep z (BitVec.ofNat 16 (bigEndian (number.extractLsb' 8 8) (number.extractLsb' 0 8)))
      (BitVec.ofNat 16 (bigEndian (first.extractLsb' 8 8) (first.extractLsb' 0 8))) stride flags levels
    else .formatError z) = _
  rw [bigEndian_high, bigEndian_high, bigEndian_high, BitVec.ofNat_toNat, BitVec.ofNat_toNat, BitVec.setWidth_eq, BitVec.setWidth_eq]

theorem receive_sweep (some' : 1 ≤ levels.length) (few : levels.length ≤ 1024) :
    receive z (frameBytes 0x01#8 (sweepPayload number first stride flags count levels)) =
      (some (if levels.length = count.toNat then .sweep z number first stride flags levels else .formatError z), []) := by
  have length := sweepPayload_length number first stride flags count levels
  have short : (sweepPayload number first stride flags count levels).length ≤ 1099 := by omega
  rw [receive_frameBytes z short ((lengthOk_iff _ _).mpr (.inl ⟨rfl, by omega, by omega⟩)),
    frameEvent_sweep z short, ← sweepEvent_payload]

end

theorem receive_answer (z : Fin 4) (probeId level : Byte) :
    receive z (frameBytes 0x03#8 [probeId, level]) = (some (.probeAnswer z probeId level), []) := by
  have short : [probeId, level].length ≤ 1099 := Nat.le_of_ble_eq_true rfl
  rw [receive_frameBytes z short rfl, frameEvent, crcMatches_frameBytes short, payload_frameBytes]
  rfl

theorem receive_idle (z : Fin 4) : receive z (frameBytes 0x04#8 []) = (some (.idle z), []) := by
  have short : ([] : List Byte).length ≤ 1099 := Nat.zero_le _
  rw [receive_frameBytes z short rfl, frameEvent, crcMatches_frameBytes short, payload_frameBytes]
  rfl

/-! ### A step that takes a byte -/

/-- The zones below one stand before it in the list of all. -/
theorem allZones_split : ∀ z : Fin 4, allZones = allZones.take z.val ++ z :: allZones.drop (z.val + 1) ∧
    ∀ y ∈ allZones.take z.val, y < z := by decide

/-- The first line that holds a byte gives the byte that a step takes. -/
theorem State.nextByte_eq {s : State} {z : Fin 4} {b : Byte} {rest : List Byte} (line : s.links[z].line = b :: rest)
    (first : ∀ y : Fin 4, y < z → s.links[y].line = []) : s.nextByte = some (z, b, rest) := by
  obtain ⟨parts, before⟩ := allZones_split z
  refine List.findSome?_eq_some_iff.mpr ⟨_, z, _, parts, ?_, fun y earlier => ?_⟩
  · rw [line]
  · rw [first y (before y earlier)]

theorem step_of_byte {s : State} (pending : s.pending = []) (due : s.due = none) {z : Fin 4} {b : Byte} {rest : List Byte}
    (next : s.nextByte = some (z, b, rest)) : step s = stepByte z b rest s := by
  rw [step, pending]
  show tick s = _
  rw [tick, due]
  show (match s.nextByte with
    | some (z, b, rest) => stepByte z b rest s
    | none => .next s.idle) = _
  rw [next]

section
variable {s : State} {z : Fin 4} {b : Byte} {rest : List Byte}

theorem takeByte_receiver : (s.takeByte z b rest).links[z].receiver = feed s.links[z].receiver b :=
  congrArg Link.receiver ((State.onLink_get s z z _).trans (if_pos rfl))

theorem stepByte_quiet (quiet : (receive z (feed s.links[z].receiver b)).1 = none) :
    stepByte z b rest s = .next (s.takeByte z b rest) := by
  unfold stepByte
  simp only [takeByte_receiver]
  revert quiet
  rcases receive z (feed s.links[z].receiver b) with ⟨_ | c, after⟩
  · exact fun _ => rfl
  · nofun

theorem stepByte_event {c : Instr} {t : State} (event : (receive z (feed s.links[z].receiver b)).1 = some c)
    (run : exec c (s.takeByte z b rest) = .next t) :
    stepByte z b rest s = .next (t.withReceiver z (receive z (feed s.links[z].receiver b)).2) := by
  unfold stepByte
  simp only [takeByte_receiver]
  revert event
  rcases receive z (feed s.links[z].receiver b) with ⟨_ | d, after⟩
  · nofun
  · intro event
    cases event
    simp only [run]

end

end Sys2Proof.Machine
end


section
/-! What a frame that is only a valid frame, a frame that fails a check, and a link timeout do (R103, R107, R109). -/

namespace Sys2Proof.Machine

/-! ### Valid frames and frames that fail -/

theorem exec_idle (z : Fin 4) (s : State) : exec (.idle z) s = .next (s.finish (s.validFrame z)) := rfl

/-- A link after a frame that has failed its CRC (R107). -/
def Link.crcFailed (l : Link) : Link := { l.damage with receiver := [], crcErrors := min (l.crcErrors + 1) 255 }

/-- A link after a frame that has failed its length, type or content check (R107). -/
def Link.formatFailed (l : Link) : Link := { l.damage with receiver := [], formatErrors := min (l.formatErrors + 1) 255 }

theorem exec_crcError (z : Fin 4) (s : State) :
    exec (.crcError z) s = .next (s.finish (s.onLink z Link.crcFailed)) := rfl

theorem exec_formatError (z : Fin 4) (s : State) :
    exec (.formatError z) s = .next (s.finish (s.onLink z Link.formatFailed)) := rfl

/-- A SWEEP frame that fails its content check is a format error (R102, step 5). -/
theorem exec_sweep_bad {s : State} {z : Fin 4} {number first : Half} {stride flags : Byte} {levels : List Byte}
    (bad : strideOk stride = false ∨ levelCountOk levels = false) :
    exec (.sweep z number first stride flags levels) s = .next (s.finish (s.onLink z Link.formatFailed)) := by
  show execSweep z number first stride flags levels s = _
  unfold execSweep
  refine if_neg ?_
  rw [Instr.wellFormed, Bool.and_eq_true]
  exact fun good => bad.elim (fun e => Bool.false_ne_true (e.symm.trans good.1)) fun e => Bool.false_ne_true (e.symm.trans good.2)

/-- An event that changes one link alone. -/
structure State.LinkOnly (s t : State) (z : Fin 4) : Prop where
  others : ∀ y : Fin 4, y ≠ z → t.links[y] = s.links[y]
  zones : t.zones = s.zones
  plan : s.samePlan t
  port : s.samePort t
  engine : t.engine = s.engine
  reports : t.reports = s.reports
  free : t.free = s.free
  now : t.now = s.now
  pending : t.pending = s.pending

theorem State.onLink_only (s : State) (z : Fin 4) (f : Link → Link) : s.LinkOnly (s.finish (s.onLink z f)) z where
  others := fun y hy => (s.onLink_get z y f).trans (if_neg hy)
  zones := rfl
  plan := ⟨rfl, rfl, rfl, rfl⟩
  port := rfl
  engine := rfl
  reports := rfl
  free := rfl
  now := rfl
  pending := rfl

theorem State.onLink_finish (s : State) (z : Fin 4) (f : Link → Link) :
    (s.finish (s.onLink z f)).links[z] = f s.links[z] := (s.onLink_get z z f).trans (if_pos rfl)

/-! ### The link timeout -/

theorem Freshness.timed_of {f : Freshness} (h : f = .warming ∨ f = .fresh) : f.timed = true := by
  rcases h with rfl | rfl <;> rfl

/-- The state that reaches the expiry of a link timeout. -/
def State.atTimeout (s : State) (v : Nat) : State := { s with now := max s.now (v + s.site.params.linkTimeout) }

theorem exec_linkTimeout {s : State} {z : Fin 4} {v : Nat} (timed : s.zones[z].freshness.timed = true)
    (last : s.links[z].lastValid = some v) :
    exec (.linkTimeout z) s = .next (s.finish ((s.atTimeout v).goStale z)) := by
  show execLinkTimeout z s = _
  have at' : s.timeoutAt z = some (v + s.site.params.linkTimeout) := by
    unfold State.timeoutAt
    rw [timed, last]
    rfl
  unfold execLinkTimeout
  rw [at']
  rfl

/-- An item states of a zone its freshness and the count of good frames on its link. -/
theorem State.item_congr_good {s t : State} (channels : t.plan.channels = s.plan.channels)
    (fresh : ∀ z : Fin 4, (t.zones[z]).freshness = (s.zones[z]).freshness)
    (good : ∀ z : Fin 4, (t.links[z]).good = (s.links[z]).good) (stages : t.site.stages = s.site.stages)
    (spares : t.spares = s.spares) : t.item = s.item := by
  funext q
  unfold State.item State.channelItem State.zoneItem State.stageItem Site.target State.channel
  simp only [channels, fresh, good, stages, spares]

theorem Link.abandon_good (l : Link) : l.abandon.good = l.good := by
  unfold Link.abandon
  split <;> rfl

section

variable (s : State) (z : Fin 4)

/-- The zone that goes STALE is the subject of the one mark, with its item as the event leaves it. -/
theorem State.goStale_marks (t : State) (links : t.links = (s.goStale z).links) (zones : t.zones = (s.goStale z).zones)
    (port : t.port = { (s.goStale z).port with header := t.port.header, line := t.port.line })
    (reports : t.reports = (s.goStale z).reports) :
    State.marks { s with links := t.links, zones := t.zones } t (.zone z) staleFlag := by
  let stale := s.onZone z fun zone => { zone with freshness := .stale }
  have item : State.item { s with links := t.links, zones := t.zones } = stale.item := by
    refine State.item_congr_good rfl (fun y => ?_) (fun y => ?_) rfl rfl
    · show (t.zones[y]).freshness = _
      rw [zones, State.goStale_zones, State.onZone_get]
      split <;> rfl
    · show (t.links[y]).good = (s.links[y]).good
      rw [links, State.goStale_links]
      split
      · next own => rw [own, Link.abandon_good]
      · rfl
  have same := State.mark_congr (s := stale) (t := { s with links := t.links, zones := t.zones }) rfl rfl item rfl
    (.zone z) staleFlag
  exact ⟨reports.trans same.2.symm, port.trans (by rw [same.1]; rfl)⟩

/-- What the timeout of a link does to its zone, its link and the rest (R109). -/
structure State.TimedOut (t : State) : Prop where
  marks : State.marks { s with links := t.links, zones := t.zones } t (.zone z) staleFlag
  zone : t.zones[z] = { s.zones[z] with freshness := .stale, goodSweeps := 0, map := t.zones[z].map }
  map : t.zones[z].map = sparseMap Bin.cleared Bin.restart s.zones[z].map
  link : t.links[z] = s.links[z].abandon
  others : s.otherZonesKept t z
  plan : s.samePlan t
  reports : s.reportsOnly t
  engine : t.engine = s.engine
  free : t.free = s.free
  pending : t.pending = s.pending
  now : t.now = s.now
  flagged : s.heldBack → t.flagged (.zone z) staleFlag

theorem State.goStale_timedOut (b : State) : s.TimedOut z (b.finish (s.goStale z)) := by
  obtain ⟨keeps, reports, -⟩ := s.goStale_emits z
  have zone := fun y => s.goStale_zones z y
  have link := fun y => s.goStale_links z y
  exact {
    marks := s.goStale_marks z _ rfl rfl rfl rfl
    zone := (zone z).trans (if_pos rfl)
    map := s.goStale_map z
    link := (link z).trans (if_pos rfl)
    others := fun y hy => ⟨(link y).trans (if_neg hy), (zone y).trans (if_neg hy)⟩
    plan := ⟨rfl, rfl, rfl, rfl⟩
    reports := State.reportsOnly_of keeps reports rfl
    engine := rfl
    free := rfl
    pending := rfl
    now := rfl
    flagged := fun held => (State.goStale_heldBack z held).2.1 }

end

end Sys2Proof.Machine

open Sys2Proof Sys2Proof.Machine

/-- Settles O49. -/
theorem idleErrorsAndTimeout : Obligations.IdleErrorsAndTimeout := by
  refine ⟨⟨fun b => rfl, feed_begun, fun a c b l => rfl⟩, fun z a b c d l => ?starts,
    fun z number first stride flags probeId level count levels => ?frames, fun s z b rest pending due line lower => ?step,
    fun s z => ?errors, fun s z v timed last maps => ?timeout⟩
  case starts =>
    dsimp only
    refine ⟨fun outside => receive_bad z ((badStart_untyped a b).mpr outside), fun low top => ?_, fun low top refused => ?_,
      fun allowed more => ?_, fun allowed whole => ?_⟩
    · refine receive_more z (Bool.eq_false_iff.mpr fun bad => ?_) (complete_untyped a b)
      have outside : 256 * a.toNat + b.toNat = 0 ∨ 1100 < 256 * a.toNat + b.toNat := (badStart_untyped a b).mp bad
      omega
    · exact receive_bad z ((badStart_typed a b c []).mpr
        (.inr (Bool.eq_false_iff.mpr fun ok => refused ((lengthOk_iff c _).mp ok))))
    · exact receive_more z (badStart_allowed a b c l ((lengthOk_iff c _).mpr allowed)) (Bool.eq_false_iff.mpr fun whole =>
        more.ne ((complete_typed a b c l).mp whole))
    · have ends := receive_complete z (badStart_allowed a b c l ((lengthOk_iff c _).mpr allowed))
        ((complete_typed a b c l).mpr whole)
      have fits := crcMatches_iff a b c l whole
      exact ⟨fun differs => ends.trans (by rw [frameEvent_failed z (Bool.eq_false_iff.mpr fun e => differs (fits.mp e))]),
        fun same => ⟨_, frameEvent_matched z (fits.mpr same), ends⟩⟩
  case frames =>
    refine ⟨fun some few => ⟨frameBytes_fed _ _, fun equal => ?_, fun differs => ?_⟩, frameBytes_fed _ _,
      receive_answer z probeId level, frameBytes_fed _ _, receive_idle z⟩
    · exact (receive_sweep z number first stride flags count levels some few).trans (by rw [if_pos equal.symm])
    · exact (receive_sweep z number first stride flags count levels some few).trans (by rw [if_neg (Ne.symm differs)])
  case step =>
    have takes := step_of_byte pending due (State.nextByte_eq line lower)
    exact ⟨fun quiet => takes.trans (stepByte_quiet quiet), fun c t event run => takes.trans (stepByte_event event run)⟩
  case errors =>
    have fails : ∀ f : Link → Link, s.LinkOnly (s.finish (s.onLink z f)) z := s.onLink_only z
    have format : ∃ t, t = s.finish (s.onLink z Link.formatFailed) ∧ s.LinkOnly t z ∧
        t.links[z] = (s.links[z]).formatFailed := ⟨_, rfl, fails _, s.onLink_finish z _⟩
    obtain ⟨u, hu, ⟨others, zones, plan, port, engine, reports, free, now, pending⟩, link⟩ := format
    refine ⟨⟨_, exec_idle z s, ?_, ?_, s.validFrame_others z, ⟨rfl, rfl, rfl, rfl⟩, rfl, rfl, rfl, rfl, rfl, rfl⟩, ?_,
      ⟨u, hu ▸ exec_formatError z s, ⟨others, zones, plan, port, engine, reports, free, now, pending⟩, link⟩,
      fun _ _ _ _ _ bad =>
        ⟨u, hu ▸ exec_sweep_bad bad, ⟨others, zones, plan, port, engine, reports, free, now, pending⟩, link⟩⟩
    · exact State.frameTaken_of (congrArg Link.lastValid (s.validFrame_link z)) (congrArg Link.good (s.validFrame_link z))
        (congrArg Link.receiver (s.validFrame_link z)) rfl
    · exact s.validFrame_link z
    · obtain ⟨others, zones, plan, port, engine, reports, free, now, pending⟩ := fails Link.crcFailed
      exact ⟨_, exec_crcError z s, ⟨others, zones, plan, port, engine, reports, free, now, pending⟩, s.onLink_finish z _⟩
  case timeout =>
    have run := exec_linkTimeout (Freshness.timed_of timed) last
    obtain ⟨marks, zone, map, link, others, plan, reports, engine, free, pending, now, flagged⟩ :=
      (s.atTimeout v).goStale_timedOut z s
    generalize s.finish ((s.atTimeout v).goStale z) = t at *
    refine ⟨t, run, now, by rw [now]; exact marks, (congrArg Zone.freshness zone :), (congrArg Zone.goodSweeps zone :),
      (congrArg Zone.settings zone :), (congrArg Zone.segments zone :), (congrArg Zone.referencePending zone :), fun n => ?_, fun none => ?_, fun some => ?_, others,
      plan, reports, engine, free, pending, flagged⟩
    · rw [map]
      exact sparseMap_get rfl (maps z) n
    · exact link.trans (Link.abandon_none none)
    · exact link.trans (Link.abandon_some some)

end


section
/-! CANCEL (R142): its target, found by the head cell, and the two deliveries of its event. -/

namespace Sys2Proof.Machine

/-! ### Handed orders with cells of their own (R146) -/

theorem Handed.head_mem (o : Handed) : o.head ∈ o.cells := List.mem_cons_self ..

/-- Orders that share no cell. -/
def Handed.apart (p q : Handed) : Prop := List.Disjoint p.cells q.cells

theorem Handed.apart_symm : Std.Symm Handed.apart := ⟨fun _ _ d => List.Disjoint.symm d⟩

namespace State.ordersOk

variable {s : State} (h : s.ordersOk)
include h

theorem queued {p : Handed} (hp : p ∈ s.waiting) {c : Nat} (hc : c ∈ p.cells) : s.port.cell c = some .queued := h.2.2.1 p hp c hc

theorem active {p : Handed} (hp : p ∈ s.working) {c : Nat} (hc : c ∈ p.cells) : s.port.cell c = some .active :=
  h.2.2.2.1 p hp c hc

/-- No cell of a waiting order belongs to one in progress. -/
theorem apart {p q : Handed} (hp : p ∈ s.waiting) (hq : q ∈ s.working) {c : Nat} (hc : c ∈ p.cells) : c ∉ q.cells :=
  fun k => by
    have one := (h.queued hp hc).symm.trans (h.active hq k)
    exact absurd (Option.some.inj one) (by decide)

theorem waiting_pairwise : s.waiting.Pairwise Handed.apart := by
  have all := h.1
  rw [List.flatMap_append] at all
  exact (List.nodup_flatMap.1 (List.nodup_append.1 all).1).2

theorem working_pairwise : s.working.Pairwise Handed.apart := by
  have all := h.1
  rw [List.flatMap_append] at all
  exact (List.nodup_flatMap.1 (List.nodup_append.1 all).2.1).2

/-- A head cell tells the waiting orders apart. -/
theorem waiting_head {p q : Handed} (hp : p ∈ s.waiting) (hq : q ∈ s.waiting) (head : p.head = q.head) : p = q := by
  by_contra other
  have := Handed.apart_symm
  exact h.waiting_pairwise.forall hp hq other p.head_mem (head ▸ q.head_mem)

/-- Two orders with different heads share no cell. -/
theorem cells_disjoint {p q : Handed} (hp : p ∈ s.waiting) (hq : q ∈ s.waiting ++ s.working) (head : q.head ≠ p.head)
    {c : Nat} (hc : c ∈ p.cells) : c ∉ q.cells := by
  rcases List.mem_append.1 hq with w | w
  · have := Handed.apart_symm
    exact fun k => h.waiting_pairwise.forall hp w (fun e => head (e ▸ rfl)) hc k
  · exact h.apart hp w hc

/-- The probes that wait hold cells of their own. -/
theorem slots_pairwise : (allZones.filterMap fun z => s.links[z].slot.map ProbeWork.order).Pairwise
    Handed.apart := (List.pairwise_append.1 h.working_pairwise).2.1

/-- The order in the routine context shares no cell with a probe that waits. -/
theorem context_slot {p q : Handed} (hp : s.engine.routineContext.work.bind Work.order = some p)
    (hq : q ∈ allZones.filterMap fun z => s.links[z].slot.map ProbeWork.order) {c : Nat} (hc : c ∈ p.cells) : c ∉ q.cells :=
  fun k => (List.pairwise_append.1 h.working_pairwise).2.2 p (Option.mem_toList.2 hp) q hq hc k

/-- A head cell tells the waiting probes apart. -/
theorem slot_head {y z : Fin 4} {v w : ProbeWork} (hy : s.links[y].slot = some v) (hz : s.links[z].slot = some w)
    (head : v.order.head = w.order.head) : y = z := by
  by_contra other
  have := (List.pairwise_filterMap.1 h.slots_pairwise)
  have symm : Std.Symm fun a a' : Fin 4 => ∀ b, s.links[a].slot.map ProbeWork.order = some b →
      ∀ b', s.links[a'].slot.map ProbeWork.order = some b' → b.apart b' :=
    ⟨fun a a' r b hb b' hb' => List.Disjoint.symm (r b' hb' b hb)⟩
  exact this.forall (mem_allZones y) (mem_allZones z) other _ (congrArg (Option.map ProbeWork.order) hy) _
    (congrArg (Option.map ProbeWork.order) hz) v.order.head_mem (head ▸ w.order.head_mem)

end State.ordersOk

/-! ### The target of a CANCEL -/

theorem queuedOrder_none {n : Nat} {l : List Entry} (h : ∀ p, Entry.order p ∈ l → p.head ≠ n) : queuedOrder n l = none := by
  induction l with
  | nil => rfl
  | cons e l ih =>
    have rest := ih fun p m => h p (List.mem_cons_of_mem _ m)
    cases e with
    | order o => exact (if_neg (h o (List.mem_cons_self ..))).trans rest
    | autoMove c z => exact rest
    | rebuild => exact rest
    | upkeep b => exact rest

/-- The order on a list with a head cell that no other order on it has. -/
theorem queuedOrder_some {n : Nat} {p : Handed} {l : List Entry} (mem : Entry.order p ∈ l) (head : p.head = n)
    (only : ∀ q, Entry.order q ∈ l → q.head = n → q = p) : queuedOrder n l = some p := by
  induction l with
  | nil => cases mem
  | cons e l ih =>
    have rest : Entry.order p ∈ l → queuedOrder n l = some p := fun m => ih m fun q k => only q (List.mem_cons_of_mem _ k)
    cases e with
    | order o =>
      by_cases own : o.head = n
      · exact (if_pos own).trans (congrArg some (only o (List.mem_cons_self ..) own))
      · refine (if_neg own).trans (rest ((List.mem_cons.1 mem).resolve_left fun e => own ?_))
        cases e
        exact head
    | autoMove c z => exact rest ((List.mem_cons.1 mem).resolve_left nofun)
    | rebuild => exact rest ((List.mem_cons.1 mem).resolve_left nofun)
    | upkeep b => exact rest ((List.mem_cons.1 mem).resolve_left nofun)

theorem State.mem_waiting {s : State} {p : Handed} :
    p ∈ s.waiting ↔ Entry.order p ∈ s.engine.urgent ∨ Entry.order p ∈ s.engine.routine := by
  unfold State.waiting
  rw [List.mem_filterMap, ← List.mem_append]
  constructor
  · rintro ⟨e, mem, he⟩
    cases e <;> cases he
    exact mem
  · exact fun mem => ⟨_, mem, rfl⟩

/-- The orders that wait once one is taken up waited before. -/
theorem State.waiting_of_begin {s : State} {u : Bool} {o p : Handed} (h : p ∈ (s.begin u o).waiting) : p ∈ s.waiting := by
  rw [State.mem_waiting] at h ⊢
  cases u
  · exact h.imp id fun m => List.mem_of_mem_tail m
  · exact h.imp (fun m => List.mem_of_mem_tail m) id

/-- Once an order is taken up the others wait on. -/
theorem State.granted_waiting_begin {s : State} {code : OrderCode} {u : Bool} {o p : Handed}
    (h : s.granted code = some (u, o)) (hp : p ∈ s.waiting) (other : p ≠ o) : p ∈ (s.begin u o).waiting := by
  rw [State.mem_waiting] at hp ⊢
  refine hp.imp (fun m => ?_) fun m => (State.granted_waits h (by simpa using other)).2 m
  obtain ⟨-, -, kind, -, -⟩ := State.granted_waiting h
  rcases kind with ⟨rfl, head⟩ | ⟨rfl, -⟩
  · obtain ⟨l, e⟩ := List.head?_eq_some_iff.1 head
    show Entry.order p ∈ s.engine.urgent.tail
    rw [e, List.mem_cons] at m
    rw [e, List.tail_cons]
    exact m.resolve_left (by simpa using other)
  · exact m

section

variable {s : State} {p : Handed} {n : Nat}

theorem Engine.queued_none (h : ∀ q ∈ s.waiting, q.head ≠ n) : s.engine.queued n = none := by
  unfold Engine.queued
  rw [queuedOrder_none fun q m => h q (State.mem_waiting.2 (.inl m)),
    queuedOrder_none fun q m => h q (State.mem_waiting.2 (.inr m))]
  rfl

theorem Engine.queued_some (hp : p ∈ s.waiting) (head : p.head = n) (only : ∀ q ∈ s.waiting, q.head = n → q = p) :
    s.engine.queued n = some p := by
  unfold Engine.queued
  by_cases urgent : Entry.order p ∈ s.engine.urgent
  · rw [queuedOrder_some urgent head fun q m => only q (State.mem_waiting.2 (.inl m))]
    rfl
  · rw [queuedOrder_none fun q m k => urgent (only q (State.mem_waiting.2 (.inl m)) k ▸ m),
      queuedOrder_some ((State.mem_waiting.1 hp).resolve_left urgent) head fun q m => only q (State.mem_waiting.2 (.inr m))]
    rfl

theorem Engine.suspendedWork_none (h : ∀ w, s.engine.routineContext = .suspended w → ∀ q, w.order = some q → q.head ≠ n) :
    s.engine.suspendedWork n = none := by
  unfold Engine.suspendedWork
  split
  · next w context =>
    refine if_neg fun e => ?_
    obtain ⟨q, order, head⟩ := Option.map_eq_some_iff.1 e
    exact h w context q order head
  · rfl

theorem Engine.suspendedWork_some {w : Work} (context : s.engine.routineContext = .suspended w) (order : w.order = some p)
    (head : p.head = n) : s.engine.suspendedWork n = some w := by
  unfold Engine.suspendedWork
  rw [context]
  exact if_pos (by rw [order, Option.map_some, head])

theorem State.waitingProbe_none (h : ∀ (z : Fin 4) w, s.links[z].slot = some w → w.order.head ≠ n) :
    s.waitingProbe n = none := by
  unfold State.waitingProbe
  refine List.findSome?_eq_none_iff.2 fun z _ => ?_
  split
  · next w slot => exact if_neg (h z w slot)
  · rfl

theorem State.waitingProbe_some {z : Fin 4} {w : ProbeWork} (slot : s.links[z].slot = some w) (head : w.order.head = n)
    (only : ∀ (y : Fin 4) v, s.links[y].slot = some v → v.order.head = n → y = z) : s.waitingProbe n = some (z, w) := by
  obtain ⟨parts, before⟩ := allZones_split z
  refine List.findSome?_eq_some_iff.mpr ⟨_, z, _, parts, ?_, fun y earlier => ?_⟩
  · rw [slot]
    exact if_pos head
  · split
    · next v other => exact if_neg fun e => (before y earlier).ne (only y v other e)
    · rfl

end

end Sys2Proof.Machine
end


section
/-! The two deliveries of a CANCEL: its target's, and its own (R142, R151, R152). -/

namespace Sys2Proof.Machine

theorem Handed.written_congr {p : Handed} {q r : Port} {outcome : OrderOutcome} {reason : Reason} {argument : Word}
    {payloads : List (List Byte)} (h : p.written q outcome reason argument payloads)
    (hl : ∀ l ∈ payloads, l.length ≤ 240) (cells : ∀ c ∈ p.cells, r.cell c = q.cell c)
    (bytes : ∀ a, a / 256 ∈ p.cells → r.memory.read a = q.memory.read a) :
    p.written r outcome reason argument payloads := by
  obtain ⟨each, head⟩ := h
  have field : ∀ c ∈ p.cells, ∀ i n, i + n ≤ 256 → r.headField c i n = q.headField c i n := fun c hc i n room =>
    Port.headField_congr room fun a ha => bytes a (ha ▸ hc)
  refine ⟨fun i c hi => ?_, (field _ p.head_mem 12 4 (by decide)).trans head⟩
  have hc := List.mem_of_getElem? hi
  obtain ⟨cell, outcome', reason', count, result⟩ := each i c hi
  refine ⟨(cells c hc).trans cell, (field c hc 0 1 (by decide)).trans outcome', (field c hc 1 1 (by decide)).trans reason',
    (field c hc 2 2 (by decide)).trans count, (Memory.readAll_eq _ _ fun a low top => bytes a ?_).trans result⟩
  have short : (payloads.getD i []).length ≤ 240 := by
    rw [List.getD_eq_getElem?_getD]
    cases e : payloads[i]? with
    | none => exact Nat.zero_le _
    | some l => exact hl l (List.mem_of_getElem? e)
  have own : a / 256 = c := by
    unfold payloadOffset at low top
    omega
  exact own ▸ hc

/-- A CANCEL whose event ends in `t` delivers its target `p` CANCELLED, and then ends DONE itself. -/
def State.cancelled (s t : State) (o p : Handed) (argument : Word) (payloads : List (List Byte)) : Prop :=
  exec .cancel s = .next t.arbitrate ∧ p.written t.port .cancelled .none argument payloads ∧
    (∃ q : State, p.delivered q.port .cancelled .none argument payloads ∧
      s.port.announces q.port p.announcement ∧ q.reports = s.reports ∧
      (∀ c, c ∉ o.cells → c ∉ p.cells → q.port.cell c = s.port.cell c) ∧
      (∀ a, ¬ p.stored payloads a → q.port.memory.read a = s.port.memory.read a) ∧
      q.port.raw ||| outBit = (s.portFor t).raw ||| outBit ∧ q.aloneWith t o .done [[]]) ∧
    (o.quiet = true → o.freed t.port) ∧ (o.quiet = false → o.delivered t.port .done .none 0 [[]]) ∧
    (∀ c, c ∉ o.cells → c ∉ p.cells → s.port.cell c ≠ some .free → t.port.cell c = s.port.cell c) ∧
    (∀ a, a / 256 ∉ o.cells → a / 256 ∉ p.cells → s.port.cell (a / 256) ≠ some .free →
      t.port.memory.read a = s.port.memory.read a) ∧
    s.sameSwitches t ∧ t.site = s.site ∧ t.zones = s.zones

/-- The port of a state that a CANCEL has taken up and whose target is then delivered. -/
def State.cancelPort (s x : State) (o p : Handed) (argument : Word) (payloads : List (List Byte)) : Port :=
  ((s.portFor x).setCells o.cells .active).deliver p.head p.rest p.urgent .cancelled .none argument payloads

section

variable {s x : State} {o p : Handed} {argument : Word} {payloads : List (List Byte)}

theorem State.cancelPort_keeps : s.port.Keeps (s.cancelPort x o p argument payloads) :=
  ((s.portFor_keeps x).1.trans (Port.keeps_setCells _ _ _)).trans (Port.keeps_deliver _ _ _ _ _ _ _ _)

theorem State.cancelPort_raised {b : BitVec 5} (h : (s.portFor x).raw &&& b = b) :
    (s.cancelPort x o p argument payloads).raw &&& b = b :=
  Port.deliver_raises _ _ _ _ _ _ _ _ b ((congrArg (· &&& b) (Port.setCells_raw _ _ _)).trans h)

theorem State.portFor_cell (s x : State) (c : Nat) : (s.portFor x).cell c = s.port.cell c := by
  rcases s.portFor_cases x with e | e <;> rw [e]
  rfl

theorem State.portFor_memory (s x : State) : (s.portFor x).memory = s.port.memory := by
  rcases s.portFor_cases x with e | e <;> rw [e]
  rfl

theorem State.cancelPort_cell {c : Nat} (own : c ∉ o.cells) (target : c ∉ p.cells) :
    (s.cancelPort x o p argument payloads).cell c = s.port.cell c :=
  (Port.deliver_cell _ _ _ _ _ _ _ _ c).trans ((if_neg target).trans ((Port.cell_setCells _ _ _ _).trans
    ((if_neg own).trans (s.portFor_cell x c))))

theorem State.cancelPort_own {c : Nat} (own : c ∈ o.cells) (pool : 9 ≤ c ∧ c ≤ 511) (target : c ∉ p.cells) :
    (s.cancelPort x o p argument payloads).cell c = some .active := by
  refine (Port.deliver_cell _ _ _ _ _ _ _ _ c).trans ((if_neg target).trans ((Port.cell_setCells _ _ _ _).trans
    ((if_pos own).trans ?_)))
  obtain ⟨i, hi⟩ := Option.isSome_iff_exists.1 ((poolIndex_isSome c).2 pool)
  unfold Port.cell
  rw [hi]
  rfl

theorem State.portFor_announces {q : Port} {a : Announcement}
    (h : ((s.portFor x).setCells o.cells .active).announces q a) : s.port.announces q a := by
  have same : ((s.portFor x).setCells o.cells .active).sameOut s.port ∧
      s.port.raw &&& outBit = ((s.portFor x).setCells o.cells .active).raw &&& outBit := by
    unfold Port.sameOut
    rw [Port.setCells_outList, Port.setCells_outTotal, Port.setCells_backlog, Port.setCells_raw]
    rcases s.portFor_cases x with e | e <;> rw [e]
    · exact ⟨⟨rfl, rfl, rfl⟩, rfl⟩
    · refine ⟨⟨rfl, rfl, rfl⟩, ?_⟩
      show s.port.raw &&& outBit = (s.port.raw ||| censusBit) &&& outBit
      generalize s.port.raw = r
      revert r
      decide
  exact Port.announces_congr same.1 same.2 ⟨rfl, rfl, rfl⟩ rfl h

variable {u : Bool}

/-- A CANCEL whose target has been delivered. -/
theorem State.takes.cancels (h : s.takes .cancel u o) (hp : p ∈ s.waiting ++ s.working) (other : p.head ≠ o.head)
    (proc : cancelOrder o (s.begin u o) = x.done o 0 []) (port : x.port = s.cancelPort x o p argument payloads)
    (reports : x.reports = s.reports) (now : x.now = s.now) (pending : x.pending = s.pending) (site : x.site = s.site)
    (zones : x.zones = s.zones) (hl : ∀ l ∈ payloads, l.length ≤ 240) :
    ∃ t, s.cancelled t o p argument payloads ∧ x.Concluded t ∧
      ∀ bit : BitVec 5, (s.portFor x).raw &&& bit = bit → t.port.raw &&& bit = bit := by
  obtain ⟨granted, orders, mem⟩ := h
  have waits := (State.granted_waiting granted).1
  have ok := orders.chain (List.mem_append_left _ waits)
  have target := orders.chain hp
  have apart : ∀ c ∈ o.cells, c ∉ p.cells := fun c hc => orders.cells_disjoint waits hp other hc
  have keeps : s.port.Keeps x.port := port ▸ State.cancelPort_keeps
  have memory : x.memoryOk := State.memoryOk_keeps keeps mem
  have own : ∀ c ∈ o.cells, x.port.cell c = some .active := fun c hc => by
    rw [port]
    exact State.cancelPort_own hc (ok.2.2 c hc) (apart c hc)
  have short : ∀ l ∈ [([] : List Byte)], l.length ≤ 240 := fun l m => by rw [List.mem_singleton.1 m]; exact Nat.zero_le _
  have reached := s.concluded x o .done .none 0 [[]]
  have after := (x.holds_conclude o .done .none 0 [[]]).port
  have switches : x.sameSwitches (s.finish (x.conclude o .done .none 0 [[]])) := by
    obtain ⟨reset, run, auto, enables, data, -⟩ := after
    exact ⟨run, auto, enables, reset, data, reached.now, reached.pending⟩
  have ends : x.ends (s.finish (x.conclude o .done .none 0 [[]])) o .done .none 0 [[]] :=
    State.close_ends (b := x) (x := x) .done .none 0 [[]] ok memory (fun _ _ => rfl)
      (fun c hc => by rw [own c hc]; nofun) rfl (.refl _) (.refl _) (.refl _) short rfl rfl rfl rfl rfl rfl switches
  have alone : x.aloneWith (s.finish (x.conclude o .done .none 0 [[]])) o .done [[]] := by
    refine State.close_alone (x := x) .done .none 0 [[]] ok memory (Port.setCells_same _ _ _ own).symm rfl ?_ ?_ rfl rfl short
    · unfold State.conclude State.close
      split <;> rfl
    · unfold State.conclude State.close
      split <;> rfl
  have run : exec .cancel s = .next (s.finish (x.conclude o .done .none 0 [[]])).arbitrate :=
    State.takes.run ⟨granted, orders, mem⟩ proc
  have raised : ∀ bit : BitVec 5, (s.portFor x).raw &&& bit = bit →
      (s.finish (x.conclude o .done .none 0 [[]])).port.raw &&& bit = bit := fun bit m =>
    State.conclude_raises (port ▸ State.cancelPort_raised m) ..
  generalize s.finish (x.conclude o .done .none 0 [[]]) = t at *
  have base : ((s.portFor x).setCells o.cells .active).memory.wf = true := by
    rw [Port.setCells_memory, s.portFor_memory]
    exact mem.1
  have list : sparseOk OutSlot.zero ((s.portFor x).setCells o.cells .active).outList = true :=
    ((s.portFor_keeps x).1.trans (Port.keeps_setCells _ _ _)).out mem.2.1
  have delivered : p.delivered x.port .cancelled .none argument payloads := port ▸ p.deliver_delivered
    ((s.portFor x).setCells o.cells .active) .cancelled .none argument payloads target base list
    (((s.portFor_keeps x).1.trans (Port.keeps_setCells _ _ _)).held mem.2.2) hl
  have stands : ∀ c ∈ p.cells, x.port.cell c ≠ some .free := fun c hc => by
    obtain ⟨i, hi⟩ := List.getElem?_of_mem hc
    rw [(delivered.1.1 i c hi).1]
    nofun
  have untouched : ∀ a, a / 256 ∉ o.cells → ¬ o.touched .done [[]] a := fun a ha k => by
    unfold Handed.touched at k
    split at k
    · exact ha k
    · exact ha (Handed.stored_mem k)
  obtain ⟨ended, bytes, cells, -, -⟩ := ends
  refine ⟨t, ⟨run, ?written, ⟨x, delivered, ?announced, reports, ?cells, ?bytes, ?raw, alone⟩, fun quiet => ?freed,
    fun loud => ?delivered, fun c hc hp' held => ?keptCells, fun a ha hp' held => ?keptBytes, ?switches,
    reached.site.trans site, reached.zones.trans zones⟩, reached, raised⟩
  case written =>
    exact Handed.written_congr delivered.1 hl (fun c hc => cells c (fun k => apart c k hc) (stands c hc))
      fun a ha => bytes a (untouched a fun k => apart _ k ha) (stands _ ha)
  case announced =>
    refine State.portFor_announces (x := x) (o := o) ?_
    rw [port]
    exact p.deliver_announces _ .cancelled .none argument payloads list
  case cells => exact fun c hc hp' => port ▸ State.cancelPort_cell hc hp'
  case bytes =>
    intro a ha
    rw [port]
    refine (p.read_deliver_outside _ _ _ _ _ target.1 base hl a ha).trans ?_
    rw [Port.setCells_memory, s.portFor_memory]
  case raw =>
    rw [port, State.portFor_congr (s := s) reached.census]
    refine (Port.deliver_raw _ _ _ _ _ _ _ _).trans ?_
    rw [Port.setCells_raw]
  case freed => exact (if_pos (show o.silent .done = true by rw [Handed.silent, quiet]; rfl)).mp ended
  case delivered => exact (if_neg (ne_true_of_eq_false (Handed.silent_loud loud .done))).mp ended
  case keptCells =>
    have same : x.port.cell c = s.port.cell c := port ▸ State.cancelPort_cell hc hp'
    exact (cells c hc (same ▸ held)).trans same
  case keptBytes =>
    have same : x.port.cell (a / 256) = s.port.cell (a / 256) := port ▸ State.cancelPort_cell ha hp'
    refine (bytes a (untouched a ha) (same ▸ held)).trans ?_
    rw [port]
    refine (p.read_deliver_outside _ _ _ _ _ target.1 base hl a fun k => hp' (Handed.stored_mem k)).trans ?_
    rw [Port.setCells_memory, s.portFor_memory]
  case switches =>
    obtain ⟨reset, run', auto, enables, data, -⟩ := keeps
    obtain ⟨run2, auto2, enables2, reset2, data2, now2, pending2⟩ := switches
    exact ⟨run2.trans run', auto2.trans auto, enables2.trans enables, reset2.trans reset, data2.trans data, now2.trans now,
      pending2.trans pending⟩

end

end Sys2Proof.Machine
end


section
/-! CANCEL (R141, R142): what becomes of each kind of target. -/

namespace Sys2Proof.Machine

/-! ### The target's end -/

/-- An outcome other than DONE is delivered. -/
theorem State.close_cancelled (x : State) (p : Handed) (argument : Word) (payloads : List (List Byte)) :
    x.close p .cancelled .none argument payloads =
      { x with port := x.port.deliver p.head p.rest p.urgent .cancelled .none argument payloads } := by
  unfold State.close
  exact if_neg (by simp)

theorem State.portFor_same {s x : State} (h : x.census.state = s.census.state) : s.portFor x = s.port := by
  unfold State.portFor
  exact if_neg fun k => k.1 (h.symm.trans k.2)

theorem State.clearTentative_censusState (s : State) (e : StackEntry) :
    (s.clearTentative e).census.state = s.census.state := by
  unfold State.clearTentative
  split
  · exact Census.removed_state _ _
  · rfl

theorem State.clearTentatives_censusState (l : List StackEntry) (s : State) :
    (l.foldl State.clearTentative s).census.state = s.census.state := by
  induction l generalizing s with
  | nil => rfl
  | cons e l ih => exact (ih _).trans (s.clearTentative_censusState e)

theorem State.alike.clearTentatives {s t : State} (h : s.alike t) (l : List StackEntry) :
    (l.foldl State.clearTentative s).alike (l.foldl State.clearTentative t) := by
  induction l generalizing s t with
  | nil => exact h
  | cons e l ih =>
    refine ih ?_
    have channel : t.channel e.item.channel = s.channel e.item.channel :=
      congrArg (fun p : Plan => p.channels[e.item.channel]) h.plan
    unfold State.clearTentative
    rw [channel]
    split
    · exact h.removeStep ..
    · exact h

/-! ### CANCEL -/

section

variable {s x : State} {u : Bool} {o p : Handed} {n : Nat}

theorem cancelOrder_bad {y : State} (bad : y.param o 0 2 < 9 ∨ 511 < y.param o 0 2 ∨ y.param o 0 2 = o.head) :
    cancelOrder o y = y.refuse o .badArgument := by
  unfold cancelOrder
  refine if_pos ?_
  rcases bad with low | high | own
  · exact .inl (Option.isNone_iff_eq_none.2 (Option.not_isSome_iff_eq_none.1 fun k => by
      have := (poolIndex_isSome _).1 k
      omega))
  · exact .inl (Option.isNone_iff_eq_none.2 (Option.not_isSome_iff_eq_none.1 fun k => by
      have := (poolIndex_isSome _).1 k
      omega))
  · exact .inr own

theorem cancelOrder_names {y : State} (pool : 9 ≤ y.param o 0 2 ∧ y.param o 0 2 ≤ 511) (other : y.param o 0 2 ≠ o.head) :
    cancelOrder o y = match y.cancelTarget (y.param o 0 2) with
      | some t => t.done o 0 []
      | none => y.refuse o .notFound := by
  unfold cancelOrder
  refine (if_neg fun k => k.elim (fun none => ?_) other).trans rfl
  have := (poolIndex_isSome _).2 pool
  rw [Option.isNone_iff_eq_none.1 none] at this
  cases this

theorem cancelOrder_target (h : s.takes .cancel u o) (hp : p ∈ s.waiting ++ s.working) (head : p.head = s.param o 0 2)
    (other : s.param o 0 2 ≠ o.head) (target : (s.begin u o).cancelTarget (s.param o 0 2) = some x) :
    cancelOrder o (s.begin u o) = x.done o 0 [] := by
  have pool := (h.2.1.chain hp).2.2 p.head p.head_mem
  rw [cancelOrder_names (by rw [State.begin_param, ← head]; exact pool) (by rw [State.begin_param]; exact other),
    State.begin_param, target]

/-- A take-up of an urgent order leaves a suspended context, and no other take-up finds one. -/
theorem State.takes.urgent_of_suspended {code : OrderCode} {w : Work} (h : s.takes code u o)
    (context : s.engine.routineContext = .suspended w) : u = true := by
  obtain ⟨-, -, kind, -, -⟩ := State.granted_waiting h.1
  rcases kind with ⟨urgent, -⟩ | ⟨-, -, -, idle⟩
  · exact urgent
  · exact absurd (idle.symm.trans context) nofun

theorem State.mem_working_of_context {w : Work} (context : s.engine.routineContext.work = some w) (order : w.order = some p) :
    p ∈ s.working :=
  List.mem_append_left _ (Option.mem_toList.2 (by rw [context]; exact order))

/-- No order is headed by the cell. -/
theorem State.cancelTarget_none (clear : ∀ q ∈ s.waiting ++ s.working, q.head ≠ n) :
    (s.begin u o).cancelTarget n = none := by
  have queued : (s.begin u o).engine.queued n = none :=
    Engine.queued_none fun q hq => clear q (List.mem_append_left _ (State.waiting_of_begin hq))
  have suspended : (s.begin u o).engine.suspendedWork n = none := Engine.suspendedWork_none fun w context q order => by
    refine clear q (List.mem_append_right _ (State.mem_working_of_context (w := w) ?_ order))
    cases u
    · exact absurd context nofun
    · exact congrArg RoutineContext.work context
  have probe : (s.begin u o).waitingProbe n = none := State.waitingProbe_none fun z w slot =>
    clear _ (List.mem_append_right _ (State.mem_working_of_slot slot))
  unfold State.cancelTarget
  rw [queued, suspended, probe]

theorem State.cancelTarget_queued (h : s.takes .cancel u o) (hp : p ∈ s.waiting) (head : p.head = n) (other : n ≠ o.head) :
    (s.begin u o).cancelTarget n =
      some (State.close { s.begin u o with engine := (s.begin u o).engine.remove n } p .cancelled .none 0 []) := by
  have queued : (s.begin u o).engine.queued n = some p :=
    Engine.queued_some (State.granted_waiting_begin h.1 hp fun e => other (e ▸ head.symm)) head
      fun q hq k => h.2.1.waiting_head (State.waiting_of_begin hq) hp (k.trans head.symm)
  unfold State.cancelTarget
  rw [queued]

theorem State.queued_of_working (h : s.ordersOk) (hp : p ∈ s.working) (head : p.head = n) :
    (s.begin u o).engine.queued n = none :=
  Engine.queued_none fun q hq k => h.apart (State.waiting_of_begin hq) hp q.head_mem (by rw [k, ← head]; exact p.head_mem)

theorem State.cancelTarget_suspended (h : s.takes .cancel u o) {w : Work} (context : s.engine.routineContext = .suspended w)
    (order : w.order = some p) (head : p.head = n) :
    (s.begin u o).cancelTarget n = some ((s.begin u o).cancelWork w).idleRoutine := by
  have urgent := h.urgent_of_suspended context
  subst urgent
  have queued := State.queued_of_working (u := true) (o := o) h.2.1
    (State.mem_working_of_context (congrArg RoutineContext.work context) order) head
  have suspended : (s.begin true o).engine.suspendedWork n = some w :=
    Engine.suspendedWork_some (s := s.begin true o) context order head
  unfold State.cancelTarget
  rw [queued, suspended]

theorem State.cancelTarget_probe (h : s.takes .cancel u o) {z : Fin 4} {w : ProbeWork} (slot : s.links[z].slot = some w)
    (head : w.order.head = n) :
    (s.begin u o).cancelTarget n = some ((s.begin u o).endProbe z w .cancelled .none none) := by
  have queued := State.queued_of_working (u := u) (o := o) h.2.1 (State.mem_working_of_slot slot) head
  have suspended : (s.begin u o).engine.suspendedWork n = none := Engine.suspendedWork_none fun v context q order => by
    intro k
    have own : s.engine.routineContext.work.bind Work.order = some q := by
      cases u
      · exact absurd context nofun
      · rw [show s.engine.routineContext = .suspended v from context]
        exact order
    refine h.2.1.context_slot own (List.mem_filterMap.2 ⟨z, mem_allZones z, congrArg (Option.map ProbeWork.order) slot⟩) q.head_mem ?_
    rw [k, ← head]
    exact w.order.head_mem
  have probe : (s.begin u o).waitingProbe n = some (z, w) :=
    State.waitingProbe_some (s := s.begin u o) slot head fun y v hy k => h.2.1.slot_head hy slot (k.trans head.symm)
  unfold State.cancelTarget
  rw [queued, suspended, probe]

end

theorem Engine.release_remove (e : Engine) (n : Nat) : (e.remove n).release = e.release.remove n := by
  unfold Engine.release Engine.remove
  cases e.urgentContext <;> rfl

end Sys2Proof.Machine
end


section
/-! What a CANCEL leaves behind for each kind of target (R142). -/

namespace Sys2Proof.Machine

variable {s : State} {u : Bool} {o p : Handed}

/-- The engine after a CANCEL whose target was suspended work: the context is IDLE, and entries may have been queued. -/
theorem Engine.release_stopped (e : Engine) (l : List Entry) :
    Engine.release { e.begin true with routine := (e.begin true).routine ++ l, routineContext := .idle } =
      { e.after true with routine := (e.after true).routine ++ l, routineContext := .idle } := rfl

/-- Where the census state stays, no notice comes before the delivery of the target. -/
theorem State.cancelPort_same {x : State} {argument : Word} {payloads : List (List Byte)}
    (same : x.census.state = s.census.state) : s.cancelPort x o p argument payloads =
      (s.port.setCells o.cells .active).deliver p.head p.rest p.urgent .cancelled .none argument payloads := by
  rw [State.cancelPort, State.portFor_same same]

theorem State.portFor_raised {x : State} (fresh : s.census.state ≠ .stale) (stale : x.census.state = .stale) :
    s.portFor x = s.port.raise censusBit := if_pos ⟨fresh, stale⟩

theorem State.cancelled_site {t : State} {argument : Word} {payloads : List (List Byte)}
    (h : s.cancelled t o p argument payloads) : t.site = s.site := by
  obtain ⟨-, -, -, -, -, -, -, -, site, -⟩ := h
  exact site

theorem State.cancelWork_rebuild {y : State} {w : RebuildWork} (order : w.order = some p) : y.cancelWork (.rebuild w) =
    (y.stale .abandoned).close p .cancelled .none 0 [(y.stale .abandoned).rebuildResult w] := by
  rw [State.cancelWork, order]

theorem State.refillResult_length (s : State) (w : RefillWork) : (s.refillResult w).length ≤ 240 := by
  have each : ∀ b, (s.refillRecord w b).length = 12 := fun b => rfl
  have few : (stagesOf w.mask).length ≤ 8 := List.length_filter_le _ _
  unfold State.refillResult
  rw [List.length_flatMap, List.map_congr_left fun b _ => each b, List.map_const', List.sum_replicate]
  show (stagesOf w.mask).length * 12 ≤ 240
  omega

/-- A queued target leaves its list. -/
theorem State.takes.cancels_queued (h : s.takes .cancel u o) (hp : p ∈ s.waiting) (other : s.param o 0 2 ≠ o.head)
    (head : p.head = s.param o 0 2) :
    ∃ t, s.cancelled t o p 0 [] ∧ s.samePlan t ∧ t.links = s.links ∧ t.free = s.free ∧
      t.engine = { s.engine.after u with
        urgent := (s.engine.after u).urgent.filter fun e => !e.headed (s.param o 0 2)
        routine := (s.engine.after u).routine.filter fun e => !e.headed (s.param o 0 2) } := by
  have both := List.mem_append_left s.working hp
  have target := State.cancelTarget_queued h hp head other
  rw [State.close_cancelled] at target
  obtain ⟨t, cancelled, reached, -⟩ := h.cancels both (fun e => other (head.symm.trans e))
    (cancelOrder_target h both head other target) (argument := 0) (payloads := [])
    (State.cancelPort_same rfl).symm rfl rfl rfl rfl rfl nofun
  exact ⟨t, cancelled, ⟨reached.site, reached.plan, reached.census, reached.spares⟩, reached.links, reached.free,
    reached.engine.trans (Engine.release_remove _ _)⟩

/-- A waiting probe leaves its slot. -/
theorem State.takes.cancels_probe (h : s.takes .cancel u o) {z : Fin 4} {w : ProbeWork} (other : s.param o 0 2 ≠ o.head)
    (slot : s.links[z].slot = some w) (head : w.order.head = s.param o 0 2) :
    ∃ t, s.cancelled t o w.order 0 [[byte z.val, w.probeId] ++ half w.step ++ [0#8, 0#8]] ∧ s.samePlan t ∧
      t.links[z] = { s.links[z] with slot := none } ∧ (∀ y : Fin 4, y ≠ z → t.links[y] = s.links[y]) ∧
      t.free = s.free ∧ t.engine = s.engine.after u := by
  have both := List.mem_append_right s.waiting (State.mem_working_of_slot slot)
  have target := State.cancelTarget_probe (u := u) h slot head
  unfold State.endProbe at target
  rw [State.close_cancelled] at target
  obtain ⟨t, cancelled, reached, -⟩ := h.cancels both (fun e => other (head.symm.trans e))
    (cancelOrder_target h both head other target) (argument := 0) (payloads := [w.result z none])
    (State.cancelPort_same rfl).symm rfl rfl rfl rfl rfl
    (fun l m => by rw [List.mem_singleton.1 m, ProbeWork.result_length]; decide)
  have links := fun y => (s.begin u o).onLink_get z y fun l => { l with slot := none }
  refine ⟨t, cancelled, ⟨reached.site, reached.plan, reached.census, reached.spares⟩, ?_, fun y hy => ?_, reached.free,
    reached.engine⟩
  · rw [reached.links]
    exact (links z).trans (if_pos rfl)
  · rw [reached.links]
    exact (links y).trans (if_neg hy)

section

variable {w : Work} (h : s.takes .cancel u o) (other : s.param o 0 2 ≠ o.head)
  (context : s.engine.routineContext = .suspended w) (order : w.order = some p) (head : p.head = s.param o 0 2)
include h other context order head

/-- Suspended work that stops in a state `r`, from which its order is delivered. -/
theorem State.takes.cancels_suspended {r : State} {argument : Word} {payloads : List (List Byte)} {l : List Entry}
    (stopped : (s.begin u o).cancelWork w = r.close p .cancelled .none argument payloads)
    (port : r.port = (s.portFor r).setCells o.cells .active)
    (engine : r.engine = { (s.begin u o).engine with routine := (s.begin u o).engine.routine ++ l })
    (rest : r.reports = s.reports ∧ r.now = s.now ∧ r.pending = s.pending ∧ r.site = s.site ∧ r.zones = s.zones)
    (hl : ∀ l ∈ payloads, l.length ≤ 240) :
    ∃ t, s.cancelled t o p argument payloads ∧ t.plan = r.plan ∧ t.census = r.census ∧ t.spares = r.spares ∧
      t.links = r.links ∧ t.free = r.free ∧
      t.engine = { s.engine.after u with routine := (s.engine.after u).routine ++ l, routineContext := .idle } ∧
      ∀ bit : BitVec 5, (s.portFor r).raw &&& bit = bit → t.port.raw &&& bit = bit := by
  have urgent := h.urgent_of_suspended context
  subst urgent
  have both := List.mem_append_right s.waiting (State.mem_working_of_context (congrArg RoutineContext.work context) order)
  have target := State.cancelTarget_suspended h context order head
  rw [stopped, State.close_cancelled] at target
  obtain ⟨reports, now, pending, site, zones⟩ := rest
  obtain ⟨t, cancelled, reached, raised⟩ := h.cancels both (fun e => other (head.symm.trans e))
    (cancelOrder_target h both head other target) (argument := argument) (payloads := payloads)
    (congrArg (fun q : Port => q.deliver p.head p.rest p.urgent .cancelled .none argument payloads) port) reports now pending
    site zones hl
  refine ⟨t, cancelled, reached.plan, reached.census, reached.spares, reached.links, reached.free, reached.engine.trans ?_,
    raised⟩
  show Engine.release { r.engine with routineContext := .idle } = _
  rw [engine]
  exact Engine.release_stopped s.engine l

end

section

variable (h : s.takes .cancel u o) (other : s.param o 0 2 ≠ o.head)
include h other

/-- A suspended PLACE is rolled back. -/
theorem State.takes.cancels_place {w : PlaceWork} (context : s.engine.routineContext = .suspended (.place w))
    (head : w.order.head = s.param o 0 2) (channels : ∀ e ∈ w.stack, (s.channel e.item.channel).isSome = true) :
    ∃ t, s.cancelled t o w.order (BitVec.ofNat 32 w.used)
        (pieces 240 8 (PlaceWork.result { w with unplaced := [] } false .none (half w.deepest) t.plan.epoch)) ∧
      s.searchEnded t w (fun _ => .defined) ∧ t.plan.epoch = s.plan.epoch + BitVec.ofNat 32 w.placedCount ∧
      t.census = (w.stack.foldl State.clearTentative s).census ∧
      t.spares = (w.stack.foldl State.clearTentative s).spares ∧ t.links = s.links ∧ t.free = s.free ∧
      t.engine = { s.engine.after u with
        routine := (s.engine.after u).routine ++ if w.placedCount = 0 then [] else s.allShort t
        routineContext := .idle } := by
  have alike := (s.begin_alike u o).clearTentatives w.stack
  have rolled := State.rollback_eq (s := s.begin u o) channels
  have census := State.clearTentatives_censusState w.stack (s.begin u o)
  dsimp only at rolled
  obtain ⟨t, cancelled, plan, census', spares, links, free, engine, -⟩ := h.cancels_suspended other context rfl head
    (r := (s.begin u o).rollback w) rfl
    ((congrArg State.port rolled).trans (congrArg (Port.setCells · o.cells .active)
      (State.portFor_same (s := s) ((congrArg (fun r : State => r.census.state) rolled).trans census)).symm))
    (congrArg State.engine rolled :)
    ⟨(congrArg State.reports rolled :), (congrArg State.now rolled :), (congrArg State.pending rolled :),
      (congrArg State.site rolled :), (congrArg State.zones rolled :)⟩ (pieces_length _ _ _)
  obtain ⟨ended, epoch⟩ := State.rollback_ended (s := s.begin u o) (t := t) channels (plan.trans (congrArg State.plan rolled :))
  have kept : t.spares = (w.stack.foldl State.clearTentative (s.begin u o)).spares :=
    spares.trans (congrArg State.spares rolled :)
  have short : (s.begin u o).allShort (w.stack.foldl State.clearTentative (s.begin u o)) = s.allShort t :=
    (State.begin_shortEntries h.1 _ _).trans (State.shortEntries_congr _ (fun _ => rfl) (fun _ => rfl) kept.symm fun b =>
      congrArg (Site.target · b) ((State.foldl_clearTentative_rest w.stack (s.begin u o)).site.trans
        (State.cancelled_site cancelled).symm))
  rw [short] at engine
  exact ⟨t, (congrArg Plan.epoch plan) ▸ cancelled, ended, epoch, (census'.trans (congrArg State.census rolled :)).trans alike.census,
    kept.trans alike.spares, links.trans (congrArg State.links rolled :), free.trans (congrArg State.free rolled :), engine⟩

/-- A suspended CHECK LIST is delivered with what it has judged. -/
theorem State.takes.cancels_check {w : CheckWork} (context : s.engine.routineContext = .suspended (.check w))
    (head : w.order.head = s.param o 0 2) :
    ∃ t, s.cancelled t o w.order (BitVec.ofNat 32 w.evaluations)
        (pieces 240 8 ((w.judged.flatMap fun e => half e.1 ++ half e.2) ++ w.todo.flatMap fun e => half e.2 ++ half 0xA000)) ∧
      s.samePlan t ∧ t.links = s.links ∧ t.free = s.free ∧
      t.engine = { s.engine.after u with
        routine := (s.engine.after u).routine ++ []
        routineContext := .idle } := by
  obtain ⟨t, cancelled, plan, census, spares, links, free, engine, -⟩ := h.cancels_suspended other context rfl head (l := [])
    (r := s.begin u o) rfl (congrArg (Port.setCells · o.cells .active) (State.portFor_same rfl).symm) (by rw [List.append_nil]) ⟨rfl, rfl, rfl, rfl, rfl⟩ (pieces_length _ _ _)
  exact ⟨t, cancelled, ⟨State.cancelled_site cancelled, plan, census, spares⟩, links, free, engine⟩

/-- A suspended REBUILD CENSUS leaves the census STALE. -/
theorem State.takes.cancels_rebuild {w : RebuildWork} (context : s.engine.routineContext = .suspended (.rebuild w))
    (order : w.order = some p) (head : p.head = s.param o 0 2) :
    ∃ t, s.cancelled t o p 0
        [half w.added ++ half w.marked.length ++ word w.restarts ++ [1#8, 3#8] ++ half 0 ++ word w.epoch
          ++ word w.generation] ∧
      t.census = { s.census with state := .stale, cause := .abandoned } ∧ t.plan = s.plan ∧ t.spares = s.spares ∧
      (s.census.state ≠ .stale → t.port.raw &&& censusBit = censusBit) ∧ t.links = s.links ∧ t.free = s.free ∧
      t.engine = { s.engine.after u with
        routine := (s.engine.after u).routine ++ []
        routineContext := .idle } := by
  have port : ((s.begin u o).stale .abandoned).port =
      (s.portFor ((s.begin u o).stale .abandoned)).setCells o.cells .active := by
    by_cases stale : s.census.state = .stale
    · rw [State.portFor_same (x := (s.begin u o).stale .abandoned) stale.symm]
      exact if_pos stale
    · rw [State.portFor_raised (x := (s.begin u o).stale .abandoned) stale rfl, Port.raise_setCells]
      exact if_neg stale
  obtain ⟨t, cancelled, plan, census, spares, links, free, engine, raised⟩ := h.cancels_suspended other context order head
    (l := []) (State.cancelWork_rebuild order) port (by rw [List.append_nil]; rfl) ⟨rfl, rfl, rfl, rfl, rfl⟩
    (State.rebuildResult_length _ _)
  refine ⟨t, cancelled, census, plan, spares, fun fresh => raised censusBit ?_, links, free, engine⟩
  have raw := congrArg Port.raw (State.portFor_raised (x := (s.begin u o).stale .abandoned) fresh rfl)
  exact (congrArg (· &&& censusBit) raw).trans (or_raised _ _)

/-- A suspended REFILL SPARES is delivered with what it has found. -/
theorem State.takes.cancels_refill {w : RefillWork} (context : s.engine.routineContext = .suspended (.refill w))
    (head : w.order.head = s.param o 0 2) :
    ∃ t, s.cancelled t o w.order (BitVec.ofNat 32 w.evaluations) [(stagesOf w.mask).flatMap (s.refillRecord w)] ∧
      s.samePlan t ∧ t.links = s.links ∧ t.free = s.free + 8 ∧
      t.engine = { s.engine.after u with
        routine := (s.engine.after u).routine ++ []
        routineContext := .idle } := by
  obtain ⟨t, cancelled, plan, census, spares, links, free, engine, -⟩ := h.cancels_suspended other context rfl head (l := [])
    (r := (s.begin u o).draw 8) rfl (congrArg (Port.setCells · o.cells .active) (State.portFor_same rfl).symm) (by rw [List.append_nil]; rfl) ⟨rfl, rfl, rfl, rfl, rfl⟩
    (fun l m => by rw [List.mem_singleton.1 m]; exact State.refillResult_length _ _)
  exact ⟨t, cancelled, ⟨State.cancelled_site cancelled, plan, census, spares⟩, links, free, engine⟩

end

end Sys2Proof.Machine

open Sys2Proof Sys2Proof.Machine

/-- Settles O50. -/
theorem cancelStopsTarget : Obligations.CancelStopsTarget := by
  refine fun s u o h => ⟨fun bad => ?_, fun low high clear => ?_, fun p hp other head => ?_, fun z w other slot head => ?_,
    fun w p other context order head => ⟨fun x hx channels => ?_, fun x hx => ?_, fun x hx => ?_, fun x hx => ?_⟩⟩
  · exact h.refused (cancelOrder_bad (by rw [State.begin_param]; exact bad))
  · by_cases own : s.param o 0 2 = o.head
    · exact absurd own.symm (clear o (List.mem_append_left _ (State.granted_waiting h.1).1))
    · refine h.refused (r := .notFound) ?_
      refine (cancelOrder_names (by rw [State.begin_param]; exact ⟨low, high⟩) (by rw [State.begin_param]; exact own)).trans ?_
      rw [State.begin_param, State.cancelTarget_none clear]
  · exact h.cancels_queued hp other head
  · exact h.cancels_probe other slot head
  · subst hx
    cases order
    exact h.cancels_place other context head channels
  · subst hx
    cases order
    exact h.cancels_check other context head
  · subst hx
    exact h.cancels_rebuild other context order head
  · subst hx
    cases order
    exact h.cancels_refill other context head

end


section
/-! The recheck of a spare list, and the work on one stage's list (R86, R89 to R91). -/

namespace Sys2Proof.Machine

/-! ### The recheck -/

section

variable (s : State) (b : Fin 8) (r : StageRecord)

/-- Whether a recheck keeps a spare behind those it has kept. -/
def State.keepsSpare (kept : List Spare) (x : Spare) : Bool :=
  s.sparePasses b r x.step && kept.all fun k => s.site.spareSpacing r ≤ distance k.step x.step

theorem State.keepSpares_cons (kept : List Spare) (x : Spare) (l : List Spare) : s.keepSpares b r kept (x :: l) =
    s.keepSpares b r (if s.keepsSpare b r kept x then kept ++ [x] else kept) l := by
  rw [State.keepSpares]
  unfold State.keepsSpare
  split <;> rfl

/-- A recheck meets the spares in turn. -/
theorem State.keepSpares_concat (kept : List Spare) (l : List Spare) (x : Spare) :
    s.keepSpares b r kept (l ++ [x]) =
      if s.keepsSpare b r (s.keepSpares b r kept l) x then s.keepSpares b r kept l ++ [x] else s.keepSpares b r kept l := by
  induction l generalizing kept with
  | nil =>
    rw [List.nil_append, State.keepSpares_cons]
    rfl
  | cons y l ih =>
    rw [List.cons_append, State.keepSpares_cons, ih, State.keepSpares_cons]

/-- The spares that a recheck has kept of the first ones of the list. -/
def State.keptOf (i : Nat) : List Spare := s.keepSpares b r [] ((s.spares[b]).take i)

theorem State.keptOf_succ {i : Nat} {x : Spare} (h : (s.spares[b])[i]? = some x) : s.keptOf b r (i + 1) =
    if s.keepsSpare b r (s.keptOf b r i) x then s.keptOf b r i ++ [x] else s.keptOf b r i := by
  unfold State.keptOf
  rw [List.take_add_one, h]
  exact s.keepSpares_concat b r [] _ x

theorem State.keepsSpare_iff (kept : List Spare) (x : Spare) : s.keepsSpare b r kept x = true ↔
    s.check2 (s.site.spareCandidate b r x.step) = true ∧
      s.check4 (s.site.spareCandidate b r x.step) s.plan.transmitters = true ∧
      s.check5 (s.site.spareCandidate b r x.step) s.plan.transmitters [] = true ∧
      s.check6 (s.site.spareCandidate b r x.step) s.plan.transmitters = true ∧
      ∀ y ∈ kept, 2 * r.bandwidth.halfWidth + s.site.params.margin ≤ distance y.step x.step := by
  unfold State.keepsSpare
  rw [Bool.and_eq_true, State.sparePasses_iff, List.all_eq_true]
  simp only [decide_eq_true_eq, and_assoc]
  rfl

theorem State.rechecked_none {s : State} {b : Fin 8} (h : s.site.stages[b] = none) : s.rechecked b = s.spares[b] := by
  unfold State.rechecked
  rw [h]

theorem State.rechecked_some {s : State} {b : Fin 8} {r : StageRecord} (h : s.site.stages[b] = some r) :
    s.rechecked b = s.keptOf b r (s.spares[b]).length := by
  unfold State.rechecked State.keptOf
  rw [h, List.take_length]

end

/-! ### One unit of the work on a list -/

theorem Site.target_some {s : Site} {b : Fin 8} {r : StageRecord} (h : s.stages[b] = some r) : s.target b = r.target := by
  unfold Site.target
  rw [h]
  rfl

theorem State.atTarget_iff (s : State) (b : Fin 8) : s.atTarget b = true ↔ s.site.target b ≤ (s.spares[b]).length :=
  decide_eq_true_iff

section

variable {s : State} {w : UpkeepWork} {r : StageRecord} (hr : s.site.stages[w.stage] = some r)
include hr

theorem State.atTarget_record : s.atTarget w.stage = true ↔ r.target ≤ (s.spares[w.stage]).length := by
  rw [State.atTarget_iff, Site.target_some hr]

theorem State.upkeepUnit_rank (more : w.position < w.grid.count) : s.upkeepUnit w = (s, s.rankOne w r) := by
  unfold State.upkeepUnit
  rw [hr]
  exact if_pos more

theorem State.upkeepUnit_fill {x : Spare} {l : List Spare} (ranked : w.grid.count ≤ w.position) (next : w.ranking = x :: l)
    (short : (s.spares[w.stage]).length < r.target) : s.upkeepUnit w = s.fillOne w r x := by
  have below : s.atTarget w.stage = false :=
    Bool.eq_false_iff.mpr fun full => Nat.not_le.2 short ((State.atTarget_record hr).1 full)
  unfold State.upkeepUnit
  rw [hr]
  dsimp only
  rw [if_neg (Nat.not_lt.2 ranked), next]
  dsimp only
  rw [below]
  rfl

theorem State.upkeepUnit_over (ranked : w.grid.count ≤ w.position)
    (done : w.ranking = [] ∨ r.target ≤ (s.spares[w.stage]).length) : s.upkeepUnit w = (s, w) := by
  unfold State.upkeepUnit
  rw [hr]
  dsimp only
  rw [if_neg (Nat.not_lt.2 ranked)]
  rcases done with empty | full
  · rw [empty]
  · rw [(State.atTarget_record hr).2 full]
    split <;> rfl

end

/-- One unit of work changes the list of its stage alone, and goes on with its stage, its grid and its epoch. -/
structure State.UnitDone (s : State) (w : UpkeepWork) (t : State) (v : UpkeepWork) : Prop where
  rest : t = { s with spares := t.spares }
  others : ∀ b, b ≠ w.stage → t.spares[b] = s.spares[b]
  stage : v.stage = w.stage
  grid : v.grid = w.grid
  epoch : v.epoch = w.epoch

theorem State.UnitDone.same {s : State} {w v : UpkeepWork} (stage : v.stage = w.stage) (grid : v.grid = w.grid)
    (epoch : v.epoch = w.epoch) : s.UnitDone w s v := ⟨rfl, fun _ _ => rfl, stage, grid, epoch⟩

theorem State.addSpare_get (s : State) (b c : Fin 8) (x : Spare) :
    (s.addSpare b x).spares[c] = if c = b then insertSpare x s.spares[b] else s.spares[c] := vector_set_get _ _ _ _

theorem State.fillOne_done (s : State) (w : UpkeepWork) (r : StageRecord) (x : Spare) :
    s.UnitDone w (s.fillOne w r x).1 (s.fillOne w r x).2 := by
  unfold State.fillOne
  dsimp only
  split
  · exact .same rfl rfl rfl
  · split
    · exact ⟨rfl, fun b other => (s.addSpare_get _ b _).trans (if_neg other), rfl, rfl, rfl⟩
    · exact .same rfl rfl rfl

theorem State.upkeepUnit_done (s : State) (w : UpkeepWork) : s.UnitDone w (s.upkeepUnit w).1 (s.upkeepUnit w).2 := by
  unfold State.upkeepUnit
  split
  · exact .same rfl rfl rfl
  · split
    · exact .same rfl rfl rfl
    · split
      · split
        · exact .same rfl rfl rfl
        · exact s.fillOne_done w _ _
      · exact .same rfl rfl rfl

section

variable (s : State) (w : UpkeepWork) (r : StageRecord)

/-- A rank step inserts the grid point at its place where it passes, and passes on otherwise (R90). -/
theorem State.rankOne_ranking :
    (∀ n, s.evaluateSpare w.stage r (w.grid.at w.position) = .pass n →
      (s.rankOne w r).ranking.Perm ({ step := w.grid.at w.position, score := n } :: w.ranking) ∧
        (w.ranking.Pairwise Spare.above → (∀ x ∈ w.ranking, x.step ≠ w.grid.at w.position) →
          (s.rankOne w r).ranking.Pairwise Spare.above)) ∧
    (∀ n, s.evaluateSpare w.stage r (w.grid.at w.position) = .fail n → (s.rankOne w r).ranking = w.ranking) := by
  have ranking : (s.rankOne w r).ranking = match s.evaluateSpare w.stage r (w.grid.at w.position) with
    | .pass score => insertSpare { step := w.grid.at w.position, score := score } w.ranking
    | .fail _ => w.ranking := rfl
  refine ⟨fun n pass => ?_, fun n fail => ?_⟩
  · rw [ranking, pass]
    exact ⟨insertSpare_perm _ _, insertSpare_sorted { step := w.grid.at w.position, score := n } _⟩
  · rw [ranking, fail]

variable (x : Spare)

theorem State.fillOne_passedOver (passed : s.passedOver w.stage r x.step = true) :
    s.fillOne w r x = (s, { w with ranking := w.ranking.tail }) := if_pos passed

theorem State.fillOne_evaluates (met : s.passedOver w.stage r x.step = false) :
    (s.fillOne w r x).2 = { w with ranking := w.ranking.tail, evaluations := w.evaluations + 1 } ∧
    (∀ n, s.evaluateSpare w.stage r x.step = .pass n →
      (s.fillOne w r x).1 = s.addSpare w.stage { step := x.step, score := n }) ∧
    (∀ n, s.evaluateSpare w.stage r x.step = .fail n → (s.fillOne w r x).1 = s) := by
  have fill : s.fillOne w r x = match s.evaluateSpare w.stage r x.step with
      | .pass score => (s.addSpare w.stage { step := x.step, score := score },
          { w with ranking := w.ranking.tail, evaluations := w.evaluations + 1 })
      | .fail _ => (s, { w with ranking := w.ranking.tail, evaluations := w.evaluations + 1 }) :=
    if_neg (ne_true_of_eq_false met)
  rw [fill]
  cases e : s.evaluateSpare w.stage r x.step with
  | pass n => exact ⟨rfl, fun m same => by cases same; rfl, nofun⟩
  | fail n => exact ⟨rfl, nofun, fun _ _ => rfl⟩

theorem State.upkeepOver_iff (t : State) (v : UpkeepWork) : t.upkeepOver v = true ↔
    v.grid.count ≤ v.position ∧ (v.ranking = [] ∨ t.atTarget v.stage = true) := by
  unfold State.upkeepOver
  rw [Bool.and_eq_true, Bool.or_eq_true, decide_eq_true_iff, decide_eq_true_iff]

end

end Sys2Proof.Machine
end


section
/-! UPKEEP: its take-up and its steps (R89 to R91). -/

namespace Sys2Proof.Machine

/-! ### The end of the work on a stage (R91) -/

section

variable {x : State} {b : Fin 8}

theorem State.markShort_full (full : x.atTarget b = true) : x.markShort b = x := if_pos full

theorem State.markShort_short (short : x.atTarget b = false) : x.markShort b = x.mark (.stage b) sparesShortFlag :=
  if_neg (ne_true_of_eq_false short)

theorem State.markShort_emits (x : State) (b : Fin 8) : x.Emits (x.markShort b) := by
  unfold State.markShort
  split
  · exact .refl x
  · exact .mark x _ _ _

theorem State.flagged_of_reports {s t : State} {y : Subject} {f : Byte} (h : s.flagged y f) (reports : t.reports = s.reports) :
    t.flagged y f := by
  unfold State.flagged
  rw [reports]
  exact h

/-- A stage that ends short is marked, from the state in which its list alone has changed. -/
theorem State.short_marks {s t : State} (rest : x = { s with spares := x.spares }) (short : x.atTarget b = false)
    (spares : t.spares = x.spares)
    (port : t.port = { (x.markShort b).port with header := t.port.header, line := t.port.line })
    (reports : t.reports = (x.markShort b).reports) :
    State.marks { s with spares := t.spares } t (.stage b) sparesShortFlag ∧
      (s.heldBack → t.flagged (.stage b) sparesShortFlag) := by
  have base : { s with spares := t.spares } = x := (congrArg (fun l => { s with spares := l }) spares).trans rest.symm
  have held : s.heldBack → x.heldBack := fun held => by
    rw [rest]
    exact held
  rw [State.markShort_short short] at port reports
  rw [base]
  exact ⟨⟨reports, port⟩, fun k => State.flagged_of_reports (State.flagged_mark (held k) _ _ none) reports⟩

end

/-! ### The take-up (R89) -/

theorem exec_upkeep {s : State} {b : Fin 8} (h : s.arbiter = some (.takeRoutine (.upkeep b))) :
    exec .upkeep s = .next (s.finish ((s.beginEntry false).startUpkeep b)).arbitrate := by
  show execUpkeep s = _
  unfold execUpkeep
  rw [h]
  rfl

/-- The take-up of an UPKEEP entry changes the engine alone. -/
theorem State.startUpkeep_rest (x : State) (b : Fin 8) : ∃ e, x.startUpkeep b = { x with engine := e } := by
  unfold State.startUpkeep
  split
  · exact ⟨_, rfl⟩
  · split <;> exact ⟨_, rfl⟩

theorem State.startUpkeep_discards {x : State} {b : Fin 8} (full : x.site.target b ≤ (x.spares[b]).length) :
    x.startUpkeep b = x.release := by
  unfold State.startUpkeep
  split
  · rfl
  · exact if_pos ((State.atTarget_iff x b).2 full)

theorem State.startUpkeep_begins {x : State} {b : Fin 8} {r : StageRecord} (hr : x.site.stages[b] = some r)
    (short : (x.spares[b]).length < r.target) : x.startUpkeep b = x.runWith (.upkeep (x.upkeepWork b r 0)) := by
  have below : ¬ x.atTarget b = true := fun full =>
    Nat.not_le.2 short ((Site.target_some hr) ▸ (State.atTarget_iff x b).1 full)
  unfold State.startUpkeep
  rw [hr]
  exact if_neg below

/-! ### A step -/

theorem exec_upkeepStep {s x : State} {w : UpkeepWork} (h : s.running = some (.upkeep w)) (p : s.upkeepStep w = x) :
    exec .upkeepStep s = .next (s.finish x).arbitrate := by
  subst p
  show execUpkeepStep s = _
  unfold execUpkeepStep
  rw [h]

section

variable {s : State} {w : UpkeepWork} {r : StageRecord} (hr : s.site.stages[w.stage] = some r)
include hr

theorem State.upkeepStep_goes (goes : (s.upkeepUnit w).1.upkeepOver (s.upkeepUnit w).2 = false) :
    s.upkeepStep w = (s.upkeepUnit w).1.yieldWith (.upkeep (s.upkeepUnit w).2) := by
  have stages : ((s.upkeepUnit w).1.site.stages[w.stage]).isNone = false := by
    rw [(s.upkeepUnit_done w).rest]
    dsimp only
    rw [hr]
    rfl
  unfold State.upkeepStep
  dsimp only
  rw [goes, stages]
  rfl

omit hr in
theorem State.upkeepStep_ends (ends : (s.upkeepUnit w).1.upkeepOver (s.upkeepUnit w).2 = true) :
    s.upkeepStep w = ((s.upkeepUnit w).1.markShort w.stage).release := by
  unfold State.upkeepStep
  dsimp only
  rw [ends]
  rfl

end

/-- How a step of an UPKEEP ends in `t`, from the state `x` and the work `v` that its unit has reached. -/
structure State.UpkeepStepped (s x : State) (w v : UpkeepWork) (t : State) : Prop where
  site : t.site = s.site
  plan : t.plan = s.plan
  census : t.census = s.census
  spectrum : s.sameSpectrum t
  free : t.free = s.free
  reportsOnly : s.reportsOnly t
  spares : t.spares = x.spares
  goes : x.upkeepOver v = false → s.samePort t ∧ t.reports = s.reports ∧ s.yields t (.upkeep v) []
  rests : x.upkeepOver v = true → s.rests t []
  full : x.upkeepOver v = true → x.atTarget w.stage = true → s.samePort t ∧ t.reports = s.reports
  short : x.upkeepOver v = true → x.atTarget w.stage = false →
    State.marks { s with spares := t.spares } t (.stage w.stage) sparesShortFlag ∧
      (s.heldBack → t.flagged (.stage w.stage) sparesShortFlag)

theorem State.runs.upkeepSteps {s : State} {w : UpkeepWork} {r : StageRecord} (h : s.runs (.upkeep w))
    (hr : s.site.stages[w.stage] = some r) :
    ∃ t, exec .upkeepStep s = .next t.arbitrate ∧ s.UpkeepStepped (s.upkeepUnit w).1 w (s.upkeepUnit w).2 t := by
  have rest := (s.upkeepUnit_done w).rest
  have goes := State.upkeepStep_goes (w := w) hr
  have ends := State.upkeepStep_ends (s := s) (w := w)
  generalize (s.upkeepUnit w).1 = x at *
  generalize (s.upkeepUnit w).2 = v at *
  cases over' : x.upkeepOver v with
  | false =>
    refine ⟨_, exec_upkeepStep h.1 (goes over'), ?_⟩
    rw [rest]
    refine ⟨rfl, rfl, rfl, ⟨rfl, rfl⟩, rfl, State.reportsOnly_same rfl, rfl,
      fun _ => ⟨rfl, rfl, State.yields_of rfl rfl rfl rfl s⟩, ?_, ?_, ?_⟩
    all_goals exact fun k => absurd (over'.symm.trans (rest ▸ k)) Bool.false_ne_true
  | true =>
    have emits := x.markShort_emits w.stage
    obtain ⟨p, q, marked⟩ := emits.rest
    replace marked : x.markShort w.stage = { s with spares := x.spares, port := p, reports := q } :=
      marked.trans (congrArg (fun y : State => { y with port := p, reports := q }) rest)
    have port : x.port = s.port := (congrArg State.port rest :)
    have keeps := emits.keeps
    have moved := emits.reports
    rw [port] at keeps moved
    refine ⟨_, exec_upkeepStep h.1 (ends over'), ?_⟩
    exact {
      site := (congrArg State.site marked :)
      plan := (congrArg State.plan marked :)
      census := (congrArg State.census marked :)
      spectrum := ⟨(congrArg State.links marked :), (congrArg State.zones marked :)⟩
      free := (congrArg State.free marked :)
      reportsOnly := State.reportsOnly_of keeps moved rfl
      spares := (congrArg State.spares marked :)
      goes := fun k => absurd (over'.symm.trans k) Bool.false_ne_true.symm
      rests := fun _ => ⟨⟨(congrArg State.now marked :), (congrArg State.pending marked :)⟩, by
        rw [List.append_nil]
        exact (congrArg (fun y : State => y.engine.release) marked).trans (Engine.release_idle h.idle)⟩
      full := fun _ full => by
        have same := State.markShort_full full
        exact ⟨State.samePort_of rfl ((congrArg State.port same).trans port),
          (congrArg State.reports same).trans (congrArg State.reports rest :)⟩
      short := fun _ short => State.short_marks rest short (congrArg State.spares marked :) rfl rfl }

end Sys2Proof.Machine

open Sys2Proof Sys2Proof.Machine

/-- Settles O39. -/
theorem upkeepFillsSpares : Obligations.UpkeepFillsSpares := by
  refine ⟨fun s b => ⟨State.rechecked_none, fun r hr => ?recheck, fun pass apart => ?stays⟩, fun s b h => ?takeUp,
    fun s w r h hr => ?step⟩
  case recheck =>
    refine ⟨s.keptOf b r, rfl, State.rechecked_some hr, fun i x hx => ⟨fun pass => ?_, fun fail => ?_⟩⟩
    · exact (s.keptOf_succ b r hx).trans (if_pos ((s.keepsSpare_iff b r _ x).2 pass))
    · exact (s.keptOf_succ b r hx).trans (if_neg fun keep => fail ((s.keepsSpare_iff b r _ x).1 keep))
  case stays =>
    exact State.rechecked_stays (fun r hr x hx => (State.sparePasses_iff s b r x.step).2 (pass b r hr x hx)) apart
  case takeUp =>
    obtain ⟨-, idle, context, -, -⟩ := State.arbiter_takeRoutine h
    obtain ⟨e, rest⟩ := (s.beginEntry false).startUpkeep_rest b
    refine ⟨_, exec_upkeep h, ⟨⟨(congrArg State.site rest :), (congrArg State.plan rest :), (congrArg State.census rest :),
      (congrArg State.spares rest :)⟩, ⟨(congrArg State.links rest :), (congrArg State.zones rest :)⟩,
      ⟨(congrArg State.now rest :), (congrArg State.pending rest :)⟩⟩, State.samePort_of rfl (congrArg State.port rest :),
      (congrArg State.reports rest :), (congrArg State.free rest :), fun full => ?_, fun r hr short => ?_⟩
    · exact (congrArg State.engine (State.startUpkeep_discards (x := s.beginEntry false) full)).trans
        (Engine.begin_release idle context)
    · exact ⟨⟨(congrArg State.now rest :), (congrArg State.pending rest :)⟩,
        congrArg State.engine (State.startUpkeep_begins (x := s.beginEntry false) hr short)⟩
  case step =>
    obtain ⟨t, run, site, plan, census, spectrum, free, reportsOnly, spares, goes, rests, full, short⟩ := h.upkeepSteps hr
    have unit := s.upkeepUnit_done w
    have target : (s.upkeepUnit w).1.site.target w.stage = r.target := by
      rw [(congrArg State.site unit.rest :)]
      exact Site.target_some hr
    have list : (s.upkeepUnit w).1.atTarget w.stage = true ↔ r.target ≤ (t.spares[w.stage]).length := by
      rw [State.atTarget_iff, target, spares]
    have ends : (s.upkeepUnit w).1.upkeepOver (s.upkeepUnit w).2 = true ↔ w.grid.count ≤ (s.upkeepUnit w).2.position ∧
        ((s.upkeepUnit w).2.ranking = [] ∨ r.target ≤ (t.spares[w.stage]).length) := by
      rw [State.upkeepOver_iff, unit.stage, unit.grid, list]
    refine ⟨t, (s.upkeepUnit w).2, run, site, plan, census, spectrum, free, reportsOnly,
      fun b other => by rw [spares]; exact unit.others b other, fun more => ?_, fun x l ranked next low => ?_,
      fun ranked done => ?_, unit.stage, unit.grid, unit.epoch, fun k => goes (Bool.eq_false_iff.mpr fun e => k (ends.1 e)),
      fun k => ⟨rests (ends.2 k), fun e => full (ends.2 k) (list.2 e), fun e => short (ends.2 k)
        (Bool.eq_false_iff.mpr fun f => Nat.not_le.2 e (list.1 f))⟩⟩
    · have one := State.upkeepUnit_rank hr more
      rw [one] at spares ⊢
      obtain ⟨pass, fail⟩ := s.rankOne_ranking w r
      exact ⟨spares, rfl, rfl, pass, fail⟩
    · have one := State.upkeepUnit_fill hr ranked next low
      rw [one] at spares ⊢
      have passed : s.passedOver w.stage r x.step = ((s.spares[w.stage]).any (fun y =>
          y.step = x.step || decide (distance y.step x.step < 2 * r.bandwidth.halfWidth + s.site.params.margin)) ||
          s.inHitSegment r x.step) := rfl
      cases met : s.passedOver w.stage r x.step with
      | true =>
        rw [s.fillOne_passedOver w r x met] at spares ⊢
        refine ⟨rfl, by rw [next]; rfl, fun _ => ⟨spares, rfl⟩, fun far out => ?_⟩
        rw [passed, far, out] at met
        cases met
      | false =>
        obtain ⟨work, pass, fail⟩ := s.fillOne_evaluates w r x met
        rw [work]
        refine ⟨rfl, by rw [next]; rfl, fun k => ?_, fun _ _ => ⟨rfl, fun n e => ?_, fun n e => spares.trans ?_⟩⟩
        · rw [passed, Bool.or_eq_false_iff] at met
          exact absurd k (by rw [met.1, met.2]; decide)
        · rw [spares, pass n e, State.addSpare_get, if_pos rfl]
          exact insertSpare_perm _ _
        · rw [fail n e]
    · have one := State.upkeepUnit_over hr ranked done
      rw [one] at spares ⊢
      exact ⟨spares, rfl⟩

end


section
/-! REFILL SPARES: the stages it goes through (R92, R93). -/

namespace Sys2Proof.Machine

/-! ### The next stage below its target -/

/-- A stage's list is below its target. -/
def State.shortOf (s : State) (b : Fin 8) : Prop := (s.spares[b]).length < s.site.target b

theorem State.atTarget_false (s : State) (b : Fin 8) : s.atTarget b = false ↔ s.shortOf b := by
  rw [Bool.eq_false_iff, Ne, State.atTarget_iff, Nat.not_le]
  rfl

theorem State.shortOf_defined {s : State} {b : Fin 8} (h : s.shortOf b) : ∃ r, s.site.stages[b] = some r := by
  unfold State.shortOf Site.target at h
  cases e : s.site.stages[b] with
  | none =>
    rw [e] at h
    exact absurd h (Nat.not_lt_zero _)
  | some r => exact ⟨r, rfl⟩

section

variable {t : State} {b : Fin 8} (w : RefillWork)

theorem State.seek_undefined (h : t.site.stages[b] = none) (l : List (Fin 8)) : t.seek w (b :: l) = t.seek w l := by
  rw [State.seek, h]

theorem State.seek_full {r : StageRecord} (h : t.site.stages[b] = some r) (full : ¬ t.shortOf b) (l : List (Fin 8)) :
    t.seek w (b :: l) =
      t.seek { w with finished := w.finished ++ [{ stage := b, evaluations := 0, short := false }] } l := by
  rw [State.seek, h]
  exact if_pos (Bool.not_eq_false _ ▸ fun e => full ((t.atTarget_false b).1 e))

theorem State.seek_short {r : StageRecord} (h : t.site.stages[b] = some r) (short : t.shortOf b) (l : List (Fin 8)) :
    t.seek w (b :: l) = { w with current := some (t.upkeepWork b r 0), rest := l } := by
  rw [State.seek, h]
  exact if_neg (ne_true_of_eq_false ((t.atTarget_false b).2 short))

theorem State.passedStages_cons (s : State) (b : Fin 8) (l : List (Fin 8)) : s.passedStages (b :: l) =
    (if (s.site.stages[b]).isSome then [{ stage := b, evaluations := 0, short := false }] else []) ++ s.passedStages l := by
  unfold State.passedStages
  rw [List.filter_cons]
  split <;> rfl

/-- The stages before the next one below its target are gone past. -/
theorem State.seek_append (l : List (Fin 8)) (full : ∀ a ∈ l, ¬ t.shortOf a) (rest : List (Fin 8)) :
    t.seek w (l ++ rest) = t.seek { w with finished := w.finished ++ t.passedStages l } rest := by
  induction l generalizing w with
  | nil => exact congrArg (fun f => t.seek { w with finished := f } rest) (List.append_nil _).symm
  | cons a l ih =>
    have others := fun v => ih v fun c hc => full c (List.mem_cons_of_mem _ hc)
    rw [List.cons_append, State.passedStages_cons]
    cases e : t.site.stages[a] with
    | none =>
      rw [State.seek_undefined w e, others]
      rfl
    | some r =>
      rw [State.seek_full w e (full a (List.mem_cons_self ..)), others]
      simp only [Option.isSome_some, if_true, List.append_assoc]

theorem State.seek_none {l : List (Fin 8)} (full : ∀ a ∈ l, ¬ t.shortOf a) :
    t.seek w l = { w with current := none, rest := [], finished := w.finished ++ t.passedStages l } := by
  have all := State.seek_append w l full []
  rw [List.append_nil] at all
  exact all

theorem State.seek_next {l l' : List (Fin 8)} {r : StageRecord} (full : ∀ a ∈ l, ¬ t.shortOf a)
    (h : t.site.stages[b] = some r) (short : t.shortOf b) : t.seek w (l ++ b :: l') =
      { w with current := some (t.upkeepWork b r 0), rest := l', finished := w.finished ++ t.passedStages l } := by
  rw [State.seek_append w l full, State.seek_short _ h short]

/-- Either no stage of a list is below its target, or a first one is. -/
theorem State.first_short (t : State) (l : List (Fin 8)) : (∀ a ∈ l, ¬ t.shortOf a) ∨
    ∃ l1 b l2, l = l1 ++ b :: l2 ∧ t.shortOf b ∧ ∀ a ∈ l1, ¬ t.shortOf a := by
  cases e : l.find? fun a => !t.atTarget a with
  | none =>
    refine .inl fun a ha short => List.find?_eq_none.1 e a ha ?_
    rw [(t.atTarget_false a).2 short]
    rfl
  | some b =>
    obtain ⟨below, l1, l2, parts, before⟩ := List.find?_eq_some_iff_append.1 e
    refine .inr ⟨l1, b, l2, parts, (t.atTarget_false b).1 (by simpa using below), fun a ha short => ?_⟩
    have full := before a ha
    rw [(t.atTarget_false a).2 short] at full
    exact absurd full (by decide)

end

theorem State.beginsStage_upkeepWork {s t : State} (site : t.site = s.site) (epoch : t.plan.epoch = s.plan.epoch) {b : Fin 8}
    {r : StageRecord} (h : t.site.stages[b] = some r) : s.beginsStage (t.upkeepWork b r 0) := by
  refine ⟨epoch, rfl, rfl, rfl, fun r' h' => ?_⟩
  have same : some r' = some r := h'.symm.trans (site ▸ h)
  cases same
  unfold State.upkeepWork
  rw [site]

/-! ### The stages of a mask -/

theorem stagesOf_pairwise (mask : BitVec 8) : (stagesOf mask).Pairwise (· < ·) :=
  List.Pairwise.filter _ (by decide)

theorem mem_stagesOf {mask : BitVec 8} {b : Fin 8} : b ∈ stagesOf mask ↔ mask.getLsbD b = true := by
  unfold stagesOf
  rw [List.mem_filter]
  exact and_iff_right (mem_allStages b)

/-- A stage of a mask parts the stages below it from those above it. -/
theorem stagesOf_split {mask : BitVec 8} {l l' : List (Fin 8)} {b : Fin 8} (h : stagesOf mask = l ++ b :: l') :
    l = (stagesOf mask).filter (fun a => a < b) ∧ l' = (stagesOf mask).filter fun a => b < a := by
  have sorted := stagesOf_pairwise mask
  rw [h, List.pairwise_append, List.pairwise_cons] at sorted
  obtain ⟨-, ⟨above, -⟩, below⟩ := sorted
  have low : ∀ a ∈ l, a < b := fun a ha => below a ha b (List.mem_cons_self ..)
  rw [h, List.filter_append, List.filter_append, List.filter_cons, List.filter_cons]
  constructor
  · rw [List.filter_eq_self.2 fun a ha => decide_eq_true (low a ha),
      List.filter_eq_nil_iff.2 fun a ha k => lt_asymm (above a ha) (of_decide_eq_true k), if_neg (by simp), List.append_nil]
  · rw [List.filter_eq_nil_iff.2 fun a ha k => lt_asymm (low a ha) (of_decide_eq_true k),
      List.filter_eq_self.2 fun a ha => decide_eq_true (above a ha), if_neg (by simp), List.nil_append]

/-! ### The take-up (R92) -/

theorem State.flush_get (x : State) (mask : BitVec 8) (b : Fin 8) : (x.flush mask).spares[b] =
    if mask.getLsbD b && (x.site.stages[b]).isSome then [] else x.spares[b] := mapPlaces_get _ _ _

/-- The state in which a REFILL SPARES looks for its first stage. -/
def State.flushed (x : State) (mask : BitVec 8) (options : Nat) : State :=
  if options.testBit 0 then x.flush mask else x

theorem State.flushed_get {options : Nat} (few : options < 2) (x : State) (mask : BitVec 8) (b : Fin 8) :
    (x.flushed mask options).spares[b] =
      if options = 1 ∧ mask.getLsbD b = true ∧ (x.site.stages[b]).isSome = true then [] else x.spares[b] := by
  unfold State.flushed
  match options, few with
  | 0, _ => rfl
  | 1, _ =>
    refine (x.flush_get mask b).trans ?_
    simp only [Bool.and_eq_true, true_and]

theorem State.flushed_rest (x : State) (mask : BitVec 8) (options : Nat) : ∃ l, x.flushed mask options = { x with spares := l } := by
  unfold State.flushed
  split
  · exact ⟨_, rfl⟩
  · exact ⟨x.spares, rfl⟩

/-- The work of a REFILL SPARES before it has found its first stage. -/
def refillOf (o : Handed) (mask : BitVec 8) : RefillWork :=
  { order := o, mask := mask, current := none, rest := [], finished := [] }

theorem refillSparesOrder_begins {o : Handed} {x : State} (some' : BitVec.ofNat 8 (x.param o 0 1) ≠ 0)
    (few : x.param o 1 1 < 2) : refillSparesOrder o x =
      (x.flushed (BitVec.ofNat 8 (x.param o 0 1)) (x.param o 1 1)).runWith (.refill
        ((x.flushed (BitVec.ofNat 8 (x.param o 0 1)) (x.param o 1 1)).seek (refillOf o (BitVec.ofNat 8 (x.param o 0 1)))
          (stagesOf (BitVec.ofNat 8 (x.param o 0 1))))) := by
  unfold refillSparesOrder
  exact if_neg fun bad => bad.elim some' fun k => absurd few (Nat.not_lt.2 k)

end Sys2Proof.Machine
end


section
/-! REFILL SPARES: its take-up, its steps and its delivery (R92, R93). -/

namespace Sys2Proof.Machine

theorem State.passedStages_congr {s t : State} (site : t.site = s.site) (l : List (Fin 8)) :
    t.passedStages l = s.passedStages l := by
  unfold State.passedStages
  rw [site]

theorem State.shortOf_congr {s t : State} {b : Fin 8} (site : t.site = s.site) (spares : t.spares = s.spares) :
    t.shortOf b ↔ s.shortOf b := by
  unfold State.shortOf
  rw [site, spares]

/-! ### The take-up -/

/-- What the search for the first stage finds, told from the lists it meets. -/
theorem State.refillFound {s y : State} (site : y.site = s.site) (epoch : y.plan.epoch = s.plan.epoch) (o : Handed)
    (mask : BitVec 8) :
    let w := y.seek (refillOf o mask) (stagesOf mask)
    let short := fun b : Fin 8 => w.mask.getLsbD b = true ∧ (y.spares[b]).length < s.site.target b
    w.order = o ∧ w.mask = mask ∧
      (w.current = none → (∀ b : Fin 8, ¬ short b) ∧ w.rest = [] ∧ w.finished = s.passedStages (stagesOf w.mask)) ∧
      ∀ v, w.current = some v →
        short v.stage ∧ (∀ b, b < v.stage → ¬ short b) ∧ s.beginsStage v ∧
          w.rest = (stagesOf w.mask).filter (fun b => v.stage < b) ∧
          w.finished = s.passedStages ((stagesOf w.mask).filter fun b => b < v.stage) := by
  have target : ∀ b : Fin 8, (y.spares[b]).length < s.site.target b ↔ y.shortOf b := fun b => by
    unfold State.shortOf
    rw [site]
  simp only [target]
  rcases y.first_short (stagesOf mask) with full | ⟨l, b, l', parts, below, full⟩
  · rw [State.seek_none _ full]
    exact ⟨rfl, rfl, fun _ => ⟨fun b k => full b (mem_stagesOf.2 k.1) k.2, rfl, State.passedStages_congr site _⟩, nofun⟩
  · obtain ⟨r, hr⟩ := State.shortOf_defined below
    obtain ⟨low, high⟩ := stagesOf_split parts
    have found := State.seek_next (refillOf o mask) (l' := l') full hr below
    rw [← parts] at found
    rw [found]
    refine ⟨rfl, rfl, nofun, fun v hv => ?_⟩
    cases hv
    refine ⟨⟨mem_stagesOf.1 (parts ▸ List.mem_append_right _ (List.mem_cons_self ..)), below⟩, fun a ha k => ?_,
      State.beginsStage_upkeepWork site epoch hr, high, ?_⟩
    · exact full a (low ▸ List.mem_filter.2 ⟨mem_stagesOf.2 k.1, decide_eq_true ha⟩) k.2
    · refine (State.passedStages_congr site l).trans (congrArg s.passedStages low)

/-! ### The delivery -/

/-- The outcome of a REFILL SPARES: PARTIAL where a stage has ended short (R93). -/
def refillOutcome (short : Bool) : OrderOutcome × Reason := if short then (.part, .noCandidate) else (.done, .none)

theorem State.endRefill_eq (x : State) (w : RefillWork) : x.endRefill w = (x.draw 8).conclude w.order
    (refillOutcome (w.finished.any RefillResult.short)).1 (refillOutcome (w.finished.any RefillResult.short)).2
    (BitVec.ofNat 32 w.evaluations) [x.refillResult w] := by
  unfold State.endRefill refillOutcome
  split <;> rfl

theorem refillOutcome_eq (short : Bool) :
    refillOutcome short = (if short then .part else .done, if short then .noCandidate else .none) := by
  cases short <;> rfl

/-- A REFILL SPARES that ends in a state its event has reached by reports and with changed lists. -/
theorem State.runs.endsRefill {s y : State} {w v : RefillWork} (h : s.runs (.refill w)) (order : v.order = w.order)
    {p : Port} {q : Reports} {l : Vector (List Spare) 8} (rest : y = { s with spares := l, port := p, reports := q })
    (k : s.port.Keeps y.port) (r : s.port.Reports y.port) :
    let t := s.finish (y.endRefill v)
    let short := v.finished.any RefillResult.short
    (y.draw 8).Concluded t ∧ s.rests t [] ∧ t.free = s.free + 8 ∧
      s.ends t w.order (refillOutcome short).1 (refillOutcome short).2 (BitVec.ofNat 32 v.evaluations) [y.refillResult v] ∧
      y.aloneWith t w.order (refillOutcome short).1 [y.refillResult v] := by
  dsimp only
  have hl : ∀ l ∈ [y.refillResult v], l.length ≤ 240 := fun l m => by
    rw [List.mem_singleton.1 m]
    exact State.refillResult_length _ _
  rw [State.endRefill_eq, order]
  have reached := s.concluded (y.draw 8) w.order (refillOutcome (v.finished.any RefillResult.short)).1
    (refillOutcome (v.finished.any RefillResult.short)).2 (BitVec.ofNat 32 v.evaluations) [y.refillResult v]
  have now : (y.draw 8).now = s.now := (congrArg State.now rest :)
  have pending : (y.draw 8).pending = s.pending := (congrArg State.pending rest :)
  refine ⟨reached, State.rests_of (x := y.draw 8) h.idle (congrArg State.engine rest :) reached now pending,
    reached.free.trans (congrArg (fun y : State => y.free + 8) rest :), h.ends (x := y.draw 8) rfl _ _ _ _ k r now pending hl,
    State.aloneWith_congr (h.alone (x := y.draw 8) rfl _ _ _ _ k r hl) rfl rfl⟩

/-! ### A step -/

theorem exec_refillSparesStep {s : State} {w : RefillWork} (h : s.running = some (.refill w)) :
    exec .refillSparesStep s = .next (s.finish (s.refillStep w)).arbitrate := by
  show execRefillSparesStep s = _
  unfold execRefillSparesStep
  rw [h]

theorem State.refillStep_none {s : State} {w : RefillWork} (h : w.current = none) : s.refillStep w = s.endRefill w := by
  unfold State.refillStep
  rw [h]

section

variable {s : State} {w : RefillWork} {v : UpkeepWork} (h : w.current = some v)
include h

theorem State.refillStep_goes (goes : (s.upkeepUnit v).1.upkeepOver (s.upkeepUnit v).2 = false) :
    s.refillStep w = (s.upkeepUnit v).1.yieldWith (.refill { w with current := some (s.upkeepUnit v).2 }) := by
  unfold State.refillStep
  rw [h]
  dsimp only
  rw [goes]
  rfl

theorem State.refillStep_ends (ends : (s.upkeepUnit v).1.upkeepOver (s.upkeepUnit v).2 = true) :
    s.refillStep w = ((s.upkeepUnit v).1.markShort v.stage).refillOn (((s.upkeepUnit v).1.markShort v.stage).seek
      (((s.upkeepUnit v).1.markShort v.stage).stageDone w (s.upkeepUnit v).2) w.rest) := by
  unfold State.refillStep
  rw [h]
  dsimp only
  rw [ends]
  rfl

end

/-- The result of a stage whose work has ended (R93). -/
def State.stageResult (x : State) (v : UpkeepWork) : RefillResult :=
  { stage := v.stage, evaluations := v.evaluations, short := !x.atTarget v.stage }

/-- Stages gone past add nothing to what is reported of the others. -/
theorem RefillWork.found_passed (w : RefillWork) (s : State) (f : List RefillResult) (l : List (Fin 8)) (b : Fin 8) :
    RefillWork.found { w with current := none, rest := [], finished := f ++ s.passedStages l } b =
      RefillWork.found { w with current := none, finished := f } b := by
  unfold RefillWork.found
  rw [List.find?_append]
  cases (f.find? fun x => x.stage = b) with
  | some x => rfl
  | none =>
    cases e : (s.passedStages l).find? fun x => x.stage = b with
    | none => rfl
    | some x =>
      obtain ⟨c, -, rfl⟩ := List.mem_map.1 (List.mem_of_find?_eq_some e)
      rfl

theorem State.passedStages_sum (s : State) (l : List (Fin 8)) : ((s.passedStages l).map RefillResult.evaluations).sum = 0 := by
  unfold State.passedStages
  rw [List.map_map]
  exact List.sum_eq_zero fun n hn => by
    obtain ⟨b, -, rfl⟩ := List.mem_map.1 hn
    rfl

theorem State.passedStages_short (s : State) (l : List (Fin 8)) : (s.passedStages l).any RefillResult.short = false := by
  unfold State.passedStages
  rw [List.any_map, List.any_eq_false]
  exact fun b _ => Bool.false_ne_true

theorem State.refillResult_congr {x y : State} {w v : RefillWork} (site : y.site = x.site) (spares : y.spares = x.spares)
    (free : y.free = x.free) (mask : v.mask = w.mask) (found : ∀ b, v.found b = w.found b) :
    y.refillResult v = (stagesOf w.mask).flatMap (x.refillRecord w) := by
  unfold State.refillResult
  rw [mask]
  refine congrArg (List.flatMap · (stagesOf w.mask)) (funext fun b => ?_)
  unfold State.refillRecord State.targetByte State.freeByte
  rw [site, spares, free, found]

end Sys2Proof.Machine
end


section
/-! REFILL SPARES: the three ways a step can end (R93). -/

namespace Sys2Proof.Machine

/-- What a step of a REFILL SPARES leaves of the blocks, from the state `x` that its unit has reached. -/
def State.RefillStepped (s x t : State) : Prop :=
  t.site = s.site ∧ t.plan = s.plan ∧ t.census = s.census ∧ t.spares = x.spares ∧ s.sameSpectrum t

section

variable {s x : State} {w : RefillWork} {v u : UpkeepWork} (hw : w.current = some v) (unit : s.upkeepUnit v = (x, u))
include hw unit

theorem State.refillGoes (goes : x.upkeepOver u = false) :
    let t := s.finish (s.refillStep w)
    s.RefillStepped x t ∧ s.samePort t ∧ t.reports = s.reports ∧ t.free = s.free ∧
      s.yields t (.refill { w with current := some u }) [] := by
  have rest := (s.upkeepUnit_done v).rest
  have step := State.refillStep_goes (s := s) hw
  rw [unit] at rest step
  dsimp only at rest step ⊢
  rw [step goes, rest]
  exact ⟨⟨rfl, rfl, rfl, rfl, rfl, rfl⟩, rfl, rfl, rfl, State.yields_of rfl rfl rfl rfl s⟩

omit hw in
/-- The state that marks the stage whose work has ended, if it has ended short. -/
theorem State.unitMarked : ∃ p q, x.markShort v.stage = { s with spares := x.spares, port := p, reports := q } ∧
    s.port.Keeps (x.markShort v.stage).port ∧ s.port.Reports (x.markShort v.stage).port := by
  have rest := (s.upkeepUnit_done v).rest
  rw [unit] at rest
  dsimp only at rest
  have emits := x.markShort_emits v.stage
  obtain ⟨p, q, marked⟩ := emits.rest
  have port : x.port = s.port := (congrArg State.port rest :)
  exact ⟨p, q, marked.trans (congrArg (fun y : State => { y with port := p, reports := q }) rest), port ▸ emits.keeps,
    port ▸ emits.reports⟩

variable (ends : x.upkeepOver u = true)
include ends

/-- The work on the stages ahead, once one stage is done. -/
theorem State.stageDone_next : ∃ p q, x.markShort v.stage = { s with spares := x.spares, port := p, reports := q } ∧
    s.port.Keeps (x.markShort v.stage).port ∧ s.port.Reports (x.markShort v.stage).port ∧
    (∀ b, (x.markShort v.stage).shortOf b ↔ (x.spares[b]).length < s.site.target b) ∧
    s.refillStep w = (x.markShort v.stage).refillOn ((x.markShort v.stage).seek { w with
      current := none
      finished := w.finished ++ [{ stage := v.stage, evaluations := u.evaluations, short := !x.atTarget v.stage }] } w.rest) := by
  obtain ⟨p, q, marked, keeps, moved⟩ := State.unitMarked unit
  have done := s.upkeepUnit_done v
  have step := State.refillStep_ends (s := s) hw
  rw [unit] at step done
  have stage : u.stage = v.stage := done.stage
  have site : x.site = s.site := (congrArg State.site done.rest :)
  refine ⟨p, q, marked, keeps, moved, fun b => ?_, (step ends).trans ?_⟩
  · unfold State.shortOf
    rw [marked]
  · have full : (x.markShort v.stage).atTarget v.stage = x.atTarget v.stage := by
      unfold State.atTarget
      rw [marked, site]
    unfold State.stageDone
    dsimp only
    rw [stage, full]

/-- The next stage below its target follows. -/
theorem State.refillNext {l l' : List (Fin 8)} {b : Fin 8} (parts : w.rest = l ++ b :: l')
    (short : (x.spares[b]).length < s.site.target b) (full : ∀ a ∈ l, ¬ (x.spares[a]).length < s.site.target a) :
    let t := s.finish (s.refillStep w)
    s.RefillStepped x t ∧ s.reportsOnly t ∧ t.free = s.free ∧
      (x.atTarget v.stage = true → s.samePort t ∧ t.reports = s.reports) ∧
      (x.atTarget v.stage = false → State.marks { s with spares := t.spares } t (.stage v.stage) sparesShortFlag ∧
        (s.heldBack → t.flagged (.stage v.stage) sparesShortFlag)) ∧
      ∃ u', u'.stage = b ∧ s.beginsStage u' ∧ s.yields t (.refill { w with
        current := some u', rest := l'
        finished := w.finished ++ [{ stage := v.stage, evaluations := u.evaluations, short := !x.atTarget v.stage }] ++
          s.passedStages l }) [] := by
  obtain ⟨p, q, marked, keeps, moved, below, step⟩ := State.stageDone_next hw unit ends
  have rest := (s.upkeepUnit_done v).rest
  rw [unit] at rest
  dsimp only at rest ⊢
  obtain ⟨r, hr⟩ := State.shortOf_defined ((below b).2 short)
  rw [parts, State.seek_next _ (fun a ha k => full a ha ((below a).1 k)) hr ((below b).2 short)] at step
  have site : (x.markShort v.stage).site = s.site := (congrArg State.site marked :)
  have epoch : (x.markShort v.stage).plan.epoch = s.plan.epoch := (congrArg (fun y : State => y.plan.epoch) marked :)
  rw [State.passedStages_congr site] at step
  have goes : s.refillStep w = (x.markShort v.stage).yieldWith (.refill { w with
      current := some ((x.markShort v.stage).upkeepWork b r 0), rest := l'
      finished := w.finished ++ [{ stage := v.stage, evaluations := u.evaluations, short := !x.atTarget v.stage }] ++
        s.passedStages l }) := step
  have ⟨_, run, _⟩ := keeps
  rw [goes]
  refine ⟨⟨site, (congrArg State.plan marked :), (congrArg State.census marked :), (congrArg State.spares marked :),
    (congrArg State.links marked :), (congrArg State.zones marked :)⟩, State.reportsOnly_of keeps moved rfl,
    (congrArg State.free marked :), fun at' => ?_,
    fun low => State.short_marks rest low (congrArg State.spares marked :) rfl rfl, _, rfl,
    State.beginsStage_upkeepWork site epoch hr, State.yields_of (s := s) (congrArg State.engine marked :) run
      (congrArg State.now marked :) (congrArg State.pending marked :) s⟩
  have same := State.markShort_full at'
  exact ⟨State.samePort_of rfl ((congrArg State.port same).trans (congrArg State.port rest :)),
    (congrArg State.reports same).trans (congrArg State.reports rest :)⟩

/-- The order is delivered. -/
theorem State.runs.refillEnds (h : s.runs (.refill w)) (full : ∀ b ∈ w.rest, ¬ (x.spares[b]).length < s.site.target b) :
    let t := s.finish (s.refillStep w)
    let short : Bool := w.finished.any RefillResult.short || !x.atTarget v.stage
    let bytes := (stagesOf w.mask).flatMap (x.refillRecord { w with
      current := none
      finished := w.finished ++ [{ stage := v.stage, evaluations := u.evaluations, short := !x.atTarget v.stage }] })
    s.RefillStepped x t ∧ s.rests t [] ∧ t.free = s.free + 8 ∧
      s.ends t w.order (refillOutcome short).1 (refillOutcome short).2
        (BitVec.ofNat 32 ((w.finished.map RefillResult.evaluations).sum + u.evaluations)) [bytes] ∧
      (x.markShort v.stage).aloneWith t w.order (refillOutcome short).1 [bytes] ∧
      (x.atTarget v.stage = false → s.heldBack → t.flagged (.stage v.stage) sparesShortFlag) := by
  obtain ⟨p, q, marked, keeps, moved, below, step⟩ := State.stageDone_next hw unit ends
  have rest := (s.upkeepUnit_done v).rest
  rw [unit] at rest
  dsimp only at rest ⊢
  rw [State.seek_none _ fun a ha k => full a ha ((below a).1 k)] at step
  let last : RefillResult := { stage := v.stage, evaluations := u.evaluations, short := !x.atTarget v.stage }
  let done : RefillWork := { w with
    current := none, rest := []
    finished := w.finished ++ [last] ++ (x.markShort v.stage).passedStages w.rest }
  have delivers : s.refillStep w = (x.markShort v.stage).endRefill done := step
  have total : done.evaluations = (w.finished.map RefillResult.evaluations).sum + u.evaluations := by
    show (((w.finished ++ [last] ++ _).map RefillResult.evaluations).sum + 0 : Nat) = _
    rw [List.map_append, List.map_append, List.sum_append, List.sum_append, State.passedStages_sum]
    rfl
  have short : done.finished.any RefillResult.short = (w.finished.any RefillResult.short || !x.atTarget v.stage) := by
    show (w.finished ++ [last] ++ _).any RefillResult.short = _
    rw [List.any_append, List.any_append, State.passedStages_short, Bool.or_false]
    exact congrArg (w.finished.any RefillResult.short || ·) (Bool.or_false _)
  have bytes := State.refillResult_congr (x := x) (y := x.markShort v.stage)
    (w := { w with current := none, finished := w.finished ++ [last] }) (v := done)
    ((congrArg State.site marked).trans (congrArg State.site rest :).symm) (congrArg State.spares marked :)
    ((congrArg State.free marked).trans (congrArg State.free rest :).symm) rfl
    (w.found_passed (x.markShort v.stage) (w.finished ++ [last]) w.rest)
  obtain ⟨reached, rests, free, ended, alone⟩ := h.endsRefill (v := done) rfl marked keeps moved
  rw [total, short, bytes, ← delivers] at ended
  rw [short, bytes, ← delivers] at alone
  rw [← delivers] at reached rests free
  refine ⟨⟨reached.site.trans (congrArg State.site marked :), reached.plan.trans (congrArg State.plan marked :),
    reached.census.trans (congrArg State.census marked :), reached.spares.trans (congrArg State.spares marked :),
    reached.links.trans (congrArg State.links marked :), reached.zones.trans (congrArg State.zones marked :)⟩,
    rests, free, ended, alone, fun low held => ?_⟩
  have loud : w.order.silent (refillOutcome (w.finished.any RefillResult.short || !x.atTarget v.stage)).1 = false := by
    rw [low, Bool.not_false, Bool.or_true]
    exact w.order.silent_part
  have flagged := (State.short_marks (b := v.stage) (t := x.markShort v.stage) rest low (congrArg State.spares marked :)
    rfl rfl).2 held
  exact State.flagged_of_reports flagged (alone.1 loud).1

end

theorem State.takenIn_of {s t : State} {o : Handed} {p : Port}
    (e : t.port = { p with header := t.port.header, line := t.port.line }) (same : p = s.port.setCells o.cells .active) :
    s.takenIn t o := by
  rw [same] at e
  exact e

end Sys2Proof.Machine

open Sys2Proof Sys2Proof.Machine

/-- Settles O40. -/
theorem refillWorksStages : Obligations.RefillWorksStages := by
  refine ⟨fun s o h some' few => ?takeUp, fun s w v h hw => ?step, fun s w h hw => ?delivery⟩
  case takeUp =>
    let mask : BitVec 8 := BitVec.ofNat 8 (s.param o 0 1)
    let y := (s.begin false o).flushed mask (s.param o 1 1)
    obtain ⟨l, rest⟩ := (s.begin false o).flushed_rest mask (s.param o 1 1)
    have begins := refillSparesOrder_begins (x := s.begin false o) (o := o) (by rw [State.begin_param]; exact some')
      (by rw [State.begin_param]; exact few)
    rw [State.begin_param, State.begin_param] at begins
    obtain ⟨order, mask', none, found⟩ := State.refillFound (s := s) (y := y) (congrArg State.site rest :)
      (congrArg (fun x : State => x.plan.epoch) rest :) o mask
    have engine : y.engine = s.engine.begin false := (congrArg State.engine rest :)
    have port : y.port = s.port.setCells o.cells .active := (congrArg State.port rest :)
    refine ⟨_, y.seek (refillOf o mask) (stagesOf mask), h.run begins, ⟨⟨(congrArg State.now rest :),
      (congrArg State.pending rest :)⟩, ?_⟩, order, mask', (congrArg State.site rest :), (congrArg State.plan rest :),
      (congrArg State.census rest :), ⟨(congrArg State.links rest :), (congrArg State.zones rest :)⟩,
      State.takenIn_of rfl port, (congrArg State.reports rest :), (congrArg State.free rest :), fun b => ?_, none, found⟩
    · exact (congrArg (fun e : Engine => { e with
        routineContext := .running (.refill (y.seek (refillOf o mask) (stagesOf mask))) }) engine :)
    · rw [mask']
      exact (s.begin false o).flushed_get few mask b
  case step =>
    have rest := (s.upkeepUnit_done v).rest
    generalize unit : s.upkeepUnit v = z at rest
    obtain ⟨x, u⟩ := z
    dsimp only at rest ⊢
    have site : x.site = s.site := (congrArg State.site rest :)
    have marked : (if x.atTarget v.stage = true then ({ s with spares := x.spares } : State) else
        State.mark { s with spares := x.spares } (.stage v.stage) sparesShortFlag) = x.markShort v.stage := by
      rw [← rest]
      rfl
    have below : ∀ b, x.shortOf b ↔ (x.spares[b]).length < s.site.target b := fun b => by
      unfold State.shortOf
      rw [site]
    have blocks : s.RefillStepped x (s.finish (s.refillStep w)) := by
      cases over' : x.upkeepOver u with
      | false => exact (State.refillGoes hw unit over').1
      | true =>
        rcases x.first_short w.rest with full | ⟨l, b, l', parts, short, full⟩
        · exact (h.refillEnds hw unit over' fun b m k => full b m ((below b).2 k)).1
        · exact (State.refillNext hw unit over' parts ((below b).1 short) fun a m k => full a m ((below a).2 k)).1
    obtain ⟨site', plan, census, spares, spectrum⟩ := blocks
    rw [marked]
    refine ⟨_, exec_refillSparesStep h.1, site', plan, census, spares, spectrum, fun goes => (State.refillGoes hw unit goes).2,
      fun l b l' ends parts short full => (State.refillNext hw unit ends parts short full).2, fun ends full => ?_⟩
    have delivered := (h.refillEnds hw unit ends full).2
    simp only [refillOutcome_eq] at delivered
    exact delivered
  case delivery =>
    have run := exec_refillSparesStep h.1
    rw [State.refillStep_none hw] at run
    obtain ⟨reached, rests, free, ends, alone⟩ := h.endsRefill (y := s) (v := w) rfl (p := s.port) (q := s.reports)
      (l := s.spares) rfl (.refl _) (.refl _)
    simp only [refillOutcome_eq] at ends alone
    have total : w.evaluations = (w.finished.map RefillResult.evaluations).sum := by
      unfold RefillWork.evaluations
      rw [hw]
      rfl
    rw [total] at ends
    exact ⟨_, run, ⟨⟨reached.site, reached.plan, reached.census, reached.spares⟩, ⟨reached.links, reached.zones⟩,
      ⟨reached.now, reached.pending⟩⟩, rests, free, ends, alone⟩

end


section
/-! What an event adds to the two lists of the engine: AUTO-MOVE entries of channels that have none, and internal routine
entries that are not queued yet. So an event queues a bounded number of them (R88, R98, R132). -/

namespace Sys2Proof.Machine

/-- The channel of an AUTO-MOVE entry. -/
def Entry.moves : Entry → Option (Fin 256)
  | .autoMove c _ => some c
  | .order _ | .rebuild | .upkeep _ => none

/-- Whether an entry is one that an event may queue on the routine list. -/
def Entry.isChore : Entry → Bool
  | .rebuild | .upkeep _ => true
  | .order _ | .autoMove _ _ => false

/-- AUTO-MOVE entries of different channels, of which none has an entry on the urgent list (R98). -/
structure Engine.NewMoves (e : Engine) (l : List Entry) : Prop where
  move : ∀ x ∈ l, x.moves.isSome = true
  once : (l.map Entry.moves).Nodup
  fresh : ∀ x ∈ l, ∀ y ∈ e.urgent, y.moves ≠ x.moves

/-- Different REBUILD and UPKEEP entries, of which none stands on the routine list (R44, R88). -/
structure Engine.NewChores (e : Engine) (l : List Entry) : Prop where
  chore : ∀ x ∈ l, x.isChore = true
  once : l.Nodup
  fresh : ∀ x ∈ l, x ∉ e.routine

/-- An engine whose lists have gained entries of these kinds, and nothing else has changed. -/
def Engine.Gains (e f : Engine) : Prop :=
  ∃ m l : List Entry, e.NewMoves m ∧ e.NewChores l ∧ f = { e with urgent := e.urgent ++ m, routine := e.routine ++ l }

theorem Engine.NewMoves.nil (e : Engine) : e.NewMoves [] := ⟨nofun, List.nodup_nil, nofun⟩

theorem Engine.NewChores.nil (e : Engine) : e.NewChores [] := ⟨nofun, List.nodup_nil, nofun⟩

theorem Engine.NewMoves.load {e : Engine} {l : List Entry} (h : e.NewMoves l) : (l.map Entry.load).sum ≤ 16 * 257 := by
  have few : l.length ≤ 257 := by simpa using h.once.length_le_card
  have each : ∀ n ∈ l.map Entry.load, n ≤ 16 := fun n hn => by
    obtain ⟨x, hx, rfl⟩ := List.mem_map.1 hn
    have is := h.move x hx
    cases x with
    | autoMove c f => exact le_rfl
    | order o => cases is
    | rebuild => cases is
    | upkeep b => cases is
  have bound := List.sum_le_card_nsmul _ _ each
  rw [List.length_map, smul_eq_mul] at bound
  omega

theorem Engine.NewChores.load {e : Engine} {l : List Entry} (h : e.NewChores l) : (l.map Entry.load).sum ≤ 9 := by
  have within : l ⊆ .rebuild :: allStages.map Entry.upkeep := fun x hx => by
    have is := h.chore x hx
    cases x with
    | rebuild => exact List.mem_cons_self
    | upkeep b => exact List.mem_cons_of_mem _ (List.mem_map_of_mem (mem_allStages b))
    | order o => cases is
    | autoMove c f => cases is
  have few : l.length ≤ 9 := (h.once.subperm within).length_le
  have each : ∀ n ∈ l.map Entry.load, n ≤ 1 := fun n hn => by
    obtain ⟨x, hx, rfl⟩ := List.mem_map.1 hn
    have is := h.chore x hx
    cases x with
    | rebuild => exact le_rfl
    | upkeep b => exact le_rfl
    | order o => cases is
    | autoMove c f => cases is
  have bound := List.sum_le_card_nsmul _ _ each
  rw [List.length_map, smul_eq_mul] at bound
  omega

namespace Engine.Gains

theorem refl (e : Engine) : e.Gains e := ⟨[], [], .nil e, .nil e, by simp⟩

theorem trans {e f g : Engine} (h : e.Gains f) (k : f.Gains g) : e.Gains g := by
  obtain ⟨m, l, hm, hl, rfl⟩ := h
  obtain ⟨m', l', km, kl, rfl⟩ := k
  refine ⟨m ++ m', l ++ l', ⟨fun x hx => ?_, ?_, fun x hx y hy => ?_⟩, ⟨fun x hx => ?_, ?_, fun x hx => ?_⟩, by simp⟩
  · exact (List.mem_append.1 hx).elim (hm.move x) (km.move x)
  · rw [List.map_append]
    refine hm.once.append km.once fun c hc hc' => ?_
    obtain ⟨y, hy, rfl⟩ := List.mem_map.1 hc
    obtain ⟨x, hx, same⟩ := List.mem_map.1 hc'
    exact km.fresh x hx y (List.mem_append_right _ hy) same.symm
  · exact (List.mem_append.1 hx).elim (fun hx => hm.fresh x hx y hy)
      fun hx => km.fresh x hx y (List.mem_append_left _ hy)
  · exact (List.mem_append.1 hx).elim (hl.chore x) (kl.chore x)
  · exact hl.once.append kl.once fun x hx hx' => kl.fresh x hx' (List.mem_append_right _ hx)
  · exact (List.mem_append.1 hx).elim (hl.fresh x) fun hx hx' => kl.fresh x hx (List.mem_append_left _ hx')

theorem chores {e f : Engine} {l : List Entry} (h : e.NewChores l) (eq : f = { e with routine := e.routine ++ l }) :
    e.Gains f := ⟨[], l, .nil e, h, by rw [eq]; simp⟩

theorem moves {e f : Engine} {m : List Entry} (h : e.NewMoves m) (eq : f = { e with urgent := e.urgent ++ m }) :
    e.Gains f := ⟨m, [], h, .nil e, by rw [eq]; simp⟩

theorem contexts {e f : Engine} (h : e.Gains f) :
    f.urgentContext = e.urgentContext ∧ f.routineContext = e.routineContext := by
  obtain ⟨m, l, -, -, rfl⟩ := h
  exact ⟨rfl, rfl⟩

/-- What an event adds is no more than one order may add (R132). -/
theorem load {e f : Engine} (h : e.Gains f) : f.load ≤ e.load + 4121 := by
  obtain ⟨m, l, hm, hl, rfl⟩ := h
  have a := hm.load
  have b := hl.load
  simp only [Engine.load, List.map_append, List.sum_append]
  omega

/-- What an event adds to the routine list alone is one entry for each stage and a REBUILD at most. -/
theorem load_routine {e f : Engine} (h : e.Gains f) (k : e.Grows f) : f.load ≤ e.load + 9 := by
  obtain ⟨m, l, -, hl, rfl⟩ := h
  obtain ⟨l', -, eq⟩ := k
  have same : e.urgent ++ m = e.urgent := congrArg Engine.urgent eq
  obtain rfl : m = [] := by simpa using same
  have b := hl.load
  simp only [Engine.load, List.map_append, List.sum_append, List.map_nil, List.sum_nil]
  omega

end Engine.Gains

/-! ### What queues the entries -/

theorem allStages_nodup : allStages.Nodup := by decide

theorem stagesOf_nodup (mask : BitVec 8) : (stagesOf mask).Nodup := allStages_nodup.filter _

theorem upkeep_injective : Function.Injective Entry.upkeep := fun _ _ h => Entry.upkeep.inj h

theorem State.upkeepEntries_new (s : State) {l : List (Fin 8)} (once : l.Nodup) :
    s.engine.NewChores (s.upkeepEntries l) where
  chore := fun x hx => by
    obtain ⟨b, -, rfl⟩ := List.mem_map.1 hx
    rfl
  once := (once.filter _).map upkeep_injective
  fresh := fun x hx => by
    obtain ⟨b, hb, rfl⟩ := List.mem_map.1 hx
    obtain ⟨-, absent, -⟩ := (s.needsUpkeep_iff b).1 (List.mem_filter.1 hb).2
    exact absent

theorem State.gains_queueUpkeep (s : State) {l : List (Fin 8)} (once : l.Nodup) :
    s.engine.Gains (s.queueUpkeep l).engine := .chores (s.upkeepEntries_new once) rfl

theorem State.gains_recheck (s : State) {l : List (Fin 8)} (once : l.Nodup) : s.engine.Gains (s.recheck l).engine :=
  State.gains_queueUpkeep { s with spares := l.foldl (fun v (b : Fin 8) => v.set b (s.rechecked b)) s.spares } once

theorem State.gains_queueRebuild (s : State) : s.engine.Gains s.queueRebuild.engine := by
  unfold State.queueRebuild
  split
  · exact .refl _
  · next absent =>
    exact .chores (l := [.rebuild]) ⟨by simp [Entry.isChore], List.nodup_singleton _, by simpa using absent⟩ rfl

theorem Engine.joined_new (e f : Engine) : e.NewChores (e.joined f) where
  chore := fun x hx => by
    obtain ⟨b, -, rfl⟩ := List.mem_map.1 hx
    rfl
  once := (allStages_nodup.filter _).map upkeep_injective
  fresh := fun x hx => by
    obtain ⟨b, -, rfl⟩ := List.mem_map.1 hx
    exact ((e.mem_joined f b).1 hx).1

/-- Putting the entries of an event in order leaves what they are. -/
theorem State.gains_inStageOrder {s t : State} (h : s.engine.Gains t.engine) :
    s.engine.Gains (s.inStageOrder t).engine := by
  obtain ⟨m, l, hm, -, eq⟩ := h
  exact ⟨m, _, hm, s.engine.joined_new t.engine, by rw [State.inStageOrder_engine, eq]⟩

theorem State.hitMoves_new (s : State) (z : Fin 4) (j : Fin 64) : s.engine.NewMoves (s.hitMoves z j) where
  move := fun x hx => by
    obtain ⟨c, r, f, -, -, -, -, -, -, rfl⟩ := (s.mem_hitMoves z j).1 hx
    rfl
  once := by
    rw [List.Nodup, List.pairwise_map]
    refine (s.hitMoves_ascending z j).imp_of_mem fun {x y} hx hy below same => ?_
    obtain ⟨c, -, f, -, -, -, -, -, -, rfl⟩ := (s.mem_hitMoves z j).1 hx
    obtain ⟨d, -, g, -, -, -, -, -, -, rfl⟩ := (s.mem_hitMoves z j).1 hy
    exact absurd (Option.some.inj same) (ne_of_lt (below c f d g rfl rfl))
  fresh := fun x hx y hy same => by
    obtain ⟨c, r, f, -, -, -, -, -, new, rfl⟩ := (s.mem_hitMoves z j).1 hx
    cases y with
    | autoMove d g =>
      obtain rfl : d = c := Option.some.inj same
      exact new g hy
    | order o => cases same
    | rebuild => cases same
    | upkeep b => cases same

end Sys2Proof.Machine
end


section
/-! What the middle of an event does to the orders in the machine (`State.Attends`): the engine gains entries of its own, the
contexts and the probe slots stay, and a cell that is not FREE keeps its state. -/

namespace Sys2Proof.Machine

/-- The handed orders of the machine are left where they are, with their cells. -/
structure State.Attends (s t : State) : Prop where
  engine : s.engine.Gains t.engine
  slots : ∀ z : Fin 4, t.links[z].slot = s.links[z].slot
  reset : t.port.reset = s.port.reset
  run : t.port.run = s.port.run
  cells : ∀ c, s.port.cell c ≠ some .free → t.port.cell c = s.port.cell c

namespace State.Attends

theorem refl (s : State) : s.Attends s := ⟨.refl _, fun _ => rfl, rfl, rfl, fun _ _ => rfl⟩

theorem trans {s t u : State} (h : s.Attends t) (k : t.Attends u) : s.Attends u :=
  ⟨h.engine.trans k.engine, fun z => (k.slots z).trans (h.slots z), k.reset.trans h.reset, k.run.trans h.run,
    fun c used => (k.cells c ((h.cells c used).symm ▸ used)).trans (h.cells c used)⟩

/-- An update of the blocks that hold no order. -/
theorem of_gains {s t : State} (engine : s.engine.Gains t.engine) (links : t.links = s.links) (port : t.port = s.port) :
    s.Attends t := ⟨engine, fun z => by rw [links], by rw [port], by rw [port], fun c _ => by rw [port]⟩

theorem of_eq {s t : State} (engine : t.engine = s.engine) (links : t.links = s.links) (port : t.port = s.port) :
    s.Attends t := of_gains (by rw [engine]; exact .refl _) links port

theorem of_keeps {s t : State} (h : s.Keeps t) (engine : t.engine = s.engine) (links : t.links = s.links) :
    s.Attends t := by
  obtain ⟨reset, run, -⟩ := h.port
  obtain ⟨cells, -, -⟩ := h.reports
  exact ⟨by rw [engine]; exact .refl _, fun z => by rw [links], reset, run, cells⟩

theorem mark {s t : State} (h : s.Attends t) (x : Subject) (f : Byte) (k : Option (Nat × Nat) := none) :
    s.Attends (t.mark x f k) :=
  h.trans (of_keeps (t.keeps_mark x f k) (State.mark_engine _ _ _ _) (State.mark_links _ _ _ _))

theorem attempt {s t : State} (h : s.Attends t) : s.Attends t.attempt :=
  h.trans (of_keeps t.keeps_attempt (State.attempt_engine _) (State.attempt_links _))

theorem marks {α : Type} {s t : State} (h : s.Attends t) (f : State → α → State)
    (hf : ∀ (t : State) (a : α), t.Attends (f t a)) (l : List α) : s.Attends (l.foldl f t) := by
  induction l generalizing t with
  | nil => exact h
  | cons a l ih => exact ih (h.trans (hf t a))

theorem plan {s t : State} (h : s.Attends t) (p : Plan) : s.Attends { t with plan := p } :=
  h.trans (of_eq rfl rfl rfl)

theorem draw {s t : State} (h : s.Attends t) (n : Nat) : s.Attends (t.draw n) := h.trans (of_eq rfl rfl rfl)

theorem onZone {s t : State} (h : s.Attends t) (z : Fin 4) (f : Zone → Zone) : s.Attends (t.onZone z f) :=
  h.trans (of_eq rfl rfl rfl)

theorem onLink {s t : State} (h : s.Attends t) (z : Fin 4) (f : Link → Link) (hf : ∀ l, (f l).slot = l.slot) :
    s.Attends (t.onLink z f) := by
  refine h.trans ⟨.refl _, fun y => ?_, rfl, rfl, fun _ _ => rfl⟩
  rw [State.onLink_links, vector_set_get]
  split
  · next same => rw [hf, same]
  · rfl

theorem inStageOrder {s t : State} (h : s.Attends t) : s.Attends (s.inStageOrder t) :=
  ⟨State.gains_inStageOrder h.engine, h.slots, h.reset, h.run, h.cells⟩

/-! ### The plan-change path -/

theorem queueUpkeep {s t : State} (h : s.Attends t) {l : List (Fin 8)} (once : l.Nodup) :
    s.Attends (t.queueUpkeep l) := h.trans (of_gains (t.gains_queueUpkeep once) rfl rfl)

theorem recheck {s t : State} (h : s.Attends t) {l : List (Fin 8)} (once : l.Nodup) : s.Attends (t.recheck l) :=
  h.trans (of_gains (t.gains_recheck once) rfl rfl)

theorem stale {s t : State} (h : s.Attends t) (k : CensusCause) : s.Attends (t.stale k) :=
  h.trans ⟨.refl _, fun _ => rfl, by unfold State.stale; dsimp only; split <;> rfl,
    by unfold State.stale; dsimp only; split <;> rfl, fun c _ => by unfold State.stale; dsimp only; split <;> rfl⟩

theorem census {s t : State} (h : s.Attends t) (c : Census) : s.Attends { t with census := c } :=
  h.trans (of_eq rfl rfl rfl)

theorem settle {s t : State} (h : s.Attends t) : s.Attends t.settle := (h.recheck allStages_nodup).plan _

theorem added {s t : State} (h : s.Attends t) (x : Transmitter) : s.Attends (t.added x) := by
  unfold State.added
  split
  · dsimp only
    split
    · exact ((h.census _).stale _).settle
    · exact (h.census _).settle
  · exact h.settle
  · exact h.settle

theorem removed {s t : State} (h : s.Attends t) (x : Transmitter) : s.Attends (t.removed x) := by
  unfold State.removed
  split
  · exact (h.census _).settle
  · exact h.settle
  · exact h.settle

theorem addPrimary {s t : State} (h : s.Attends t) (c : Fin 256) (r : ChannelRecord) (x : Hold) (f : Nat) :
    s.Attends (t.addPrimary c r x f) := added (t := { t with plan := t.plan.setHold c x }) (h.plan _) _

theorem removeStep {s t : State} (h : s.Attends t) (c : Fin 256) (r : ChannelRecord) (x : Hold) (k : Bool) (f : Nat) :
    s.Attends (t.removeStep c r x k f) := removed (t := { t with plan := t.plan.setHold c x }) (h.plan _) _

theorem setHold {s t : State} (h : s.Attends t) (c : Fin 256) (x : Hold) : s.Attends (t.setHold c x) := h.plan _

/-! ### The site orders -/

theorem ite {s t u : State} (p : Prop) [Decidable p] (ht : s.Attends t) (hu : s.Attends u) :
    s.Attends (if p then t else u) := by
  split
  · exact ht
  · exact hu

theorem goStale {s t : State} (h : s.Attends t) (z : Fin 4) : s.Attends (t.goStale z) := by
  refine onZone (onLink ?_ z Link.abandon fun l => ?_) z _
  · exact (h.onZone z _).mark _ _
  · unfold Link.abandon
    split <;> rfl

theorem windowChanged {s t : State} (h : s.Attends t) : s.Attends t.windowChanged :=
  queueUpkeep (t := { t with
    census := Census.cleared
    spares := Vector.replicate 8 []
    zones := mapTable Zone.newWindow t.zones }) (h.trans (of_eq rfl rfl rfl)) allStages_nodup

theorem modelChanged {s t : State} (h : s.Attends t) : s.Attends t.modelChanged := by
  refine recheck (ite _ ?_ h) allStages_nodup
  exact (h.stale _).trans (of_gains (State.gains_queueRebuild _) (State.queueRebuild_links _) (State.queueRebuild_port _))

theorem storeParameters (s : State) (w : Window) (p : Params) : s.Attends (s.storeParameters w p) := by
  have stored : s.Attends { s with site := s.site.store w p } := of_eq rfl rfl rfl
  have window := ite (s.site.window ≠ w) stored.windowChanged stored
  have model := ite (s.site.params.checkChange p = true) window.modelChanged window
  have reserve := ite (s.site.params.reserve ≠ p.reserve) model.attempt model
  refine ite (p.linkTimeout < s.site.params.linkTimeout) (reserve.marks _ (fun t z => ?_) _) reserve
  exact ite _ ((refl t).goStale z) (refl t)

theorem storeStage (s : State) (b : Fin 8) (r : StageRecord) : s.Attends (s.storeStage b r) := by
  unfold State.storeStage
  dsimp only
  split
  · refine queueUpkeep ?_ (List.nodup_singleton b)
    exact of_eq rfl rfl rfl
  · exact of_eq rfl rfl rfl

theorem addExclusionRecord (s : State) (e : Exclusion) : s.Attends (s.addExclusionRecord e) := by
  have marked : s.Attends (State.markConflicts
      { s with site := { s.site with exclusions := insertExclusion e s.site.exclusions }.bump } (s.conflicting e)) := by
    refine marks ?_ _ (fun t c => (refl t).mark (.channel c) conflictFlag) _
    exact of_eq rfl rfl rfl
  exact marked.recheck (stagesOf_nodup e.mask)

theorem dropExclusion (s : State) (e : Exclusion) : s.Attends (State.recheck
    { s with site := { s.site with exclusions := s.site.exclusions.erase e }.bump } (stagesOf e.mask)) := by
  refine recheck ?_ (stagesOf_nodup e.mask)
  exact of_eq rfl rfl rfl

theorem couple (s : State) (x : Site) : s.Attends (State.modelChanged { s with site := x }) :=
  modelChanged (of_eq rfl rfl rfl)

/-! ### The searches -/

theorem vacate (s : State) (c : Fin 256) (r : ChannelRecord) : s.Attends (s.vacate c r) := by
  unfold State.vacate
  split
  · exact (refl s).removeStep _ _ _ _ _
  · exact refl s

theorem pinned (s : State) (c : Fin 256) (r : ChannelRecord) (f : Nat) : s.Attends (s.pinned c r f) :=
  inStageOrder ((vacate s c r).addPrimary _ _ _ _)

theorem takeSpare {s t : State} (h : s.Attends t) (b : Fin 8) (f : Nat) : s.Attends (t.takeSpare b f) :=
  queueUpkeep (t := { t with spares := t.spares.set b (t.spares[b].eraseP fun x => x.step = f) })
    (h.trans (of_eq rfl rfl rfl)) (List.nodup_singleton b)

theorem replace (s : State) (c : Fin 256) (r : ChannelRecord) (f : Nat) (only : Bool) :
    s.Attends (s.replace c r f only).1 := by
  have vacated := vacate s c r
  unfold State.replace
  dsimp only
  split
  · refine inStageOrder (addPrimary ?_ _ _ _ _)
    split
    · exact vacated.takeSpare _ _
    · exact vacated
  · refine inStageOrder ?_
    unfold State.restore
    split
    · exact vacated.addPrimary _ _ _ _
    · exact vacated

theorem autoMove (s : State) (c : Fin 256) (f : Nat) : s.Attends (s.autoMove c f) := by
  unfold State.autoMove
  split
  · exact refl s
  · exact ite _ ((replace s c _ f false).mark _ _) (refl s)

theorem clearTentative (s : State) (e : StackEntry) : s.Attends (s.clearTentative e) := by
  unfold State.clearTentative
  split
  · exact (refl s).removeStep _ _ _ _ _
  · exact refl s

theorem rollback (s : State) (w : PlaceWork) : s.Attends (s.rollback w) :=
  plan (inStageOrder ((refl s).marks _ clearTentative _)) _

theorem commit (s : State) (w : PlaceWork) : s.Attends (s.commit w) := of_eq rfl rfl rfl

theorem backtracked (item : PlaceItem) (l : List StackEntry) (x : State × PlaceWork) :
    x.1.Attends (backtrack item l x).1 := by
  induction l generalizing item x with
  | nil => exact refl _
  | cons e below ih =>
    unfold backtrack
    dsimp only
    split
    · exact (clearTentative x.1 e).trans (ih _ (_, _))
    · exact clearTentative x.1 e

/-! ### Spare lists, the Watch and the spectrum -/

theorem fillOne (s : State) (w : UpkeepWork) (r : StageRecord) (x : Spare) : s.Attends (s.fillOne w r x).1 := by
  unfold State.fillOne
  dsimp only
  split
  · exact refl s
  · split
    · exact of_eq rfl rfl rfl
    · exact refl s

theorem upkeepUnit (s : State) (w : UpkeepWork) : s.Attends (s.upkeepUnit w).1 := by
  unfold State.upkeepUnit
  split
  · exact refl s
  · split
    · exact refl s
    · split
      · split
        · exact refl s
        · exact fillOne s w _ _
      · exact refl s

theorem markShort {s t : State} (h : s.Attends t) (b : Fin 8) : s.Attends (t.markShort b) := ite _ h (h.mark _ _)

theorem routeHit (s : State) (z : Fin 4) (j : Fin 64) (rise : Nat) : s.Attends (s.routeHit z j rise) := by
  have marked : s.Attends (s.markHits j rise (s.hitChannels z j)) := (refl s).marks _ (fun t e => (refl t).mark _ _ _) _
  have same : (s.markHits j rise (s.hitChannels z j)).engine = s.engine :=
    List.foldlRecOn (motive := fun t : State => t.engine = s.engine) _ _ rfl fun t ht e _ =>
      (State.mark_engine t _ _ _).trans ht
  have moved : s.Attends ((s.markHits j rise (s.hitChannels z j)).queueUrgent (s.hitMoves z j)) :=
    marked.trans (of_gains (.moves (same ▸ s.hitMoves_new z j) rfl) rfl rfl)
  unfold State.routeHit State.dropSpares
  refine queueUpkeep ?_ (allStages_nodup.filter _)
  exact moved.trans (of_eq rfl rfl rfl)

theorem routeHits (z : Fin 4) (l : List (Fin 64 × Option Nat)) (s : State) : s.Attends (s.routeHits z l) := by
  induction l generalizing s with
  | nil => exact refl s
  | cons x t ih =>
    obtain ⟨j, rise⟩ := x
    cases rise with
    | none => exact ih s
    | some n => exact (routeHit s z j n).trans (ih _)

theorem watchPeriodEnd (s : State) (z : Fin 4) : s.Attends (s.watchPeriodEnd z) :=
  inStageOrder (((refl s).onZone z _).trans (routeHits z _ _))

theorem periodEnd (s : State) (z : Fin 4) : s.Attends (s.periodEnd z) := by
  refine trans ?_ (watchPeriodEnd _ z)
  exact ite _ ((((refl s).onZone z _).onZone z _).mark _ _) ((refl s).onZone z _)

theorem validFrame (s : State) (z : Fin 4) : s.Attends (s.validFrame z) := by
  unfold State.validFrame
  dsimp only
  exact ((refl s).onLink z _ fun _ => by rfl).onZone z _

theorem sweepEnd (s : State) (z : Fin 4) (w : SweepWork) : s.Attends (s.sweepEnd z w) := by
  have ended : s.Attends (s.onLink z fun l => l.ended w.damaged) := (refl s).onLink z _ fun _ => rfl
  refine ite _ ended (ite _ ?_ (ended.onZone z _))
  exact (ended.onZone z _).trans (periodEnd _ z)

theorem sweepFrame (s : State) (z : Fin 4) (number first : Half) (stride flags : Byte) (levels : List Byte) :
    s.Attends (s.sweepFrame z number first stride flags levels) := by
  have assembled : ∀ x, s.Attends (s.onLink z fun l => l.assembled x) := fun x => (refl s).onLink z _ fun _ => rfl
  exact ite _ ((assembled _).trans (sweepEnd _ z _)) (assembled _)

end State.Attends
end Sys2Proof.Machine
end


section
/-! What the take-up of an order comes to (`State.Serves`): the order ends, or goes on in the routine context or on a link,
or ends with the target that it has cancelled. -/

namespace Sys2Proof.Machine

/-- The order that a kind of work belongs to when it is handed work of more than one event (R133). -/
def Work.kind : Work → Option OrderCode
  | .place _ => some .place
  | .check _ => some .checkList
  | .rebuild _ => some .rebuildCensus
  | .refill _ => some .refillSpares
  | .upkeep _ | .single => none

/-- What the procedure of an order comes to in the state where its context runs. -/
inductive State.Serves (x : State) (code : OrderCode) (o : Handed) : State → Prop
  | ends {y : State} (outcome : OrderOutcome) (reason : Reason) (argument : Word) (payloads : List (List Byte)) :
      x.Attends y → x.Serves code o (y.conclude o outcome reason argument payloads)
  | begins {y : State} {k : RoutineContext} {w : Work} : x.Attends y → k.work = some w → w.order = some o →
      w.kind = some code → code.urgentPermitted = false → x.Serves code o (y.inContext k)
  | asks {z : Fin 4} {f : Link → Link} {w : ProbeWork} : x.links[z].slot = none → (f x.links[z]).slot = some w →
      w.order = o → x.Serves code o (x.onLink z f).release
  | cancels {t : State} {n : Nat} : n ≠ o.head → x.cancelTarget n = some t → x.Serves code o (t.done o 0 [])

theorem State.yieldWith_inContext (s : State) (w : Work) :
    ∃ k : RoutineContext, k.work = some w ∧ s.yieldWith w = s.inContext k := by
  refine ⟨_, ?_, rfl⟩
  split <;> rfl

theorem State.seek_order (s : State) (w : RefillWork) (l : List (Fin 8)) : (s.seek w l).order = w.order := by
  induction l generalizing w with
  | nil => rfl
  | cons b t ih =>
    unfold State.seek
    split
    · exact ih w
    · split
      · exact ih _
      · rfl

namespace State.Serves

variable {code : OrderCode}

theorem done {x y : State} (h : x.Attends y) (o : Handed) (a : Word) (l : List Byte) :
    x.Serves code o (y.done o a l) := ends .done .none a [l] h

theorem refuse (x : State) (o : Handed) (r : Reason) : x.Serves code o (x.refuse o r) :=
  ends .refused r 0 [] (.refl x)

theorem doneOrShort {x y : State} (h : x.Attends y) (o : Handed) (short : Bool) (a : Word) (l : List (List Byte)) :
    x.Serves code o (y.doneOrShort o short a l) := by
  unfold State.doneOrShort
  split
  · exact ends _ _ _ _ h
  · exact ends _ _ _ _ h

theorem runs {x y : State} (h : x.Attends y) (w : Work) (o : Handed) (order : w.order = some o)
    (kind : w.kind = some code) (routine : code.urgentPermitted = false) : x.Serves code o (y.runWith w) :=
  begins (k := .running w) h rfl order kind routine

/-! ### The site orders -/

theorem setParametersOrder (o : Handed) (x : State) : x.Serves code o (setParametersOrder o x) := by
  unfold Machine.setParametersOrder
  dsimp only
  split
  · exact refuse x o _
  · split
    · exact refuse x o _
    · split
      · exact refuse x o _
      · exact done (.storeParameters x _ _) o _ _

theorem defineStageOrder (o : Handed) (x : State) : x.Serves code o (defineStageOrder o x) := by
  unfold Machine.defineStageOrder
  dsimp only
  split
  · split
    · exact done (.refl x) o _ _
    · exact done (.storeStage x _ _) o _ _
  · exact refuse x o _

theorem setCouplingOrder (o : Handed) (x : State) : x.Serves code o (setCouplingOrder o x) := by
  unfold Machine.setCouplingOrder
  dsimp only
  split
  · exact refuse x o _
  · split
    · exact refuse x o _
    · split
      · exact done (.refl x) o _ _
      · exact done (.couple x _) o _ _

theorem addExclusionOrder (o : Handed) (x : State) : x.Serves code o (addExclusionOrder o x) := by
  unfold Machine.addExclusionOrder
  split
  · exact refuse x o _
  · split
    · exact refuse x o _
    · split
      · exact refuse x o _
      · split
        · exact refuse x o _
        · exact done (.addExclusionRecord x _) o _ _

theorem dropExclusionOrder (o : Handed) (x : State) : x.Serves code o (dropExclusionOrder o x) := by
  unfold Machine.dropExclusionOrder
  split
  · exact refuse x o _
  · split
    · exact refuse x o _
    · split
      · exact done (.dropExclusion x _) o _ _
      · exact refuse x o _

/-! ### The orders on channels -/

theorem defined (x : State) (o : Handed) (c : Fin 256) (f : ChannelFields) (h : Hold) :
    x.Serves code o (x.defined o c f h) :=
  ends (y := x.storeChannel c f h) _ _ _ _ ((State.Attends.refl x).plan _)

theorem defineChannelOrder (o : Handed) (x : State) : x.Serves code o (defineChannelOrder o x) := by
  unfold Machine.defineChannelOrder
  split
  · next c f _ _ =>
    split
    · split
      · exact defined x o c f _
      · exact refuse x o _
    · split
      · split
        · exact defined x o c f _
        · exact refuse x o _
      · split
        · exact refuse x o _
        · split
          · exact defined x o c f _
          · exact refuse x o _
  · exact refuse x o _

theorem retireChannelOrder (o : Handed) (x : State) : x.Serves code o (retireChannelOrder o x) := by
  unfold Machine.retireChannelOrder
  split
  · exact refuse x o _
  · split
    · exact refuse x o _
    · exact done ((State.Attends.refl x).plan _) o _ _
    · exact refuse x o _

theorem markLiveOrder (o : Handed) (x : State) : x.Serves code o (markLiveOrder o x) := by
  unfold Machine.markLiveOrder
  split
  · exact refuse x o _
  · split
    · exact done ((State.Attends.refl x).setHold _ _) o _ _
    · exact done (.refl x) o _ _
    · exact refuse x o _

theorem markIdleOrder (o : Handed) (x : State) : x.Serves code o (markIdleOrder o x) := by
  unfold Machine.markIdleOrder
  split
  · exact refuse x o _
  · split
    · exact done ((State.Attends.refl x).setHold _ _) o _ _
    · exact done (.refl x) o _ _
    · exact refuse x o _

theorem releaseOrder (o : Handed) (x : State) : x.Serves code o (releaseOrder o x) := by
  unfold Machine.releaseOrder
  split
  · exact refuse x o _
  · split
    · exact refuse x o _
    · split
      · exact refuse x o _
      · split
        · exact done ((State.Attends.refl x).removeStep _ _ _ _ _) o _ _
        · exact done ((State.Attends.refl x).removeStep _ _ _ _ _) o _ _
        · exact done (.refl x) o _ _
        · exact refuse x o _
        · exact refuse x o _
        · exact refuse x o _

theorem confirmMoveOrder (o : Handed) (x : State) : x.Serves code o (confirmMoveOrder o x) := by
  unfold Machine.confirmMoveOrder
  split
  · exact refuse x o _
  · split
    · exact refuse x o _
    · split
      · exact refuse x o _
      · exact done ((State.Attends.refl x).removeStep _ _ _ _ _) o _ _

theorem declineMoveOrder (o : Handed) (x : State) : x.Serves code o (declineMoveOrder o x) := by
  unfold Machine.declineMoveOrder
  split
  · exact refuse x o _
  · split
    · exact refuse x o _
    · split
      · exact refuse x o _
      · exact done ((State.Attends.refl x).removeStep _ _ _ _ _) o _ _

theorem pinOrder (o : Handed) (x : State) : x.Serves code o (pinOrder o x) := by
  have finished : ∀ c r f force v, x.Serves code o (x.pinEnd o c r f force v) := fun c r f force v => by
    unfold State.pinEnd
    split
    · exact done (.pinned x c r f) o _ _
    · split
      · exact done (.pinned x c r f) o _ _
      · split
        · exact ends _ _ _ _ (.pinned x c r _)
        · exact ends _ _ _ _ (.refl x)
  have judged : ∀ c r f force strict, x.Serves code o (x.pin o c r f force strict) := fun c r f force strict => by
    unfold State.pin
    split
    · exact refuse x o _
    · exact finished _ _ _ _ _
  unfold Machine.pinOrder
  dsimp only
  split
  · exact refuse x o _
  · split
    · exact refuse x o _
    · split
      · exact refuse x o _
      · split
        · exact refuse x o _
        · split
          · exact judged _ _ _ _ _
          · exact judged _ _ _ _ _
          · exact refuse x o _

theorem replaceOrder (o : Handed) (x : State) : x.Serves code o (replaceOrder o x) := by
  have finished : ∀ (y : State) c f found, x.Attends y → x.Serves code o (y.replaceEnd o c f found) :=
    fun y c f found h => by
      unfold State.replaceEnd
      dsimp only
      split
      · exact done h o _ _
      · exact ends _ _ _ _ (h.draw 1)
  unfold Machine.replaceOrder
  dsimp only
  split
  · exact refuse x o _
  · split
    · exact refuse x o _
    · split
      · exact refuse x o _
      · split
        · exact refuse x o _
        · split
          · exact finished _ _ _ _ (.replace x _ _ _ _)
          · exact finished _ _ _ _ (.replace x _ _ _ _)
          · exact refuse x o _

/-! ### Reads -/

theorem readChannelsOrder (o : Handed) (x : State) : x.Serves code o (readChannelsOrder o x) := by
  unfold Machine.readChannelsOrder
  dsimp only
  split
  · exact refuse x o _
  · exact doneOrShort ((State.Attends.refl x).draw _) o _ _ _

theorem readCensusOrder (o : Handed) (x : State) : x.Serves code o (readCensusOrder o x) := by
  unfold Machine.readCensusOrder
  dsimp only
  split
  · split
    · exact refuse x o _
    · exact doneOrShort (.refl x) o _ _ _
  · exact refuse x o _

theorem readSparesOrder (o : Handed) (x : State) : x.Serves code o (readSparesOrder o x) := by
  unfold Machine.readSparesOrder
  dsimp only
  split
  · exact refuse x o _
  · exact doneOrShort ((State.Attends.refl x).draw _) o _ _ _

theorem readSpectrumOrder (o : Handed) (x : State) : x.Serves code o (readSpectrumOrder o x) := by
  unfold Machine.readSpectrumOrder
  dsimp only
  split
  · exact refuse x o _
  · split
    · exact refuse x o _
    · exact doneOrShort (.refl x) o _ _ _

theorem readWatchOrder (o : Handed) (x : State) : x.Serves code o (readWatchOrder o x) := by
  unfold Machine.readWatchOrder
  split
  · exact refuse x o _
  · exact done ((State.Attends.refl x).draw _) o _ _

theorem readLinksOrder (o : Handed) (x : State) : x.Serves code o (readLinksOrder o x) := by
  unfold Machine.readLinksOrder
  dsimp only
  split
  · exact refuse x o _
  · refine done (State.Attends.draw ?_ 4) o _ _
    refine .ite _ ?_ (.refl x)
    exact (State.Attends.refl x).marks _ (fun t z => (State.Attends.refl t).onLink z Link.clearCounts fun _ => rfl) _

/-! ### Zones and links -/

theorem setZoneOrder (o : Handed) (x : State) : x.Serves code o (setZoneOrder o x) := by
  unfold Machine.setZoneOrder
  dsimp only
  split
  · refine done (State.Attends.onZone (State.Attends.onLink (.refl x) _ Link.abandon fun l => ?_) _ _) o _ _
    unfold Link.abandon
    split <;> rfl
  · exact refuse x o _

theorem probeOrder (o : Handed) (x : State) : x.Serves code o (probeOrder o x) := by
  unfold Machine.probeOrder
  dsimp only
  split
  · exact refuse x o _
  · split
    · exact refuse x o _
    · split
      · exact refuse x o _
      · next free => exact asks (by simpa using free) rfl rfl

theorem armWatchOrder (o : Handed) (x : State) : x.Serves code o (armWatchOrder o x) := by
  unfold Machine.armWatchOrder
  dsimp only
  split
  · exact refuse x o _
  · split
    · exact refuse x o _
    · exact done ((State.Attends.refl x).onZone _ _) o _ _

theorem forceHitOrder (o : Handed) (x : State) : x.Serves code o (forceHitOrder o x) := by
  unfold Machine.forceHitOrder
  split
  · split
    · exact refuse x o _
    · exact done (((State.Attends.refl x).onZone _ _).trans (.routeHit _ _ _ _)) o _ _
  · exact refuse x o _

/-! ### Orders that go on in the routine context -/

theorem rebuildCensusOrder (o : Handed) (x : State) :
    x.Serves .rebuildCensus o (rebuildCensusOrder o x) := by
  obtain ⟨k, work, eq⟩ := State.yieldWith_inContext { x with census := x.census.startRebuild }
    (.rebuild (x.rebuildWork (some o) 0))
  show x.Serves .rebuildCensus o (x.startRebuild (some o))
  unfold State.startRebuild
  rw [eq]
  exact begins ((State.Attends.refl x).census _) work rfl rfl rfl

theorem checkListOrder (o : Handed) (x : State) :
    x.Serves .checkList o (checkListOrder o x) := by
  unfold Machine.checkListOrder
  dsimp only
  split
  · exact refuse x o _
  · exact runs (.refl x) _ o rfl rfl rfl

theorem placeOrder (o : Handed) (x : State) :
    x.Serves .place o (placeOrder o x) := by
  have starts : ∀ (w : PlaceWork) (items : List PlaceItem), w.order = o → x.Serves .place o (x.startPlace w items) :=
    fun w items order => by
      refine runs (y := { x with plan := x.plan.setMarks w.order.head items }) ((State.Attends.refl x).plan _) _ o ?_
        rfl rfl
      cases items with
      | nil => exact congrArg some order
      | cons i t => exact congrArg some order
  unfold Machine.placeOrder
  dsimp only
  split
  · exact refuse x o _
  · split
    · exact ends _ _ _ _ ((State.Attends.refl x).draw 1)
    · split
      · split
        · exact starts _ _ rfl
        · exact ends _ _ _ _ (.refl x)
      · exact starts _ _ rfl

theorem refillSparesOrder (o : Handed) (x : State) :
    x.Serves .refillSpares o (refillSparesOrder o x) := by
  unfold Machine.refillSparesOrder
  dsimp only
  split
  · exact refuse x o _
  · refine runs ?_ _ o (congrArg some (State.seek_order _ _ _)) rfl rfl
    exact .ite _ (.of_eq rfl rfl rfl) (.refl x)

theorem cancelOrder (o : Handed) (x : State) : x.Serves code o (cancelOrder o x) := by
  unfold Machine.cancelOrder
  dsimp only
  split
  · exact refuse x o _
  · next named =>
    split
    · next t ht => exact cancels (fun same => named (.inr same)) ht
    · exact refuse x o _

end State.Serves

/-- The procedure of every order comes to one of these. -/
theorem State.serves (code : OrderCode) (o : Handed) (x : State) : x.Serves code o (code.procedure o x) := by
  cases code with
  | setParameters => exact .setParametersOrder o x
  | defineStage => exact .defineStageOrder o x
  | setCoupling => exact .setCouplingOrder o x
  | addExclusion => exact .addExclusionOrder o x
  | dropExclusion => exact .dropExclusionOrder o x
  | defineChannel => exact .defineChannelOrder o x
  | retireChannel => exact .retireChannelOrder o x
  | markLive => exact .markLiveOrder o x
  | markIdle => exact .markIdleOrder o x
  | release => exact .releaseOrder o x
  | readChannels => exact .readChannelsOrder o x
  | rebuildCensus => exact .rebuildCensusOrder o x
  | readCensus => exact .readCensusOrder o x
  | checkList => exact .checkListOrder o x
  | place => exact .placeOrder o x
  | pin => exact .pinOrder o x
  | replace => exact .replaceOrder o x
  | confirmMove => exact .confirmMoveOrder o x
  | declineMove => exact .declineMoveOrder o x
  | refillSpares => exact .refillSparesOrder o x
  | readSpares => exact .readSparesOrder o x
  | setZone => exact .setZoneOrder o x
  | probe => exact .probeOrder o x
  | readSpectrum => exact .readSpectrumOrder o x
  | readLinks => exact .readLinksOrder o x
  | armWatch => exact .armWatchOrder o x
  | forceHit => exact .forceHitOrder o x
  | readWatch => exact .readWatchOrder o x
  | cancel => exact .cancelOrder o x

end Sys2Proof.Machine
end


section
/-! The acts of the arbiter come to an end: each one leaves it nothing to hand out, or takes an entry from a list and queues
less than that entry counts for (R132, R134). -/

namespace Sys2Proof.Machine

/-! ### The load of the lists -/

theorem Engine.load_release (e : Engine) : e.release.load = e.load := by
  unfold Engine.release
  split <;> rfl

theorem Engine.load_remove (e : Engine) (n : Nat) : (e.remove n).load ≤ e.load := by
  have less : ∀ l : List Entry, ((l.filter fun x => !x.headed n).map Entry.load).sum ≤ (l.map Entry.load).sum :=
    fun l => (List.filter_sublist.map _).sum_le_sum fun _ _ => Nat.zero_le _
  have a := less e.urgent
  have b := less e.routine
  simp only [Engine.load, Engine.remove, List.map_append, List.sum_append]
  omega

theorem State.cancelWork_load (s : State) (w : Work) : (s.cancelWork w).engine.load ≤ s.engine.load + 4121 := by
  have same : ∀ {t : State}, t.engine = s.engine → t.engine.load ≤ s.engine.load + 4121 := fun h => by
    rw [h]
    exact Nat.le_add_right _ _
  cases w with
  | place w =>
    refine le_of_eq_of_le (congrArg Engine.load (State.close_engine _ _ _ _ _ _)) ?_
    exact (State.Attends.rollback s w).engine.load
  | check w => exact same (State.close_engine _ _ _ _ _ _)
  | rebuild w =>
    simp only [State.cancelWork]
    split
    · exact same (State.close_engine _ _ _ _ _ _)
    · exact same rfl
  | refill w => exact same (State.close_engine _ _ _ _ _ _)
  | upkeep w => exact same rfl
  | single => exact same rfl

theorem State.cancelTarget_load {s t : State} {n : Nat} (h : s.cancelTarget n = some t) :
    t.engine.load ≤ s.engine.load + 4121 := by
  unfold State.cancelTarget at h
  split at h
  · cases h
    rw [State.close_engine]
    exact (s.engine.load_remove n).trans (Nat.le_add_right _ _)
  · cases h
    exact s.cancelWork_load _
  · cases h
    refine le_of_eq_of_le (congrArg Engine.load (State.close_engine _ _ _ _ _ _)) (Nat.le_add_right _ _)
  · cases h

/-- What an order queues is less than it counts for. -/
theorem State.Serves.load {x y : State} {code : OrderCode} {o : Handed} (h : x.Serves code o y) :
    y.engine.load ≤ x.engine.load + 4121 := by
  cases h with
  | ends outcome reason argument payloads attends =>
    rw [State.conclude_engine, Engine.load_release]
    exact attends.engine.load
  | begins attends _ _ _ _ => exact attends.engine.load
  | asks _ _ _ => exact le_of_eq_of_le (Engine.load_release _) (Nat.le_add_right _ _)
  | cancels _ target =>
    refine le_of_eq_of_le ?_ (State.cancelTarget_load target)
    rw [State.done, State.conclude_engine, Engine.load_release]

/-- An AUTO-MOVE queues routine entries alone. -/
theorem State.autoMove_load (s : State) (c : Fin 256) (f : Nat) : (s.autoMove c f).engine.load ≤ s.engine.load + 9 := by
  refine (State.Attends.autoMove s c f).engine.load_routine ?_
  unfold State.autoMove
  split
  · exact .refl _
  · split
    · unfold State.runAutoMove
      dsimp only
      rw [State.mark_engine]
      exact s.grows_replace c _ f false
    · exact .refl _

theorem State.takeEntry_load (s : State) (u : Bool) (e : Entry) :
    (s.takeEntry u e).engine.load < (s.engine.begin u).load + e.load := by
  cases e with
  | order o =>
    have bound := (State.serves o.code o (s.begin u o)).load
    show _ < _ + 8192
    have begun : (s.begin u o).engine = s.engine.begin u := rfl
    rw [begun] at bound
    show (o.code.procedure o (s.begin u o)).engine.load < _
    omega
  | autoMove c f =>
    have bound := (s.beginEntry u).autoMove_load c f
    have released : ((s.beginEntry u).autoMove c f).release.engine.load = ((s.beginEntry u).autoMove c f).engine.load :=
      Engine.load_release _
    have begun : (s.beginEntry u).engine = s.engine.begin u := rfl
    rw [begun] at bound
    show ((s.beginEntry u).autoMove c f).release.engine.load < _ + 16
    omega
  | rebuild =>
    refine lt_of_eq_of_lt ?_ (Nat.lt_succ_self _)
    show (s.beginEntry u).takeRebuild.engine.load = _
    unfold State.takeRebuild
    split
    · exact Engine.load_release _
    · rfl
  | upkeep b =>
    refine lt_of_eq_of_lt ?_ (Nat.lt_succ_self _)
    show ((s.beginEntry u).startUpkeep b).engine.load = _
    unfold State.startUpkeep
    split
    · exact Engine.load_release _
    · split
      · exact Engine.load_release _
      · rfl

/-- Each act of the arbiter is its last, or lowers the load of the lists. -/
theorem State.handOut_load {s : State} {g : Grant} (h : s.arbiter = some g) :
    (s.handOut g).arbiter = none ∨ (s.handOut g).engine.load < s.engine.load := by
  cases g with
  | takeUrgent e =>
    obtain ⟨-, -, -, l, urgent⟩ := State.arbiter_takeUrgent h
    refine .inr (lt_of_lt_of_eq (s.takeEntry_load true e) ?_)
    simp only [Engine.begin, Engine.load, urgent, if_true, List.tail_cons, List.cons_append, List.map_cons, List.sum_cons]
    omega
  | takeRoutine e =>
    obtain ⟨-, -, -, urgent, l, routine⟩ := State.arbiter_takeRoutine h
    refine .inr (lt_of_lt_of_eq (s.takeEntry_load false e) ?_)
    simp only [Engine.begin, Engine.load, urgent, routine, Bool.false_eq_true, if_false, List.tail_cons, List.nil_append,
      List.map_cons, List.sum_cons]
    omega
  | resume w =>
    obtain ⟨v, engine⟩ := s.resume_running w
    refine .inl (State.arbiter_running (w := v) ?_)
    show (s.resume w).engine.routineContext = _
    rw [engine]

/-! ### The arbiter at the end of an event -/

/-- Enough acts leave the arbiter nothing to hand out. -/
theorem State.arbitrateFor_over {n : Nat} {s : State} (h : s.engine.load < n) : (s.arbitrateFor n).arbiter = none := by
  induction n generalizing s with
  | zero => cases h
  | succ n ih =>
    cases ha : s.arbiter with
    | none => rw [State.arbitrateFor_none _ ha, ha]
    | some g =>
      rw [State.arbitrateFor_some n ha]
      rcases State.handOut_load ha with last | less
      · rw [State.arbitrateFor_none _ last, last]
      · exact ih (by omega)

theorem State.arbitrateFor_add (n m : Nat) (s : State) :
    s.arbitrateFor (n + m) = (s.arbitrateFor n).arbitrateFor m := by
  induction n generalizing s with
  | zero => rw [Nat.zero_add]; rfl
  | succ n ih =>
    rw [Nat.succ_add]
    cases ha : s.arbiter with
    | none => rw [State.arbitrateFor_none _ ha, State.arbitrateFor_none _ ha, State.arbitrateFor_none _ ha]
    | some g => rw [State.arbitrateFor_some _ ha, State.arbitrateFor_some _ ha, ih]

/-- More acts than enough change nothing. -/
theorem State.arbitrateFor_enough {n : Nat} {s : State} (h : s.engine.load < n) : s.arbitrateFor n = s.arbitrate := by
  obtain ⟨m, rfl⟩ := Nat.exists_eq_add_of_lt h
  rw [Nat.add_right_comm, State.arbitrateFor_add,
    State.arbitrateFor_none m (State.arbitrateFor_over (Nat.lt_succ_self _))]
  rfl

theorem State.arbitrate_over (s : State) : s.arbitrate.arbiter = none := State.arbitrateFor_over (Nat.lt_succ_self _)

/-- What the arbiter hands out is the first of its acts. -/
theorem State.arbitrate_some {s : State} {g : Grant} (h : s.arbiter = some g) :
    s.arbitrate = (s.handOut g).arbitrate := by
  have first : s.arbitrate = (s.handOut g).arbitrateFor s.engine.load := State.arbitrateFor_some _ h
  rcases State.handOut_load h with last | less
  · rw [first, State.arbitrateFor_none _ last, State.arbitrate_none last]
  · rw [first, State.arbitrateFor_enough less]

end Sys2Proof.Machine
end


section
/-! The arbiter hands out (O3): what it hands out, what a step does with that, and what the device does with nothing to hand
out. -/

namespace Sys2Proof.Machine

/-! ### What the arbiter hands out -/

theorem State.arbiter_free {s : State} (run : s.port.run = true) (context : s.engine.urgentContext = .idle)
    (routine : ∀ w, s.engine.routineContext ≠ .running w) :
    s.arbiter = match s.engine.urgent, s.engine.routineContext, s.engine.routine with
      | e :: _, _, _ => some (.takeUrgent e)
      | [], .suspended w, _ => some (.resume w)
      | [], _, e :: _ => some (.takeRoutine e)
      | [], _, [] => none := by
  have stopped : s.engine.routineContext.isRunning = false := by
    cases h : s.engine.routineContext with
    | running w => exact absurd h (routine w)
    | idle => rfl
    | suspended w => rfl
  unfold State.arbiter
  rw [run, context, stopped]
  rfl

theorem State.arbiter_busy {s : State} (h : s.port.run = false ∨ s.engine.urgentContext = .running ∨
    ∃ w, s.engine.routineContext = .running w) : s.arbiter = none := by
  rcases h with run | context | ⟨w, routine⟩
  · exact State.arbiter_run run
  · unfold State.arbiter
    simp [context]
  · exact State.arbiter_running routine

theorem State.arbiter_resume {s : State} {w : Work} (h : s.arbiter = some (.resume w)) :
    s.engine.urgent = [] ∧ s.engine.routineContext = .suspended w := by
  unfold State.arbiter at h
  split at h
  · cases h
  · split at h
    · cases h
    · rename_i urgent context
      cases h
      exact ⟨urgent, context⟩
    · cases h
    · cases h

/-- The command that what the arbiter hands out names takes it up. -/
theorem State.exec_grant {s : State} {g : Grant} (ok : s.engineOk) (h : s.arbiter = some g) :
    exec g.command s = .next (s.handOut g).arbitrate := by
  obtain ⟨-, -, -, urgentOk, routineOk⟩ := ok
  have order : ∀ (u : Bool) (o : Handed), s.granted o.code = some (u, o) →
      exec o.code.command s = .next (s.handOut (if u then .takeUrgent (.order o) else .takeRoutine (.order o))).arbitrate :=
    fun u o granted => by
      rw [exec_command, State.takeUp_eq _ granted]
      cases u <;> rfl
  cases g with
  | takeUrgent e =>
    obtain ⟨-, -, -, l, urgent⟩ := State.arbiter_takeUrgent h
    have kind : e.urgentOk := urgentOk e (by rw [urgent]; exact List.mem_cons_self)
    cases e with
    | order o => exact order true o (by unfold State.granted; rw [h]; exact if_pos rfl)
    | autoMove c f =>
      show execAutoMove s = _
      unfold execAutoMove
      rw [h]
    | rebuild => exact kind.elim
    | upkeep b => exact kind.elim
  | takeRoutine e =>
    obtain ⟨-, -, -, -, l, routine⟩ := State.arbiter_takeRoutine h
    have kind : e.routineOk := routineOk e (by rw [routine]; exact List.mem_cons_self)
    cases e with
    | order o => exact order false o (by unfold State.granted; rw [h]; exact if_pos rfl)
    | autoMove c f => exact kind.elim
    | rebuild =>
      show execRebuild s = _
      unfold execRebuild
      rw [h]
    | upkeep b =>
      show execUpkeep s = _
      unfold execUpkeep
      rw [h]
  | resume w =>
    show execResumption s = _
    unfold execResumption
    rw [h, State.arbitrate_resume]

/-! ### Nothing is left to hand out -/

/-- An event on which the arbiter does not act gives it nothing to hand out. -/
theorem State.QuietEvent.arbiter {s a : State} (h : s.QuietEvent a) (idle : s.arbiter = none) : a.arbiter = none := by
  have same : ∀ {t : State}, s.Keeps t → t.engine = s.engine → t.arbiter = none := fun keeps engine => by
    obtain ⟨-, run, -⟩ := keeps.port
    rw [State.arbiter_congr engine run, idle]
  cases h with
  | same => exact idle
  | misuse => exact idle
  | claim =>
    refine (State.arbiter_congr (s := s) (by rfl) ?_).trans idle
    show s.port.claimed.run = _
    unfold Port.claimed
    split
    · obtain ⟨-, held, -⟩ := Port.keeps_setCell s.port _ CellState.held
      exact held
    · rfl
  | @give c _ _ =>
    obtain ⟨-, attempted, -⟩ := (State.keeps_attempt (s.withPort ((s.port.setCell c .free).leave [c]))).port
    obtain ⟨-, left, -⟩ := (Port.keeps_setCell s.port c CellState.free).trans (Port.keeps_leave _ [c])
    exact (State.arbiter_congr (s := s) (t := State.attempt (s.withPort ((s.port.setCell c .free).leave [c])))
      (State.attempt_engine _) (attempted.trans left)).trans idle
  | notices raw enables => exact idle
  | write a l => exact idle
  | frame z => exact idle
  | crcError z => exact idle
  | formatError z => exact idle
  | timeout _ =>
    refine (State.arbiter_congr (State.goStale_engine _ _) ?_).trans idle
    obtain ⟨-, run, -⟩ := (State.keeps_goStale { s with now := max s.now _ } _).port
    exact run
  | move _ =>
    refine (State.arbiter_congr (State.mark_engine _ _ _ _) ?_).trans idle
    obtain ⟨-, run, -⟩ := (State.keeps_mark (State.setHold { s with now := max s.now _ } _ (.unresolved _ _))
      (.channel _) unresolvedFlag none).port
    exact run
  | soft run auto _ =>
    unfold State.arbiter
    split
    · rfl
    · rfl

theorem steady_arbiter : State.Steady fun s => s.arbiter = none where
  pending := fun _ _ h => h
  idle := fun _ h => h
  byte := fun _ _ _ _ h => h
  receiver := fun _ _ _ h => h
  outcomes := fun s t h idle => by
    cases h with
    | nothing => exact idle
    | quiet event => exact (State.arbiter_congr rfl rfl).trans (event.arbiter idle)
    | acts _ => exact State.arbitrate_over _
    | powered => exact State.arbiter_run rfl
    | @resetEnd r _ =>
      obtain ⟨-, run, -⟩ := (State.keeps_attempt { s with port := s.port.endReset r.kind, now := max s.now r.ends }).port
      have after : (s.resetOver r).finishReset.port.run = (s.port.endReset r.kind).run := run
      by_cases exchange : r.kind = .exchange
      · have goesOn : (s.port.endReset r.kind).run = s.port.run := if_pos exchange
        exact (State.arbiter_congr (s := s) (t := (s.resetOver r).finishReset) (State.attempt_engine _) (after.trans goesOn)).trans idle
      · exact State.arbiter_run (after.trans (if_neg exchange))

/-! ### What is due with nothing to hand out -/

section
variable {s : State} (pending : s.pending = []) (idle : s.arbiter = none)
include pending

theorem step_of_due {c : Instr} (h : s.due = some c) : step s = exec c s := by
  rw [step, pending]
  show tick s = _
  rw [tick, h]

include idle

theorem step_of_work {w : Work} {c : Instr} (h : s.running = some w) (command : w.command = some c) :
    step s = exec c s := by
  refine step_of_due pending ?_
  unfold State.due
  rw [idle, h]
  show (none : Option Instr).or ((w.command).or _) = _
  rw [command]
  rfl

omit pending in
theorem State.due_idle (h : s.running = none) :
    s.due = s.resetDue.or (s.deadlineDue.or (s.moveDue.or s.timeoutDue)) := by
  unfold State.due
  rw [idle, h]
  rfl

end

theorem State.resetDue_some {s : State} {r : ResetRun} (h : s.port.reset = some r) (due : r.ends ≤ s.now) :
    s.resetDue = some .resetEnd := by
  unfold State.resetDue
  rw [h]
  exact if_pos due

theorem State.resetDue_none {s : State} (h : ¬ ∃ r, s.port.reset = some r ∧ r.ends ≤ s.now) : s.resetDue = none := by
  unfold State.resetDue
  split
  · next r hr => exact if_neg fun due => h ⟨r, hr, due⟩
  · rfl

/-- The first link of which a test holds. -/
theorem allZones_find {p : Fin 4 → Bool} {z : Fin 4} (h : p z = true) (first : ∀ y, y < z → p y = false) :
    allZones.find? p = some z := by
  obtain ⟨parts, before⟩ := allZones_split z
  rw [List.find?_eq_some_iff_append]
  exact ⟨h, _, _, parts, fun y earlier => by rw [first y (before y earlier)]; rfl⟩

theorem State.deadline_iff {s : State} {z : Fin 4} :
    (match s.links[z].slot with
      | some w => decide (w.deadline ≤ s.now)
      | none => false) = true ↔ ∃ w, s.links[z].slot = some w ∧ w.deadline ≤ s.now := by
  cases s.links[z].slot <;> simp

theorem State.timeout_iff {s : State} {z : Fin 4} :
    (match s.timeoutAt z with
      | some t => decide (t ≤ s.now)
      | none => false) = true ↔ (s.zones[z].freshness = .warming ∨ s.zones[z].freshness = .fresh) ∧
        ∃ v, s.links[z].lastValid = some v ∧ v + s.site.params.linkTimeout ≤ s.now := by
  unfold State.timeoutAt
  cases s.zones[z].freshness <;> cases s.links[z].lastValid <;> simp [Freshness.timed]

/-- Whether a move timer has run out. -/
def Hold.late (now : Nat) : Hold → Bool
  | .moving _ _ expiry => expiry ≤ now
  | _ => false

theorem Hold.late_iff {h : Hold} {now : Nat} : h.late now = true ↔ ∃ f g e, h = .moving f g e ∧ e ≤ now := by
  unfold Hold.late
  cases h <;> simp

theorem State.moveDue_eq (s : State) :
    s.moveDue = (s.plan.records.find? fun e => e.2.hold.late s.now).map fun e => .moveTimerExpiry e.1 := rfl

/-- The first channel of which a test holds. -/
theorem Plan.find_record {p : Plan} {t : Fin 256 × ChannelRecord → Bool} {c : Fin 256} {r : ChannelRecord}
    (hr : p.channels[c] = some r) (h : t (c, r) = true)
    (first : ∀ d q, d < c → p.channels[d] = some q → t (d, q) = false) : p.records.find? t = some (c, r) := by
  obtain ⟨before, behind, parts⟩ := List.append_of_mem (Plan.mem_records.2 hr)
  rw [List.find?_eq_some_iff_append]
  refine ⟨h, before, behind, parts, fun e earlier => ?_⟩
  have sorted := p.records_ascending
  rw [parts, List.pairwise_append] at sorted
  obtain ⟨-, -, below⟩ := sorted
  have mem : e ∈ p.records := parts ▸ List.mem_append_left _ earlier
  rw [first e.1 e.2 (below e earlier _ List.mem_cons_self) (Plan.mem_records.1 mem)]
  rfl

theorem State.moveDue_some {s : State} {c : Fin 256} {f g e : Nat} (h : s.hold c = some (.moving f g e)) (due : e ≤ s.now)
    (first : ∀ d, d < c → ¬ ∃ f g e, s.hold d = some (.moving f g e) ∧ e ≤ s.now) :
    s.moveDue = some (.moveTimerExpiry c) := by
  obtain ⟨r, hr, hold⟩ := State.hold_some h
  rw [State.moveDue_eq, Plan.find_record (t := fun e => e.2.hold.late s.now) hr (Hold.late_iff.2 ⟨f, g, e, hold, due⟩)
    fun d q below hq => Bool.eq_false_iff.2 fun is => ?_]
  · rfl
  obtain ⟨f, g, e, moving, due⟩ := Hold.late_iff.1 is
  exact first d below ⟨f, g, e, (congrArg (Option.map ChannelRecord.hold) hq).trans (congrArg some moving), due⟩

theorem State.moveDue_none {s : State} (h : ∀ c, ¬ ∃ f g e, s.hold c = some (.moving f g e) ∧ e ≤ s.now) :
    s.moveDue = none := by
  rw [State.moveDue_eq, List.find?_eq_none.2 fun x mem is => ?_]
  · rfl
  obtain ⟨f, g, e, moving, due⟩ := Hold.late_iff.1 is
  exact h x.1 ⟨f, g, e, (congrArg (Option.map ChannelRecord.hold) (Plan.mem_records.1 mem)).trans
    (congrArg some moving), due⟩

theorem State.deadlineDue_some {s : State} {z : Fin 4} (late : ∃ w, s.links[z].slot = some w ∧ w.deadline ≤ s.now)
    (first : ∀ y : Fin 4, y < z → ¬ ∃ w, s.links[y].slot = some w ∧ w.deadline ≤ s.now) :
    s.deadlineDue = some (.probeDeadline z) :=
  congrArg (Option.map Instr.probeDeadline) (allZones_find (State.deadline_iff.2 late) fun y below =>
    Bool.eq_false_iff.2 fun is => first y below (State.deadline_iff.1 is))

theorem State.deadlineDue_none {s : State} (h : ∀ z : Fin 4, ¬ ∃ w, s.links[z].slot = some w ∧ w.deadline ≤ s.now) :
    s.deadlineDue = none :=
  congrArg (Option.map Instr.probeDeadline) (List.find?_eq_none.2 fun z _ is => h z (State.deadline_iff.1 is))

theorem State.timeoutDue_some {s : State} {z : Fin 4}
    (late : (s.zones[z].freshness = .warming ∨ s.zones[z].freshness = .fresh) ∧
      ∃ v, s.links[z].lastValid = some v ∧ v + s.site.params.linkTimeout ≤ s.now)
    (first : ∀ y : Fin 4, y < z → ¬ ((s.zones[y].freshness = .warming ∨ s.zones[y].freshness = .fresh) ∧
      ∃ v, s.links[y].lastValid = some v ∧ v + s.site.params.linkTimeout ≤ s.now)) :
    s.timeoutDue = some (.linkTimeout z) :=
  congrArg (Option.map Instr.linkTimeout) (allZones_find (State.timeout_iff.2 late) fun y below =>
    Bool.eq_false_iff.2 fun is => first y below (State.timeout_iff.1 is))

theorem State.timeoutDue_none {s : State}
    (h : ∀ z : Fin 4, ¬ ((s.zones[z].freshness = .warming ∨ s.zones[z].freshness = .fresh) ∧
      ∃ v, s.links[z].lastValid = some v ∧ v + s.site.params.linkTimeout ≤ s.now)) : s.timeoutDue = none :=
  congrArg (Option.map Instr.linkTimeout) (List.find?_eq_none.2 fun z _ is => h z (State.timeout_iff.1 is))

theorem step_of_nothing {s : State} (pending : s.pending = []) (due : s.due = none)
    (lines : ∀ z : Fin 4, s.links[z].line = []) : step s = .next s.idle := by
  have bytes : s.nextByte = none := List.findSome?_eq_none_iff.2 fun z _ => by rw [lines z]
  rw [step, pending]
  show tick s = _
  rw [tick, due]
  show (match s.nextByte with
    | some (z, b, rest) => stepByte z b rest s
    | none => .next s.idle) = _
  rw [bytes]

end Sys2Proof.Machine

open Sys2Proof Sys2Proof.Machine

/-- Settles O3. -/
theorem arbiterHandsOut : Obligations.ArbiterHandsOut := by
  refine ⟨fun s => ⟨State.arbiter_busy, fun run context routine => ?_, fun g pending h => ?_,
    fun g ok h => State.exec_grant ok h, State.arbitrate_none, fun g h => State.arbitrate_some h, s.arbitrate_over⟩,
    fun s t idle h => steady_arbiter.step idle h, fun s pending idle => ?_⟩
  · have free := State.arbiter_free run context routine
    refine ⟨fun e l urgent => ?_, fun urgent => ⟨fun w suspended => ?_, fun e l rest first => ?_, fun rest none => ?_⟩⟩
    · rw [free, urgent]
    · rw [free, urgent, suspended]
    · rw [free, urgent, rest, first]
    · rw [free, urgent, rest, none]
  · refine step_of_due pending ?_
    unfold State.due
    rw [h]
    rfl
  · have next := fun (w : Work) (c : Instr) => step_of_work (s := s) (w := w) (c := c) pending idle
    refine ⟨fun w h => next _ _ h rfl, fun w h => next _ _ h rfl, fun w h => next _ _ h rfl, fun w h => next _ _ h rfl,
      fun w h => next _ _ h rfl, fun h => ?_⟩
    have due := State.due_idle idle h
    intro ends unanswered overdue silent
    refine ⟨fun ⟨r, reset, past⟩ => step_of_due pending ?_, fun running => ?_⟩
    · rw [due, State.resetDue_some reset past]
      rfl
    rw [State.resetDue_none running, Option.none_or] at due
    refine ⟨fun z late first => step_of_due pending ?_, fun answered => ?_⟩
    · rw [due, State.deadlineDue_some late first]
      rfl
    rw [State.deadlineDue_none answered, Option.none_or] at due
    refine ⟨fun c ⟨f, g, e, moving, past⟩ first => step_of_due pending ?_, fun moved => ?_⟩
    · rw [due, State.moveDue_some moving past first]
      rfl
    rw [State.moveDue_none moved, Option.none_or] at due
    refine ⟨fun z late first => step_of_due pending ?_, fun timely => ?_⟩
    · rw [due, State.timeoutDue_some late first]
    rw [State.timeoutDue_none timely] at due
    exact ⟨due, step_of_nothing pending due⟩

end


section
/-! The orders a port carries: each with cells of its own, QUEUED while it waits and ACTIVE while it is in progress (R146,
R149). What an event does to some cells leaves the orders on the others. -/

namespace Sys2Proof.Machine

/-- The orders that wait and those in progress hold cells of their own on a port, 1 to 8 each; in a reset there are none
(R146, R149, R156). -/
def Port.carries (p : Port) (waiting working : List Handed) : Prop :=
  ((waiting ++ working).flatMap Handed.cells).Nodup ∧
    (∀ o ∈ waiting ++ working, o.cells.length ≤ 8) ∧
    (∀ o ∈ waiting, ∀ c ∈ o.cells, p.cell c = some .queued) ∧
    (∀ o ∈ working, ∀ c ∈ o.cells, p.cell c = some .active) ∧
    (p.reset ≠ none → waiting = [] ∧ working = [])

theorem State.ordersOk_iff {s : State} : s.ordersOk ↔ s.port.carries s.waiting s.working := Iff.rfl

theorem nodup_flatMap_subperm {l l' : List Handed} (h : l'.Subperm l) (once : (l.flatMap Handed.cells).Nodup) :
    (l'.flatMap Handed.cells).Nodup := by
  obtain ⟨m, perm, sub⟩ := h
  exact (perm.flatMap_right Handed.cells).nodup_iff.1 ((sub.flatMap Handed.cells).nodup once)

theorem nil_of_subperm {l : List Handed} (h : l.Subperm []) : l = [] := List.subperm_nil.1 h

/-- Members of a list that a test tells from one of them. -/
theorem cons_filter_subperm {l : List Handed} {t : Handed → Bool} {o : Handed} (mem : o ∈ l) (out : t o = false) :
    (o :: l.filter t).Subperm l := by
  have only : [o].Subperm (l.filter fun p => !t p) :=
    (List.singleton_sublist.2 (List.mem_filter.2 ⟨mem, by rw [out]; rfl⟩)).subperm
  refine (only.append (List.Subperm.refl (l.filter t))).trans (List.Perm.subperm ?_)
  exact (List.perm_append_comm).trans (List.filter_append_perm t l)

namespace Port.carries

variable {p q : Port} {a b a' b' : List Handed} {o : Handed}

theorem nil (p : Port) : p.carries [] [] := ⟨List.nodup_nil, nofun, nofun, nofun, fun _ => ⟨rfl, rfl⟩⟩

/-- What an event does to the cells of one order leaves the others. -/
theorem without (h : p.carries a b) (ha : a'.Subperm a) (hb : b'.Subperm b) (other : (o :: (a' ++ b')).Subperm (a ++ b))
    (reset : q.reset = p.reset) (cells : ∀ c, c ∉ o.cells → p.cell c ≠ some .free → q.cell c = p.cell c) :
    q.carries a' b' := by
  obtain ⟨once, short, queued, active, empty⟩ := h
  have apart := nodup_flatMap_subperm other once
  rw [List.flatMap_cons, List.nodup_append] at apart
  obtain ⟨-, once', apart⟩ := apart
  have outside : ∀ r ∈ a' ++ b', ∀ c ∈ r.cells, c ∉ o.cells := fun r hr c hc own =>
    apart c own c (List.mem_flatMap.2 ⟨r, hr, hc⟩) rfl
  refine ⟨once', fun r hr => short r ((ha.append hb).subset hr), fun r hr c hc => ?_, fun r hr c hc => ?_, fun run => ?_⟩
  · have state := queued r (ha.subset hr) c hc
    rw [cells c (outside r (List.mem_append_left _ hr) c hc) (by rw [state]; decide), state]
  · have state := active r (hb.subset hr) c hc
    rw [cells c (outside r (List.mem_append_right _ hr) c hc) (by rw [state]; decide), state]
  · obtain ⟨rfl, rfl⟩ := empty (reset ▸ run)
    exact ⟨nil_of_subperm ha, nil_of_subperm hb⟩

/-- An event that changes FREE cells alone leaves every order. -/
theorem quiet (h : p.carries a b) (ha : a'.Subperm a) (hb : b'.Subperm b) (reset : q.reset = p.reset)
    (cells : ∀ c, p.cell c ≠ some .free → q.cell c = p.cell c) : q.carries a' b' := by
  obtain ⟨once, short, queued, active, empty⟩ := h
  refine ⟨nodup_flatMap_subperm (ha.append hb) once, fun r hr => short r ((ha.append hb).subset hr), fun r hr c hc => ?_,
    fun r hr c hc => ?_, fun run => ?_⟩
  · have state := queued r (ha.subset hr) c hc
    rw [cells c (by rw [state]; decide), state]
  · have state := active r (hb.subset hr) c hc
    rw [cells c (by rw [state]; decide), state]
  · obtain ⟨rfl, rfl⟩ := empty (reset ▸ run)
    exact ⟨nil_of_subperm ha, nil_of_subperm hb⟩

/-- An order goes from a list into progress: its cells become ACTIVE (R146). -/
theorem begin (h : p.carries a b) (ha : (o :: a').Subperm a) (hb : b'.Subperm b) :
    (p.setCells o.cells .active).carries a' (o :: b') := by
  have mem : o ∈ a := ha.subset List.mem_cons_self
  have rest : a'.Subperm a := (List.sublist_cons_self o a').subperm.trans ha
  have perm : (a' ++ o :: b').Perm (o :: a' ++ b') := List.perm_middle
  obtain ⟨reset, -⟩ := Port.keeps_setCells p o.cells .active
  have others : (p.setCells o.cells .active).carries a' b' :=
    h.without (o := o) rest hb (ha.append hb) reset fun c own _ => by rw [Port.cell_setCells, if_neg own]
  obtain ⟨once, short, queued, active, empty⟩ := h
  obtain ⟨-, short', queued', active', -⟩ := others
  refine ⟨nodup_flatMap_subperm (perm.subperm.trans (ha.append hb)) once, fun r hr => ?_, queued', fun r hr c hc => ?_,
    fun run => ?_⟩
  · rcases List.mem_cons.1 (perm.subset hr) with rfl | hr
    · exact short r (List.mem_append_left _ mem)
    · exact short' r hr
  · rcases List.mem_cons.1 hr with rfl | hr
    · rw [Port.cell_setCells, if_pos hc, queued r mem c hc]
      rfl
    · exact active' r hr c hc
  · obtain ⟨rfl, -⟩ := empty (reset ▸ run)
    cases mem

/-- An order that the host hands in joins those that wait: its cells become QUEUED (R149). -/
theorem join (h : p.carries a b) (ha : a'.Perm (o :: a)) (free : p.reset = none) (once : o.cells.Nodup)
    (short : o.cells.length ≤ 8) (host : ∀ c ∈ o.cells, p.hostSide c = true) (reset : q.reset = p.reset)
    (own : ∀ c ∈ o.cells, q.cell c = some .queued) (cells : ∀ c, c ∉ o.cells → q.cell c = p.cell c) :
    q.carries a' b := by
  obtain ⟨once', short', queued, active, -⟩ := h
  have apart : ∀ r ∈ a ++ b, ∀ c ∈ r.cells, c ∉ o.cells := fun r hr c hc hold => by
    have side := host c hold
    unfold Port.hostSide at side
    rcases List.mem_append.1 hr with hr | hr
    · rw [queued r hr c hc] at side
      cases side
    · rw [active r hr c hc] at side
      cases side
  have perm : (a' ++ b).Perm (o :: (a ++ b)) := ha.append_right b
  refine ⟨nodup_flatMap_subperm perm.subperm ?_, fun r hr => ?_, fun r hr c hc => ?_, fun r hr c hc => ?_,
    fun run => absurd (reset.trans free) run⟩
  · rw [List.flatMap_cons]
    refine once.append once' fun c hold hc => ?_
    obtain ⟨r, hr, hc⟩ := List.mem_flatMap.1 hc
    exact apart r hr c hc hold
  · rcases List.mem_cons.1 (perm.subset hr) with rfl | hr
    · exact short
    · exact short' r hr
  · rcases List.mem_cons.1 (ha.subset hr) with rfl | hr
    · exact own c hc
    · rw [cells c (apart r (List.mem_append_left _ hr) c hc), queued r hr c hc]
  · rw [cells c (apart r (List.mem_append_right _ hr) c hc), active r hr c hc]

end Port.carries

/-! ### The orders of a state -/

theorem Engine.Gains.handed {e f : Engine} (h : e.Gains f) :
    (f.urgent ++ f.routine).filterMap Entry.handed = (e.urgent ++ e.routine).filterMap Entry.handed := by
  obtain ⟨m, l, hm, hl, rfl⟩ := h
  have moves : m.filterMap Entry.handed = [] := List.filterMap_eq_nil_iff.2 fun x hx => by
    have is := hm.move x hx
    cases x with
    | order o => cases is
    | autoMove c f => rfl
    | rebuild => rfl
    | upkeep b => rfl
  have chores : l.filterMap Entry.handed = [] := List.filterMap_eq_nil_iff.2 fun x hx => by
    have is := hl.chore x hx
    cases x with
    | order o => cases is
    | autoMove c f => rfl
    | rebuild => rfl
    | upkeep b => rfl
  simp only [List.filterMap_append, moves, chores, List.append_nil]

/-- The orders of the probes that wait on the links. -/
def State.probing (s : State) : List Handed := allZones.filterMap fun z => s.links[z].slot.map ProbeWork.order

theorem State.working_eq (s : State) :
    s.working = (s.engine.routineContext.work.bind Work.order).toList ++ s.probing := rfl

namespace State.Attends

variable {s t : State} (h : s.Attends t)
include h

theorem waiting : t.waiting = s.waiting := h.engine.handed

theorem probing : t.probing = s.probing := by
  unfold State.probing
  simp only [h.slots]

theorem working : t.working = s.working := by
  obtain ⟨-, context⟩ := h.engine.contexts
  rw [State.working_eq, State.working_eq, h.probing, context]

theorem carries {a b : List Handed} (k : s.port.carries a b) : t.port.carries a b :=
  k.quiet (List.Subperm.refl _) (List.Subperm.refl _) h.reset h.cells

theorem urgentOk (k : ∀ e ∈ s.engine.urgent, e.urgentOk) : ∀ e ∈ t.engine.urgent, e.urgentOk := by
  obtain ⟨m, l, hm, -, eq⟩ := h.engine
  rw [eq]
  intro e he
  rcases List.mem_append.1 he with he | he
  · exact k e he
  · have is := hm.move e he
    cases e with
    | autoMove c f => trivial
    | order o => cases is
    | rebuild => cases is
    | upkeep b => cases is

theorem routineOk (k : ∀ e ∈ s.engine.routine, e.routineOk) : ∀ e ∈ t.engine.routine, e.routineOk := by
  obtain ⟨m, l, -, hl, eq⟩ := h.engine
  rw [eq]
  intro e he
  rcases List.mem_append.1 he with he | he
  · exact k e he
  · have is := hl.chore e he
    cases e with
    | rebuild => trivial
    | upkeep b => trivial
    | order o => cases is
    | autoMove c f => cases is

/-- The middle of an event keeps the orders and the lists. -/
theorem engineOk (k : s.engineOk) : t.engineOk := by
  obtain ⟨orders, urgent, routine, urgentOk, routineOk⟩ := k
  obtain ⟨context, context'⟩ := h.engine.contexts
  refine ⟨?_, context.trans urgent, by rw [context']; exact routine, h.urgentOk urgentOk, h.routineOk routineOk⟩
  rw [State.ordersOk_iff, h.waiting, h.working]
  exact h.carries orders

end State.Attends

/-! ### The end of an order -/

/-- The end of an order changes its own cells, and FREE cells that reports take. -/
theorem State.close_cells (s : State) (o : Handed) (x : OrderOutcome) (r : Reason) (w : Word) (l : List (List Byte)) :
    (s.close o x r w l).port.reset = s.port.reset ∧
      ∀ c, c ∉ o.cells → s.port.cell c ≠ some .free → (s.close o x r w l).port.cell c = s.port.cell c := by
  unfold State.close
  split
  · obtain ⟨reset, -⟩ := (State.keeps_attempt { s with port := s.port.setCells o.cells .free }).port
    obtain ⟨cells, -, -⟩ := State.attempt_reports { s with port := s.port.setCells o.cells .free }
    obtain ⟨before, -⟩ := Port.keeps_setCells s.port o.cells .free
    refine ⟨reset.trans before, fun c own used => ?_⟩
    have same : (s.port.setCells o.cells .free).cell c = s.port.cell c := by rw [Port.cell_setCells, if_neg own]
    exact (cells c (same.symm ▸ used)).trans same
  · obtain ⟨reset, -⟩ := Port.keeps_deliver s.port o.head o.rest o.urgent x r w l
    refine ⟨reset, fun c own _ => ?_⟩
    show (s.port.deliver o.head o.rest o.urgent x r w l).cell c = _
    rw [Port.deliver_cell]
    exact if_neg own

theorem State.close_carries {s : State} {a b a' b' : List Handed} {o : Handed} (h : s.port.carries a b)
    (ha : a'.Subperm a) (hb : b'.Subperm b) (other : (o :: (a' ++ b')).Subperm (a ++ b)) (x : OrderOutcome) (r : Reason)
    (w : Word) (l : List (List Byte)) : (s.close o x r w l).port.carries a' b' := by
  obtain ⟨reset, cells⟩ := s.close_cells o x r w l
  exact h.without ha hb other reset cells

end Sys2Proof.Machine
end


section
/-! Take-ups keep the orders on cells of their own (R132, R133, R146): the order that a context has been given ends, or goes
on in the routine context or on a link. -/

namespace Sys2Proof.Machine

/-- A context runs for an order that has left its list, and the other orders are in order. -/
structure State.Handling (x : State) (o : Handed) : Prop where
  carries : x.port.carries x.waiting (o :: x.working)
  context : (x.engine.urgentContext = .running ∧ x.engine.routineContext.work ≠ some .single ∧
      o.code.urgentPermitted = true) ∨
    (x.engine.urgentContext = .idle ∧ x.engine.routineContext = .running .single)
  urgentOk : ∀ e ∈ x.engine.urgent, e.urgentOk
  routineOk : ∀ e ∈ x.engine.routine, e.routineOk

theorem State.Attends.handling {x y : State} {o : Handed} (h : x.Attends y) (k : x.Handling o) : y.Handling o := by
  obtain ⟨urgent, routine⟩ := h.engine.contexts
  refine ⟨?_, ?_, h.urgentOk k.urgentOk, h.routineOk k.routineOk⟩
  · rw [h.waiting, h.working]
    exact h.carries k.carries
  · rw [urgent, routine]
    exact k.context

theorem waiting_cons {l m : List Entry} (o : Handed) :
    (l ++ .order o :: m).filterMap Entry.handed =
      l.filterMap Entry.handed ++ o :: m.filterMap Entry.handed := by
  rw [List.filterMap_append]
  rfl

/-- A context is given to an order. -/
theorem State.begin_handling {s : State} (ok : s.engineOk) {u : Bool} {o : Handed}
    (h : s.arbiter = some (if u then .takeUrgent (.order o) else .takeRoutine (.order o))) :
    (s.begin u o).Handling o := by
  obtain ⟨orders, idle, single, urgentOk, routineOk⟩ := ok
  rw [State.ordersOk_iff] at orders
  cases u with
  | true =>
    obtain ⟨-, -, -, l, urgent⟩ := State.arbiter_takeUrgent h
    have kind : o.urgent = true ∧ o.code.urgentPermitted = true :=
      urgentOk (.order o) (by rw [urgent]; exact List.mem_cons_self)
    obtain ⟨-, permitted⟩ := kind
    have waiting : s.waiting = o :: (s.begin true o).waiting := by
      show (s.engine.urgent ++ s.engine.routine).filterMap Entry.handed =
        o :: (s.engine.urgent.tail ++ s.engine.routine).filterMap Entry.handed
      rw [urgent]
      exact waiting_cons (l := []) o
    refine ⟨orders.begin (by rw [waiting]) (.refl _), .inl ⟨rfl, single, permitted⟩,
      fun e he => urgentOk e (List.mem_of_mem_tail he), routineOk⟩
  | false =>
    obtain ⟨-, -, rest, urgent, l, routine⟩ := State.arbiter_takeRoutine h
    have waiting : s.waiting = o :: (s.begin false o).waiting := by
      show (s.engine.urgent ++ s.engine.routine).filterMap Entry.handed =
        o :: (s.engine.urgent ++ s.engine.routine.tail).filterMap Entry.handed
      rw [urgent, routine]
      exact waiting_cons (l := []) o
    have working : (s.begin false o).working = s.working := by
      show ((RoutineContext.running .single).work.bind Work.order).toList ++ s.probing = _
      rw [State.working_eq, rest]
      rfl
    refine ⟨orders.begin (by rw [waiting]) (by rw [working]), .inr ⟨idle, rfl⟩, urgentOk,
      fun e he => routineOk e (List.mem_of_mem_tail he)⟩

/-! ### The order leaves its context -/

theorem Engine.release_context {e : Engine} {o : Handed} (h : (e.urgentContext = .running ∧
      e.routineContext.work ≠ some .single ∧ o.code.urgentPermitted = true) ∨
    (e.urgentContext = .idle ∧ e.routineContext = .running .single)) :
    e.release.urgentContext = .idle ∧ e.release.routineContext.work ≠ some .single ∧
      e.release.routineContext.work.bind Work.order = e.routineContext.work.bind Work.order := by
  unfold Engine.release
  rcases h with ⟨urgent, single, -⟩ | ⟨idle, routine⟩
  · rw [urgent]
    exact ⟨rfl, single, rfl⟩
  · rw [idle, routine]
    exact ⟨rfl, nofun, rfl⟩

theorem Engine.release_entries (e : Engine) : e.release.urgent = e.urgent ∧ e.release.routine = e.routine := by
  unfold Engine.release
  split <;> exact ⟨rfl, rfl⟩

/-- A state whose engine has released the context of an order, and whose port and links carry the orders that are left. -/
theorem State.Handling.released {x t : State} {o : Handed} (h : x.Handling o) (engine : t.engine = x.engine.release)
    (carries : t.port.carries x.waiting ((x.engine.routineContext.work.bind Work.order).toList ++ t.probing)) :
    t.engineOk := by
  obtain ⟨urgent, routine⟩ := Engine.release_entries x.engine
  obtain ⟨idle, single, order⟩ := Engine.release_context h.context
  have waiting : t.waiting = x.waiting := by
    unfold State.waiting
    rw [engine, urgent, routine]
  refine ⟨?_, by rw [engine]; exact idle, by rw [engine]; exact single, ?_, ?_⟩
  · rw [State.ordersOk_iff, State.working_eq, waiting, engine, order]
    exact carries
  · rw [engine, urgent]
    exact h.urgentOk
  · rw [engine, routine]
    exact h.routineOk

theorem State.Handling.conclude {x : State} {o : Handed} (h : x.Handling o) (outcome : OrderOutcome) (reason : Reason)
    (argument : Word) (payloads : List (List Byte)) : (x.conclude o outcome reason argument payloads).engineOk := by
  refine h.released (State.conclude_engine _ _ _ _ _ _) ?_
  have probing : (x.conclude o outcome reason argument payloads).probing = x.probing := by
    unfold State.probing
    rw [State.conclude_links]
  rw [probing]
  exact State.close_carries h.carries (.refl _) (List.sublist_cons_self _ _).subperm List.perm_middle.symm.subperm
    outcome reason argument payloads

/-! ### Probe slots -/

theorem filterMap_split {α β : Type} (g : α → Option β) (l m : List α) (a : α) :
    (l ++ a :: m).filterMap g = l.filterMap g ++ ((g a).toList ++ m.filterMap g) := by
  rw [List.filterMap_append, List.filterMap_cons]
  cases g a <;> rfl

/-- The orders of the probes with the one of a link apart. -/
theorem State.probing_split (s : State) (z : Fin 4) :
    ∃ l m, s.probing = l ++ ((s.links[z].slot.map ProbeWork.order).toList ++ m) ∧
      ∀ f : Link → Link, (s.onLink z f).probing = l ++ (((f s.links[z]).slot.map ProbeWork.order).toList ++ m) := by
  obtain ⟨parts, -⟩ := allZones_split z
  have away : ∀ y ∈ allZones.take z.val ++ allZones.drop (z.val + 1), y ≠ z := by revert z; decide
  have split : ∀ t : State, t.probing = _ := fun t =>
    (congrArg (List.filterMap fun y : Fin 4 => t.links[y].slot.map ProbeWork.order) parts).trans (filterMap_split _ _ _ z)
  refine ⟨_, _, split s, fun f => (split (s.onLink z f)).trans ?_⟩
  have other : ∀ y, y ≠ z → (s.onLink z f).links[y] = s.links[y] := fun y ne => by
    rw [State.onLink_links, vector_set_get, if_neg ne]
  have own : (s.onLink z f).links[z] = f s.links[z] := by
    rw [State.onLink_links, vector_set_get, if_pos rfl]
  rw [own]
  congr 1
  · exact List.filterMap_congr fun y hy => by rw [other y (away y (List.mem_append_left _ hy))]
  · congr 1
    exact List.filterMap_congr fun y hy => by rw [other y (away y (List.mem_append_right _ hy))]

/-- A probe slot that is freed. -/
theorem State.probing_freed {s : State} {z : Fin 4} {w : ProbeWork} (h : s.links[z].slot = some w) (f : Link → Link)
    (free : (f s.links[z]).slot = none) : s.probing.Perm (w.order :: (s.onLink z f).probing) := by
  obtain ⟨l, m, before, after⟩ := s.probing_split z
  rw [before, after, h, free]
  exact List.perm_middle

/-- A free probe slot that takes a probe. -/
theorem State.probing_taken {s : State} {z : Fin 4} {w : ProbeWork} {f : Link → Link} (h : s.links[z].slot = none)
    (taken : (f s.links[z]).slot = some w) : (s.onLink z f).probing.Perm (w.order :: s.probing) := by
  obtain ⟨l, m, before, after⟩ := s.probing_split z
  rw [before, after, h, taken]
  exact List.perm_middle

/-! ### What a take-up leaves -/

/-- Stopping handed work ends its order and gives the engine entries of its own. -/
theorem State.cancelWork_closes (s : State) {w : Work} {p : Handed} (h : w.order = some p) :
    ∃ y outcome reason argument payloads, s.Attends y ∧ s.cancelWork w = y.close p outcome reason argument payloads := by
  cases w with
  | place w =>
    cases h
    exact ⟨_, _, _, _, _, .rollback s w, rfl⟩
  | check w =>
    cases h
    exact ⟨_, _, _, _, _, .refl s, rfl⟩
  | rebuild w =>
    have order : w.order = some p := h
    refine ⟨_, .cancelled, .none, 0, [(s.stale .abandoned).rebuildResult w], (State.Attends.refl s).stale .abandoned, ?_⟩
    simp only [State.cancelWork, order]
  | refill w =>
    cases h
    exact ⟨_, _, _, _, _, (State.Attends.refl s).draw 8, rfl⟩
  | upkeep w => cases h
  | single => cases h

/-- The lists without the order of a head cell. -/
theorem Engine.remove_waiting (e : Engine) (n : Nat) :
    ((e.remove n).urgent ++ (e.remove n).routine).filterMap Entry.handed =
      ((e.urgent ++ e.routine).filterMap Entry.handed).filter fun o => o.head ≠ n := by
  unfold Engine.remove
  dsimp only
  rw [← List.filter_append]
  induction e.urgent ++ e.routine with
  | nil => rfl
  | cons x t ih =>
    cases x with
    | order o =>
      by_cases head : o.head = n
      · simpa [Entry.headed, Entry.handed, head] using ih
      · simpa [Entry.headed, Entry.handed, head] using ih
    | autoMove c f => exact ih
    | rebuild => exact ih
    | upkeep b => exact ih

theorem Engine.queued_mem {e : Engine} {n : Nat} {p : Handed} (h : e.queued n = some p) :
    p ∈ (e.urgent ++ e.routine).filterMap Entry.handed ∧ p.head = n := by
  have on : ∀ l : List Entry, queuedOrder n l = some p → p ∈ l.filterMap Entry.handed ∧ p.head = n := fun l => by
    induction l with
    | nil => exact nofun
    | cons x t ih =>
      cases x with
      | order o =>
        unfold queuedOrder
        split
        · next head =>
          intro h
          cases h
          exact ⟨List.mem_filterMap.2 ⟨_, List.mem_cons_self, rfl⟩, head⟩
        · intro h
          obtain ⟨mem, head⟩ := ih h
          exact ⟨List.mem_cons_of_mem _ mem, head⟩
      | autoMove c f => exact ih
      | rebuild => exact ih
      | upkeep b => exact ih
  unfold Engine.queued at h
  rw [List.filterMap_append, List.mem_append]
  rcases Option.or_eq_some_iff.1 h with h | ⟨-, h⟩
  · obtain ⟨mem, head⟩ := on _ h
    exact ⟨.inl mem, head⟩
  · obtain ⟨mem, head⟩ := on _ h
    exact ⟨.inr mem, head⟩

end Sys2Proof.Machine
end


section
/-! Every event keeps the handed orders on cells of their own and each list to entries of its kind (R132, R133, R146). -/

namespace Sys2Proof.Machine

/-! ### What CANCEL leaves -/

theorem State.suspendedWork_context {e : Engine} {n : Nat} {w : Work} (h : e.suspendedWork n = some w) :
    e.routineContext = .suspended w ∧ ∃ p, w.order = some p ∧ p.head = n := by
  unfold Engine.suspendedWork at h
  split at h
  · next v context =>
    split at h
    · next head =>
      cases h
      obtain ⟨p, order, head⟩ := Option.map_eq_some_iff.1 head
      exact ⟨context, p, order, head⟩
    · cases h
  · cases h

theorem State.waitingProbe_slot {s : State} {n : Nat} {z : Fin 4} {w : ProbeWork} (h : s.waitingProbe n = some (z, w)) :
    s.links[z].slot = some w := by
  unfold State.waitingProbe at h
  obtain ⟨y, -, found⟩ := List.exists_of_findSome?_eq_some h
  split at found
  · next v slot =>
    split at found
    · cases found
      exact slot
    · cases found
  · cases found

/-- The end of a probe frees its slot and ends its order. -/
theorem State.endProbe_handling {x : State} {o : Handed} {z : Fin 4} {w : ProbeWork} (h : x.Handling o)
    (slot : x.links[z].slot = some w) (outcome : OrderOutcome) (reason : Reason) (level : Option Byte) :
    (x.endProbe z w outcome reason level).Handling o := by
  let y := x.onLink z fun l => { l with slot := none }
  have engine : (x.endProbe z w outcome reason level).engine = x.engine := State.close_engine _ _ _ _ _ _
  have waiting : (x.endProbe z w outcome reason level).waiting = x.waiting := by
    unfold State.waiting
    rw [engine]
  have probing : (x.endProbe z w outcome reason level).probing = y.probing := by
    unfold State.probing State.endProbe
    rw [State.close_links]
  have freed : x.probing.Perm (w.order :: y.probing) := State.probing_freed slot _ rfl
  refine ⟨?_, by rw [engine]; exact h.context, by rw [engine]; exact h.urgentOk, by rw [engine]; exact h.routineOk⟩
  have working : x.working.Perm (w.order :: (x.endProbe z w outcome reason level).working) := by
    rw [State.working_eq, State.working_eq, engine, probing]
    exact (freed.append_left _).trans List.perm_middle
  rw [waiting]
  have rest := working.cons o
  refine State.close_carries (s := y) h.carries (.refl _)
    ((List.sublist_cons_self w.order _).subperm.trans (((List.Perm.swap _ _ _).trans rest.symm).subperm)) ?_ _ _ _ _
  exact (List.perm_middle.symm.trans ((((List.Perm.swap _ _ _).trans rest.symm)).append_left _)).subperm

/-- Stopping suspended work ends its order. -/
theorem State.cancelWork_handling {x : State} {o p : Handed} {w : Work} (h : x.Handling o)
    (context : x.engine.routineContext = .suspended w) (order : w.order = some p) :
    (x.cancelWork w).idleRoutine.Handling o := by
  obtain ⟨y, outcome, reason, argument, payloads, attends, eq⟩ := x.cancelWork_closes order
  have k := attends.handling h
  obtain ⟨-, routine⟩ := attends.engine.contexts
  rw [eq]
  have engine : (y.close p outcome reason argument payloads).idleRoutine.engine =
      { y.engine with routineContext := .idle } := by
    show { (y.close p outcome reason argument payloads).engine with routineContext := RoutineContext.idle } = _
    rw [State.close_engine]
  have probing : (y.close p outcome reason argument payloads).idleRoutine.probing = y.probing := by
    unfold State.probing
    rw [State.idleRoutine_links, State.close_links]
  have working : y.working = p :: (y.close p outcome reason argument payloads).idleRoutine.working := by
    rw [State.working_eq, State.working_eq, probing, engine, routine, context]
    show (w.order).toList ++ _ = _
    rw [order]
    rfl
  have waiting : (y.close p outcome reason argument payloads).idleRoutine.waiting = y.waiting := by
    unfold State.waiting
    rw [engine]
  refine ⟨?_, ?_, by rw [engine]; exact k.urgentOk, by rw [engine]; exact k.routineOk⟩
  · rw [waiting]
    have carries := k.carries
    rw [working] at carries
    refine State.close_carries (s := y) carries (.refl _) ((List.sublist_cons_self _ _).cons_cons o).subperm ?_ _ _ _ _
    exact (List.perm_middle.symm.trans ((List.Perm.swap _ _ _).append_left _)).subperm
  · rw [engine]
    rcases k.context with ⟨urgent, -, permitted⟩ | ⟨-, busy⟩
    · exact .inl ⟨urgent, nofun, permitted⟩
    · rw [routine, context] at busy
      cases busy

/-- A queued order that is cancelled leaves its list and ends. -/
theorem State.queued_handling {x : State} {o p : Handed} {n : Nat} (h : x.Handling o) (queued : x.engine.queued n = some p) :
    (State.close { x with engine := x.engine.remove n } p .cancelled .none 0 []).Handling o := by
  obtain ⟨mem, head⟩ := Engine.queued_mem queued
  have engine : (State.close { x with engine := x.engine.remove n } p .cancelled .none 0 []).engine = x.engine.remove n :=
    State.close_engine _ _ _ _ _ _
  have waiting : (State.close { x with engine := x.engine.remove n } p .cancelled .none 0 []).waiting =
      x.waiting.filter fun o => o.head ≠ n := by
    unfold State.waiting
    rw [engine]
    exact x.engine.remove_waiting n
  have working : (State.close { x with engine := x.engine.remove n } p .cancelled .none 0 []).working = x.working := by
    unfold State.working
    rw [engine, State.close_links]
    rfl
  refine ⟨?_, by rw [engine]; exact h.context, ?_, ?_⟩
  · rw [waiting, working]
    refine State.close_carries (s := { x with engine := x.engine.remove n }) h.carries List.filter_sublist.subperm
      (.refl _) ?_ _ _ _ _
    exact (cons_filter_subperm mem (by simp [head])).append (.refl _)
  · rw [engine]
    exact fun e he => h.urgentOk e (List.mem_filter.1 he).1
  · rw [engine]
    exact fun e he => h.routineOk e (List.mem_filter.1 he).1

theorem State.cancelTarget_handling {x t : State} {o : Handed} {n : Nat} (h : x.Handling o)
    (target : x.cancelTarget n = some t) : t.Handling o := by
  unfold State.cancelTarget at target
  split at target
  · next queued =>
    cases target
    exact State.queued_handling h queued
  · next suspended =>
    cases target
    obtain ⟨context, p, order, -⟩ := State.suspendedWork_context suspended
    exact State.cancelWork_handling h context order
  · next waiting =>
    cases target
    exact State.endProbe_handling h (State.waitingProbe_slot waiting) _ _ _
  · cases target

/-! ### Take-ups -/

/-- What the procedure of an order comes to leaves the orders and the lists in order. -/
theorem State.Serves.engineOk {x y : State} {o : Handed} (h : x.Serves o.code o y) (k : x.Handling o) : y.engineOk := by
  cases h with
  | ends outcome reason argument payloads attends => exact (attends.handling k).conclude _ _ _ _
  | @begins y c w attends work order _ routine =>
    have ky := attends.handling k
    rcases ky.context with ⟨-, -, permitted⟩ | ⟨idle, single⟩
    · rw [routine] at permitted
      cases permitted
    refine ⟨?_, idle, fun is => ?_, ky.urgentOk, ky.routineOk⟩
    · have working : (y.inContext c).working = o :: y.working := by
        show (c.work.bind Work.order).toList ++ y.probing =
          o :: ((y.engine.routineContext.work.bind Work.order).toList ++ y.probing)
        rw [work, single]
        show (w.order).toList ++ _ = _
        rw [order]
        rfl
      rw [State.ordersOk_iff, working]
      exact ky.carries
    · obtain rfl : w = .single := Option.some.inj (work.symm.trans is)
      cases order
  | @asks z f w free taken order =>
    refine k.released rfl ?_
    have probing : (x.onLink z f).probing.Perm (o :: x.probing) := order ▸ State.probing_taken free taken
    refine Port.carries.quiet k.carries (.refl _) ?_ rfl fun _ _ => rfl
    rw [State.working_eq]
    exact ((probing.append_left _).trans List.perm_middle).subperm
  | cancels _ target => exact (State.cancelTarget_handling k target).conclude _ _ _ _

end Sys2Proof.Machine
end


section
/-! Internal entries and the steps of running work keep the orders on cells of their own (R132, R133, R146). -/

namespace Sys2Proof.Machine

/-! ### Internal entries -/

/-- An internal routine entry in its context: no order is in the routine context, and the lists are in order. -/
structure State.Minding (x : State) : Prop where
  carries : x.port.carries x.waiting x.probing
  idle : x.engine.urgentContext = .idle
  urgentOk : ∀ e ∈ x.engine.urgent, e.urgentOk
  routineOk : ∀ e ∈ x.engine.routine, e.routineOk

theorem State.Attends.minding {x y : State} (h : x.Attends y) (k : x.Minding) : y.Minding := by
  obtain ⟨urgent, -⟩ := h.engine.contexts
  refine ⟨?_, urgent.trans k.idle, h.urgentOk k.urgentOk, h.routineOk k.routineOk⟩
  rw [h.waiting, h.probing]
  exact h.carries k.carries

/-- Work without an order goes on in the routine context, or the context is IDLE. -/
theorem State.Minding.inContext {x : State} (h : x.Minding) {c : RoutineContext} (order : c.work.bind Work.order = none)
    (single : c.work ≠ some .single) : (x.inContext c).engineOk := by
  have working : (x.inContext c).working = x.probing := by
    show (c.work.bind Work.order).toList ++ x.probing = _
    rw [order]
    rfl
  refine ⟨?_, h.idle, single, h.urgentOk, h.routineOk⟩
  rw [State.ordersOk_iff, working]
  exact h.carries

theorem State.Minding.release {x : State} (h : x.Minding) : x.release.engineOk := by
  have released : x.release = x.inContext .idle := by
    show { x with engine := x.engine.release } = _
    rw [Engine.release_idle h.idle]
    rfl
  rw [released]
  exact h.inContext rfl nofun

/-- An internal entry goes from the routine list into the routine context. -/
theorem State.beginEntry_minding {s : State} (ok : s.engineOk) {e : Entry} (h : s.arbiter = some (.takeRoutine e))
    (internal : e.handed = none) : (s.beginEntry false).Minding := by
  obtain ⟨orders, idle, -, urgentOk, routineOk⟩ := ok
  obtain ⟨-, -, rest, -, l, routine⟩ := State.arbiter_takeRoutine h
  have waiting : (s.beginEntry false).waiting = s.waiting := by
    show (s.engine.urgent ++ s.engine.routine.tail).filterMap Entry.handed =
      (s.engine.urgent ++ s.engine.routine).filterMap Entry.handed
    rw [routine, List.filterMap_append, List.filterMap_append, List.filterMap_cons_none internal]
    rfl
  have working : s.working = s.probing := by
    rw [State.working_eq, rest]
    rfl
  refine ⟨?_, idle, urgentOk, fun e he => routineOk e (List.mem_of_mem_tail he)⟩
  rw [waiting]
  rw [State.ordersOk_iff, working] at orders
  exact orders

/-- An AUTO-MOVE entry is carried out in the urgent context, which is IDLE again after it (R99). -/
theorem State.autoMove_engineOk {s : State} (ok : s.engineOk) {c : Fin 256} {f : Nat}
    (h : s.arbiter = some (.takeUrgent (.autoMove c f))) : ((s.beginEntry true).autoMove c f).release.engineOk := by
  obtain ⟨orders, -, single, urgentOk, routineOk⟩ := ok
  obtain ⟨-, -, -, l, urgent⟩ := State.arbiter_takeUrgent h
  have attends := State.Attends.autoMove (s.beginEntry true) c f
  obtain ⟨context, context'⟩ := attends.engine.contexts
  have engine : ((s.beginEntry true).autoMove c f).release.engine =
      { ((s.beginEntry true).autoMove c f).engine with urgentContext := .idle } := by
    show Engine.release _ = _
    unfold Engine.release
    rw [context]
    rfl
  have waiting : ((s.beginEntry true).autoMove c f).release.waiting = s.waiting := by
    have begun : (s.beginEntry true).waiting = s.waiting := by
      show (s.engine.urgent.tail ++ s.engine.routine).filterMap Entry.handed =
        (s.engine.urgent ++ s.engine.routine).filterMap Entry.handed
      rw [urgent]
      rfl
    rw [← begun, ← attends.waiting]
    unfold State.waiting
    rw [engine]
  have working : ((s.beginEntry true).autoMove c f).release.working = s.working := by
    have begun : (s.beginEntry true).working = s.working := rfl
    rw [← begun, ← attends.working]
    unfold State.working
    rw [engine]
    rfl
  refine ⟨?_, by rw [engine], ?_, ?_, ?_⟩
  · rw [State.ordersOk_iff, waiting, working]
    exact attends.carries (s := s.beginEntry true) orders
  · rw [engine]
    show ((s.beginEntry true).autoMove c f).engine.routineContext.work ≠ _
    rw [context']
    exact single
  · rw [engine]
    exact attends.urgentOk fun e he => urgentOk e (List.mem_of_mem_tail he)
  · rw [engine]
    exact attends.routineOk routineOk

/-! ### Work in the routine context -/

/-- What a step of the work in the routine context comes to, or its resumption: the work goes on for the same order, ends
it, or ends without one. -/
inductive State.Works (s : State) (w : Work) : State → Prop
  | goes {y : State} {k : RoutineContext} {v : Work} : s.Attends y → k.work = some v → v.order = w.order →
      v.kind = w.kind → v ≠ .single → s.Works w (y.inContext k)
  | ends {y : State} {o : Handed} (outcome : OrderOutcome) (reason : Reason) (argument : Word)
      (payloads : List (List Byte)) : s.Attends y → w.order = some o →
      s.Works w (y.conclude o outcome reason argument payloads)
  | rests {y : State} : s.Attends y → w.order = none → s.Works w y.release

namespace State.Works

variable {s y : State} {w : Work}

theorem yields (h : s.Attends y) (v : Work) (order : v.order = w.order) (kind : v.kind = w.kind)
    (real : v ≠ .single) :
    s.Works w (y.yieldWith v) := by
  obtain ⟨k, work, eq⟩ := y.yieldWith_inContext v
  rw [eq]
  exact goes h work order kind real

theorem runs (h : s.Attends y) (v : Work) (order : v.order = w.order) (kind : v.kind = w.kind)
    (real : v ≠ .single) :
    s.Works w (y.runWith v) := goes (k := .running v) h rfl order kind real

theorem rebuildEnded {w : RebuildWork} (h : s.Attends y) (v : RebuildWork) (order : v.order = w.order)
    (outcome : OrderOutcome) (reason : Reason) : s.Works (.rebuild w) (y.endRebuild v outcome reason) := by
  unfold State.endRebuild
  split
  · next o own => exact ends _ _ _ _ h (order.symm.trans own)
  · next none => exact rests h (order.symm.trans none)

theorem rebuildStep (s : State) (w : RebuildWork) : s.Works (.rebuild w) (s.rebuildStep w) := by
  have judged : ∀ x, s.Attends (s.rebuildJudge w x).1 ∧ (s.rebuildJudge w x).2.order = w.order := fun x => by
    unfold State.rebuildJudge
    split
    · exact ⟨.refl s, rfl⟩
    · exact ⟨(State.Attends.refl s).mark _ _, rfl⟩
  unfold State.rebuildStep
  split
  · exact rebuildEnded ((State.Attends.refl s).census _) w rfl _ _
  · next x _ =>
    split
    · unfold State.rebuildAdd
      dsimp only
      split
      · exact rebuildEnded (((State.Attends.refl s).census _).stale _) w rfl _ _
      · refine yields ((State.Attends.refl s).census _) _ ?_ rfl nofun
        show RebuildWork.order (w.counted _) = w.order
        unfold RebuildWork.counted
        split <;> rfl
    · unfold State.rebuildSweep
      obtain ⟨attends, order⟩ := judged x
      dsimp only
      split
      · exact yields attends _ order rfl nofun
      · exact rebuildEnded (attends.census _) _ order _ _

theorem checkStep (s : State) (w : CheckWork) : s.Works (.check w) (s.checkStep w) := by
  unfold State.checkStep
  split
  · exact ends _ _ _ _ (.refl s) rfl
  · dsimp only
    split
    · exact ends _ _ _ _ (.refl s) rfl
    · exact yields (.refl s) _ rfl rfl nofun

theorem upkeepStep (s : State) (w : UpkeepWork) : s.Works (.upkeep w) (s.upkeepStep w) := by
  unfold State.upkeepStep
  dsimp only
  split
  · exact rests ((State.Attends.upkeepUnit s w).markShort _) rfl
  · exact yields (.upkeepUnit s w) _ rfl rfl nofun

theorem refillStep (s : State) (w : RefillWork) : s.Works (.refill w) (s.refillStep w) := by
  have ended : ∀ (y : State) (v : RefillWork), s.Attends y → v.order = w.order → s.Works (.refill w) (y.endRefill v) :=
    fun y v h order => by
      unfold State.endRefill
      dsimp only
      split
      · exact ends _ _ _ _ (h.draw 8) (congrArg some order.symm)
      · exact ends _ _ _ _ (h.draw 8) (congrArg some order.symm)
  have on : ∀ (y : State) (v : RefillWork), s.Attends y → v.order = w.order → s.Works (.refill w) (y.refillOn v) :=
    fun y v h order => by
      unfold State.refillOn
      split
      · exact ended y v h order
      · exact yields h _ (congrArg some order) rfl nofun
  unfold State.refillStep
  split
  · exact ended s w (.refl s) rfl
  · next u _ =>
    dsimp only
    split
    · exact on _ _ ((State.Attends.upkeepUnit s u).markShort _) (State.seek_order _ _ _)
    · exact on _ _ (.upkeepUnit s u) rfl

theorem push_order (w : PlaceWork) (l : List PlaceItem) : (w.push l).order = w.order := by
  induction l generalizing w with
  | nil => rfl
  | cons i t ih =>
    unfold PlaceWork.push
    dsimp only
    split
    · exact ih _
    · rfl

theorem passOver_order (w : PlaceWork) : w.passOver.order = w.order := by
  unfold PlaceWork.passOver
  split
  · split
    · exact push_order _ _
    · rfl
  · rfl

theorem backtrack_order (item : PlaceItem) (l : List StackEntry) (x : State × PlaceWork) :
    (backtrack item l x).2.order = x.2.order := by
  induction l generalizing item x with
  | nil => rfl
  | cons e below ih =>
    unfold backtrack
    dsimp only
    split
    · exact ih _ _
    · rfl

variable {w : PlaceWork}

theorem placeEnded (h : s.Attends y) (v : PlaceWork) (order : v.order = w.order) (committed : Bool)
    (outcome : OrderOutcome) (reason : Reason) (n : Nat) :
    s.Works (.place w) (y.endPlace v committed outcome reason n) := ends _ _ _ _ h (congrArg some order.symm)

theorem bestEffortEnd (h : s.Attends y) (v : PlaceWork) (order : v.order = w.order) :
    s.Works (.place w) (y.bestEffortEnd v) := by
  have committed := h.trans (.commit y v)
  unfold State.bestEffortEnd
  dsimp only
  split
  · exact placeEnded committed v order _ _ _ _
  · split
    · exact placeEnded committed v order _ _ _ _
    · exact placeEnded committed v order _ _ _ _

theorem afterEvaluation (h : s.Attends y) (v : PlaceWork) (order : v.order = w.order) :
    s.Works (.place w) (y.afterEvaluation v) := by
  unfold State.afterEvaluation
  split
  · exact yields h _ (congrArg some order) rfl nofun
  · split
    · exact bestEffortEnd h v order
    · split
      · exact placeEnded (y := y.clearMarks) (h.plan _) v order _ _ _ _
      · exact placeEnded (h.trans (.commit y v)) v order _ _ _ _

theorem placeFail (v : PlaceWork) (order : v.order = w.order) (e : StackEntry) :
    s.Works (.place w) (s.placeFail v e) := by
  unfold State.placeFail
  dsimp only
  split
  · exact afterEvaluation (.refl s) _ order
  · split
    · exact afterEvaluation (.refl s) _ ((passOver_order _).trans order)
    · exact afterEvaluation (State.Attends.inStageOrder (.backtracked _ _ (s, _))) _ ((backtrack_order _ _ _).trans order)

theorem placeStep (s : State) (w : PlaceWork) : s.Works (.place w) (s.placeStep w) := by
  have order := passOver_order w
  unfold State.placeStep
  dsimp only
  split
  · exact afterEvaluation (.refl s) _ order
  · next e _ =>
    split
    · unfold State.budgetEnd
      split
      · exact bestEffortEnd (.refl s) _ order
      · exact placeEnded (.rollback s _) _ order _ _ _ _
    · unfold State.placeEvaluate
      dsimp only
      split
      · refine placeFail _ ?_ e
        exact order
      · split
        · exact afterEvaluation ((State.Attends.refl s).addPrimary _ _ _ _) _ ((push_order _ _).trans order)
        · refine placeFail _ ?_ e
          exact order

end State.Works

theorem State.works_step (s : State) {w : Work} (real : w ≠ .single) : s.Works w (s.workStep w) := by
  cases w with
  | rebuild w => exact .rebuildStep s w
  | check w => exact .checkStep s w
  | place w => exact .placeStep s w
  | upkeep w => exact .upkeepStep s w
  | refill w => exact .refillStep s w
  | single => exact absurd rfl real

theorem State.works_resume (s : State) {w : Work} (real : w ≠ .single) : s.Works w (s.resume w) := by
  cases w with
  | rebuild w =>
    simp only [State.resume]
    split
    · exact .runs (.refl s) _ rfl rfl nofun
    · exact .runs ((State.Attends.refl s).census _) _ rfl rfl nofun
  | place w => exact .runs (.refl s) _ rfl rfl nofun
  | check w => exact .runs (.refl s) _ rfl rfl nofun
  | upkeep w => exact .runs (.refl s) _ rfl rfl nofun
  | refill w => exact .runs (.refl s) _ rfl rfl nofun
  | single => exact absurd rfl real

/-- A step of the work in the routine context leaves the orders in order. -/
theorem State.Works.engineOk {s y : State} {w : Work} (h : s.Works w y) (ok : s.engineOk)
    (work : s.engine.routineContext.work = some w) : y.engineOk := by
  obtain ⟨orders, idle, -, urgentOk, routineOk⟩ := ok
  rw [State.ordersOk_iff, State.working_eq, work] at orders
  have minding : ∀ {y : State}, s.Attends y → w.order = none → y.Minding := fun attends order => by
    have carries : s.port.carries s.waiting s.probing := by
      have same : ((some w).bind Work.order).toList ++ s.probing = s.probing := by
        show (w.order).toList ++ _ = _
        rw [order]
        rfl
      rwa [same] at orders
    exact attends.minding ⟨carries, idle, urgentOk, routineOk⟩
  cases h with
  | @goes y k v attends running order _ real =>
    obtain ⟨context, -⟩ := attends.engine.contexts
    have working : (y.inContext k).working = ((some w).bind Work.order).toList ++ s.probing := by
      show (k.work.bind Work.order).toList ++ y.probing = _
      rw [running, attends.probing]
      show (v.order).toList ++ _ = (w.order).toList ++ _
      rw [order]
    refine ⟨?_, context.trans idle, fun is => real (Option.some.inj (running.symm.trans is)), attends.urgentOk urgentOk,
      attends.routineOk routineOk⟩
    have waiting : (y.inContext k).waiting = s.waiting := attends.waiting
    rw [State.ordersOk_iff, working, waiting]
    exact attends.carries orders
  | @ends y o outcome reason argument payloads attends order =>
    have carries : y.port.carries y.waiting (o :: y.probing) := by
      have own : ((some w).bind Work.order).toList ++ s.probing = o :: s.probing := by
        show (w.order).toList ++ _ = _
        rw [order]
        rfl
      rw [own] at orders
      rw [attends.waiting, attends.probing]
      exact attends.carries orders
    obtain ⟨context, -⟩ := attends.engine.contexts
    have closed : (y.close o outcome reason argument payloads).Minding := by
      have engine : (y.close o outcome reason argument payloads).engine = y.engine := State.close_engine _ _ _ _ _ _
      have waiting : (y.close o outcome reason argument payloads).waiting = y.waiting := by
        unfold State.waiting
        rw [engine]
      have probing : (y.close o outcome reason argument payloads).probing = y.probing := by
        unfold State.probing
        rw [State.close_links]
      refine ⟨?_, by rw [engine]; exact context.trans idle, by rw [engine]; exact attends.urgentOk urgentOk,
        by rw [engine]; exact attends.routineOk routineOk⟩
      rw [waiting, probing]
      exact State.close_carries carries (.refl _) (List.sublist_cons_self _ _).subperm List.perm_middle.symm.subperm
        outcome reason argument payloads
    exact closed.release
  | rests attends order => exact (minding attends order).release

/-! ### Take-ups -/

/-- What the arbiter hands out leaves the orders in order. -/
theorem State.taken_engineOk {s : State} {g : Grant} (ok : s.engineOk) (h : s.arbiter = some g) : (s.taken g).engineOk := by
  have orders := ok
  obtain ⟨carries, idle, single, urgentOk, routineOk⟩ := orders
  cases g with
  | takeUrgent e =>
    obtain ⟨-, -, -, l, urgent⟩ := State.arbiter_takeUrgent h
    have kind : e.urgentOk := urgentOk e (by rw [urgent]; exact List.mem_cons_self)
    cases e with
    | order o => exact (State.serves o.code o _).engineOk (State.begin_handling ok (u := true) h)
    | autoMove c f => exact State.autoMove_engineOk ok h
    | rebuild => exact kind.elim
    | upkeep b => exact kind.elim
  | takeRoutine e =>
    obtain ⟨-, -, -, -, l, routine⟩ := State.arbiter_takeRoutine h
    have kind : e.routineOk := routineOk e (by rw [routine]; exact List.mem_cons_self)
    cases e with
    | order o => exact (State.serves o.code o _).engineOk (State.begin_handling ok (u := false) h)
    | autoMove c f => exact kind.elim
    | rebuild =>
      have minding := State.beginEntry_minding ok h rfl
      show (s.beginEntry false).takeRebuild.engineOk
      unfold State.takeRebuild
      split
      · exact minding.release
      · obtain ⟨k, work, eq⟩ := State.yieldWith_inContext
          { s.beginEntry false with census := (s.beginEntry false).census.startRebuild }
          (.rebuild ((s.beginEntry false).rebuildWork none 0))
        unfold State.startRebuild
        rw [eq]
        refine State.Minding.inContext (((State.Attends.refl _).census _).minding minding) ?_ ?_
        · rw [work]
          rfl
        · rw [work]
          exact nofun
    | upkeep b =>
      have minding := State.beginEntry_minding ok h rfl
      show ((s.beginEntry false).startUpkeep b).engineOk
      unfold State.startUpkeep
      split
      · exact minding.release
      · split
        · exact minding.release
        · exact minding.inContext (c := .running (.upkeep _)) rfl nofun
  | resume w =>
    obtain ⟨-, context⟩ := State.arbiter_resume h
    have work : s.engine.routineContext.work = some w := by rw [context]; rfl
    exact (State.works_resume s fun is => single (work.trans (congrArg some is))).engineOk ok work

end Sys2Proof.Machine
end


section
/-! Every event keeps the handed orders on cells of their own and each list to entries of its kind: the first part of O9. -/

namespace Sys2Proof.Machine

/-- No order is carried. -/
theorem State.engineOk_empty {s : State} (waiting : s.waiting = []) (working : s.working = [])
    (idle : s.engine.urgentContext = .idle) (single : s.engine.routineContext.work ≠ some .single)
    (urgentOk : ∀ e ∈ s.engine.urgent, e.urgentOk) (routineOk : ∀ e ∈ s.engine.routine, e.routineOk) : s.engineOk := by
  refine ⟨?_, idle, single, urgentOk, routineOk⟩
  rw [State.ordersOk_iff, waiting, working]
  exact .nil _

/-- A port whose host-side cells alone have changed. -/
theorem State.engineOk_port {s t : State} (ok : s.engineOk) (engine : t.engine = s.engine) (links : t.links = s.links)
    (reset : t.port.reset = s.port.reset)
    (cells : ∀ c, s.port.cell c = some .queued ∨ s.port.cell c = some .active → t.port.cell c = s.port.cell c) :
    t.engineOk := by
  obtain ⟨⟨once, short, queued, active, empty⟩, rest⟩ := ok
  have waiting : t.waiting = s.waiting := by
    unfold State.waiting
    rw [engine]
  have working : t.working = s.working := by
    unfold State.working
    rw [engine, links]
  refine ⟨?_, by rw [engine]; exact rest⟩
  rw [State.ordersOk_iff, waiting, working]
  refine ⟨once, short, fun o ho c hc => ?_, fun o ho c hc => ?_, by rw [reset]; exact empty⟩
  · have state := queued o ho c hc
    rw [cells c (.inl state), state]
  · have state := active o ho c hc
    rw [cells c (.inr state), state]

theorem State.engineOk_idle {s t : State} (ok : s.engineOk) (engine : t.engine = s.engine) (links : t.links = s.links)
    (port : t.port = s.port) : t.engineOk :=
  State.engineOk_port ok engine links (by rw [port]) fun c _ => by rw [port]

theorem Port.hostSide_apart {p : Port} {n : Nat} (host : p.hostSide n = true) {c : Nat}
    (h : p.cell c = some .queued ∨ p.cell c = some .active) : c ≠ n := by
  rintro rfl
  unfold Port.hostSide at host
  rcases h with h | h <;> rw [h] at host <;> cases host

/-! ### Events on which the arbiter does not act -/

theorem State.claim_engineOk {s : State} (ok : s.engineOk) : (s.withPort s.port.claimed).engineOk := by
  have reset : s.port.claimed.reset = s.port.reset := by
    unfold Port.claimed
    split
    · obtain ⟨kept, -⟩ := Port.keeps_setCell s.port _ CellState.held
      exact kept
    · rfl
  refine State.engineOk_port ok rfl rfl reset fun c used => ?_
  show s.port.claimed.cell c = _
  unfold Port.claimed
  split
  · next n found =>
    split at found
    · cases found
    · obtain ⟨free, -⟩ := Port.lowestFree_some found
      have other : c ≠ n := by
        rintro rfl
        rw [free] at used
        rcases used with h | h <;> cases h
      show (s.port.setCell n .held).cell c = _
      rw [Port.cell_setCell, if_neg other]
  · rfl

theorem State.give_engineOk {s : State} (ok : s.engineOk) {n : Nat} (host : s.port.hostSide n = true) :
    (State.attempt (s.withPort ((s.port.setCell n .free).leave [n]))).engineOk := by
  obtain ⟨reset, -⟩ := (Port.keeps_setCell s.port n .free).trans (Port.keeps_leave _ [n])
  refine State.Attends.engineOk ((State.Attends.refl _).attempt) (State.engineOk_port ok rfl rfl reset fun c used => ?_)
  show ((s.port.setCell n .free).leave [n]).cell c = _
  rw [Port.cell_congr (Port.leave_cells _ _), Port.cell_setCell, if_neg (Port.hostSide_apart host used)]

theorem State.QuietEvent.engineOk {s a : State} (h : s.QuietEvent a) (ok : s.engineOk) : a.engineOk := by
  cases h with
  | same => exact ok
  | misuse => exact State.engineOk_port ok rfl rfl rfl fun _ _ => rfl
  | claim => exact State.claim_engineOk ok
  | give _ host => exact State.give_engineOk ok host
  | notices raw enables => exact State.engineOk_port ok rfl rfl rfl fun _ _ => rfl
  | write a l => exact State.engineOk_port ok rfl rfl rfl fun _ _ => rfl
  | frame z => exact (State.Attends.validFrame s z).engineOk ok
  | crcError z => exact ((State.Attends.refl s).onLink z _ fun _ => by rfl).engineOk ok
  | formatError z => exact ((State.Attends.refl s).onLink z _ fun _ => by rfl).engineOk ok
  | timeout _ => exact ((State.Attends.refl _).goStale _).engineOk (State.engineOk_idle ok rfl rfl rfl)
  | move _ =>
    exact (State.Attends.mark ((State.Attends.refl _).setHold _ _) _ _).engineOk (State.engineOk_idle ok rfl rfl rfl)
  | soft run auto _ =>
    refine State.engineOk_empty rfl ?_ rfl nofun nofun nofun
    show allZones.filterMap (fun z => (mapTable Link.softReset s.links)[z].slot.map ProbeWork.order) = []
    exact List.filterMap_eq_nil_iff.2 fun z _ => by rw [mapTable_get]; rfl

/-! ### Events on which the arbiter acts -/

/-- The end of a probe outside CANCEL. -/
theorem State.endProbe_engineOk {s : State} (ok : s.engineOk) {z : Fin 4} {w : ProbeWork} (slot : s.links[z].slot = some w)
    (outcome : OrderOutcome) (reason : Reason) (level : Option Byte) : (s.endProbe z w outcome reason level).engineOk := by
  obtain ⟨orders, rest⟩ := ok
  have engine : (s.endProbe z w outcome reason level).engine = s.engine := State.close_engine _ _ _ _ _ _
  have waiting : (s.endProbe z w outcome reason level).waiting = s.waiting := by
    unfold State.waiting
    rw [engine]
  have probing : (s.endProbe z w outcome reason level).probing = (s.onLink z fun l => { l with slot := none }).probing := by
    unfold State.probing State.endProbe
    rw [State.close_links]
  have freed : s.probing.Perm (w.order :: (s.onLink z fun l => { l with slot := none }).probing) :=
    State.probing_freed slot _ rfl
  have working : s.working.Perm (w.order :: (s.endProbe z w outcome reason level).working) := by
    rw [State.working_eq, State.working_eq, engine, probing]
    exact (freed.append_left _).trans List.perm_middle
  refine ⟨?_, by rw [engine]; exact rest⟩
  rw [State.ordersOk_iff, waiting]
  refine State.close_carries (s := s.onLink z fun l => { l with slot := none }) orders (.refl _)
    ((List.sublist_cons_self w.order _).subperm.trans working.symm.subperm) ?_ _ _ _ _
  exact (List.perm_middle.symm.trans (working.symm.append_left _)).subperm

theorem State.answer_engineOk {s : State} (ok : s.engineOk) (z : Fin 4) (i l : Byte) : (s.answer z i l).engineOk := by
  have stray : (s.onLink z fun l => { l with stray := min (l.stray + 1) 255 }).engineOk :=
    State.Attends.engineOk ((State.Attends.refl s).onLink z _ fun _ => by rfl) ok
  unfold State.answer
  split
  · next w slot =>
    split
    · exact State.endProbe_engineOk ok slot _ _ _
    · exact stray
  · exact stray

theorem State.accept_engineOk {s : State} (ok : s.engineOk) {n : Nat} {o : Handed} (free : s.port.reset = none)
    (host : s.port.hostSide n = true) (h : s.port.handed n = .ok o) : (s.accept o).engineOk := by
  obtain ⟨handed, -⟩ := handChecksChain s.port n host
  obtain ⟨-, ⟨-, once, short, side, -⟩, -, -, -, permitted⟩ := handed o h
  obtain ⟨orders, idle, single, urgentOk, routineOk⟩ := ok
  obtain ⟨reset, -⟩ := (Port.keeps_setCells s.port o.cells .queued).trans (Port.keeps_leave _ o.cells)
  have cell : ∀ c, (s.accept o).port.cell c = (s.port.setCells o.cells .queued).cell c := fun c =>
    Port.cell_congr (Port.leave_cells _ _) c
  have joined : (s.accept o).waiting.Perm (o :: s.waiting) := by
    show (((s.engine.join o).urgent ++ (s.engine.join o).routine).filterMap Entry.handed).Perm _
    unfold Engine.join
    split
    · show ((s.engine.urgent ++ [Entry.order o] ++ s.engine.routine).filterMap Entry.handed).Perm _
      rw [List.append_assoc]
      exact (List.Perm.of_eq (waiting_cons (m := s.engine.routine) o)).trans (by
        rw [State.waiting, List.filterMap_append]
        exact List.perm_middle)
    · show ((s.engine.urgent ++ (s.engine.routine ++ [Entry.order o])).filterMap Entry.handed).Perm _
      rw [← List.append_assoc]
      exact (List.Perm.of_eq (waiting_cons (m := []) o)).trans (by
        rw [State.waiting]
        exact List.perm_append_singleton _ _)
  have working : (s.accept o).working = s.working := by
    show ((s.engine.join o).routineContext.work.bind Work.order).toList ++ s.probing = _
    unfold Engine.join
    split <;> rfl
  refine ⟨?_, ?_, ?_, fun e he => ?_, fun e he => ?_⟩
  · rw [State.ordersOk_iff, working]
    refine Port.carries.join orders joined free once short side reset (fun c hc => ?_) fun c hc => ?_
    · rw [cell, Port.cell_setCells, if_pos hc]
      obtain ⟨st, state, -⟩ := Port.hostSide_not_free (side c hc)
      rw [state]
      rfl
    · rw [cell, Port.cell_setCells, if_neg hc]
  · show (s.engine.join o).urgentContext = _
    unfold Engine.join
    split <;> exact idle
  · show (s.engine.join o).routineContext.work ≠ _
    unfold Engine.join
    split <;> exact single
  · have mem : e ∈ (s.engine.join o).urgent := he
    unfold Engine.join at mem
    split at mem
    · next urgent =>
      rcases List.mem_append.1 mem with old | new
      · exact urgentOk e old
      · obtain rfl := List.mem_singleton.1 new
        exact ⟨urgent, permitted urgent⟩
    · exact urgentOk e mem
  · have mem : e ∈ (s.engine.join o).routine := he
    unfold Engine.join at mem
    split at mem
    · exact routineOk e mem
    · next routine =>
      rcases List.mem_append.1 mem with old | new
      · exact routineOk e old
      · obtain rfl := List.mem_singleton.1 new
        exact Bool.eq_false_iff.2 routine

theorem State.turnAway_engineOk {s : State} (ok : s.engineOk) {n : Nat} (host : s.port.hostSide n = true) (r : Reason) :
    (s.turnAway n r).engineOk := by
  obtain ⟨reset, -⟩ := (Port.keeps_leave s.port [n]).trans
    (Port.keeps_deliver _ n [] (((s.port.leave [n]).headFlags n).testBit 0) .refused r 0 [])
  refine State.engineOk_port ok rfl rfl reset fun c used => ?_
  show ((s.port.leave [n]).deliver n [] _ .refused r 0 []).cell c = _
  rw [Port.deliver_cell, if_neg (by simpa using Port.hostSide_apart host used)]
  exact Port.cell_congr (Port.leave_cells _ _) c

theorem filterMap_internal (l : List Entry) : (l.filter Entry.isInternal).filterMap Entry.handed = [] :=
  List.filterMap_eq_nil_iff.2 fun x hx => by
    have internal := (List.mem_filter.1 hx).2
    cases x with
    | order o => cases internal
    | autoMove c f => rfl
    | rebuild => rfl
    | upkeep b => rfl

/-- Abandoning handed work leaves no order in the routine context, and gives the engine entries of its own. -/
theorem State.abandonWork_attends (s : State) (single : s.engine.routineContext.work ≠ some .single) :
    ∃ y k, s.Attends y ∧ s.abandonWork = y.inContext k ∧ k.work.bind Work.order = none ∧ k.work ≠ some .single := by
  have same : ∀ {v : Work}, s.engine.routineContext.work = some v → v.order = none →
      s.Attends s ∧ s = s.inContext s.engine.routineContext ∧ s.engine.routineContext.work.bind Work.order = none ∧
        s.engine.routineContext.work ≠ some .single := fun work order =>
    ⟨.refl s, rfl, by rw [work]; exact order, single⟩
  unfold State.abandonWork
  split
  · exact ⟨_, .idle, .rollback s _, rfl, rfl, nofun⟩
  · next w work =>
    split
    · exact ⟨_, .idle, (State.Attends.refl s).stale _, rfl, rfl, nofun⟩
    · next internal => exact ⟨s, _, same work (Option.not_isSome_iff_eq_none.1 internal)⟩
  · exact ⟨s, .idle, .refl s, rfl, rfl, nofun⟩
  · exact ⟨s, .idle, .refl s, rfl, rfl, nofun⟩
  · next w work => exact ⟨s, _, same work rfl⟩
  · next work => exact absurd work single
  · next work => exact ⟨s, s.engine.routineContext, .refl s, rfl, by rw [work]; rfl, single⟩

theorem State.exchange_engineOk {s : State} (ok : s.engineOk) (run auto : Bool) : (s.beginExchange run auto).engineOk := by
  obtain ⟨-, idle, single, urgentOk, routineOk⟩ := ok
  obtain ⟨y, k, attends, eq, order, real⟩ := s.abandonWork_attends single
  obtain ⟨context, -⟩ := attends.engine.contexts
  have engine : (s.beginExchange run auto).engine = (y.inContext k).engine.keepInternal := by
    show s.abandonWork.engine.keepInternal = _
    rw [eq]
  refine State.engineOk_empty ?_ ?_ ?_ ?_ ?_ ?_
  · unfold State.waiting
    rw [engine, List.filterMap_append]
    exact congrArg₂ _ (filterMap_internal _) (filterMap_internal _)
  · rw [State.working_eq, engine]
    show (k.work.bind Work.order).toList ++ _ = []
    rw [order]
    show allZones.filterMap (fun z =>
      (mapTable (fun l : Link => { l with slot := none }) s.abandonWork.links)[z].slot.map ProbeWork.order) = []
    exact List.filterMap_eq_nil_iff.2 fun z _ => by rw [mapTable_get]; rfl
  · rw [engine]
    exact context.trans idle
  · rw [engine]
    exact real
  · rw [engine]
    exact fun e he => attends.urgentOk urgentOk e (List.mem_filter.1 he).1
  · rw [engine]
    exact fun e he => attends.routineOk routineOk e (List.mem_filter.1 he).1

theorem State.running_work {s : State} {w : Work} (h : s.running = some w) : s.engine.routineContext = .running w := by
  unfold State.running at h
  split at h
  · next v context =>
    cases h
    exact context
  · cases h

theorem State.OpenEvent.engineOk {s a : State} (h : s.OpenEvent a) (ok : s.engineOk) : a.engineOk := by
  cases h with
  | take granted => exact State.taken_engineOk ok granted
  | @work w running =>
    have work : s.engine.routineContext.work = some w := by
      rw [State.running_work running]
      rfl
    have parts := ok
    obtain ⟨-, -, single, -⟩ := parts
    exact (s.works_step fun is => single (work.trans (congrArg some is))).engineOk ok work
  | sweep z number first stride flags levels =>
    exact ((State.Attends.validFrame s z).trans (.sweepFrame _ _ _ _ _ _ _)).engineOk ok
  | answer z i l => exact State.answer_engineOk ((State.Attends.validFrame s z).engineOk ok) z i l
  | @deadline z w slot =>
    have timed : State.engineOk { s with now := max s.now w.deadline } := State.engineOk_idle ok rfl rfl rfl
    exact State.endProbe_engineOk timed slot _ _ _
  | accept free host handed => exact State.accept_engineOk ok free host handed
  | turnAway _ host _ => exact State.turnAway_engineOk ok host _
  | switch run auto _ => exact State.engineOk_port ok rfl rfl rfl fun _ _ => rfl
  | exchange run auto _ => exact State.exchange_engineOk ok run auto

theorem kept_engineOk : State.Kept State.engineOk where
  pending := fun _ _ ok => ok
  idle := fun _ ok => ok
  byte := fun s z b l ok => State.Attends.engineOk ((State.Attends.refl s).onLink z _ fun _ => by rfl) ok
  receiver := fun s z l ok => State.Attends.engineOk ((State.Attends.refl s).onLink z _ fun _ => by rfl) ok
  quiet := fun s a event ok => State.engineOk_port (event.engineOk ok) rfl rfl rfl fun _ _ => rfl
  acts := fun s a event ok => State.engineOk_port (event.engineOk ok) rfl rfl rfl fun _ _ => rfl
  powered := fun s _ => by
    refine State.engineOk_empty rfl ?_ rfl nofun nofun nofun
    show allZones.filterMap (fun z =>
      (mapTable (fun l : Link => { Link.cleared with line := l.line }) s.links)[z].slot.map ProbeWork.order) = []
    exact List.filterMap_eq_nil_iff.2 fun z _ => by rw [mapTable_get]; rfl
  resetEnd := fun s r running ok => by
    obtain ⟨⟨-, -, -, -, empty⟩, rest⟩ := ok
    obtain ⟨waiting, working⟩ := empty (by rw [running]; exact nofun)
    obtain ⟨idle, single, urgentOk, routineOk⟩ := rest
    have ended : State.engineOk { s with port := s.port.endReset r.kind, now := max s.now r.ends } :=
      State.engineOk_empty waiting working idle single urgentOk routineOk
    exact State.engineOk_port (State.Attends.engineOk ((State.Attends.refl _).attempt) ended) rfl rfl rfl fun _ _ => rfl

end Sys2Proof.Machine
end


section
/-! Events that leave the site model, the plan and the census, and of the spare lists drop spares at most (`State.Still`):
the reads, the orders on zones and links, and what a link brings about. -/

namespace Sys2Proof.Machine

/-- The site model, the plan and the census stay, and each spare list loses spares at most. -/
structure State.Still (s t : State) : Prop where
  site : t.site = s.site
  plan : t.plan = s.plan
  census : t.census = s.census
  spares : s.Thins t

namespace State.Still

theorem of_eq {s t : State} (site : t.site = s.site) (plan : t.plan = s.plan) (census : t.census = s.census)
    (spares : t.spares = s.spares) : s.Still t := ⟨site, plan, census, State.thins_of_eq spares⟩

theorem refl (s : State) : s.Still s := of_eq rfl rfl rfl rfl

theorem trans {s t u : State} (h : s.Still t) (k : t.Still u) : s.Still u :=
  ⟨k.site.trans h.site, k.plan.trans h.plan, k.census.trans h.census, h.spares.trans k.spares⟩

theorem fold {α : Type} {s t : State} (h : s.Still t) (f : State → α → State)
    (hf : ∀ (t : State) (a : α), t.Still (f t a)) (l : List α) : s.Still (l.foldl f t) := by
  induction l generalizing t with
  | nil => exact h
  | cons a l ih => exact ih (h.trans (hf t a))

theorem ite {s t u : State} (p : Prop) [Decidable p] (ht : s.Still t) (hu : s.Still u) :
    s.Still (if p then t else u) := by
  split
  · exact ht
  · exact hu

theorem mark (s : State) (x : Subject) (f : Byte) (k : Option (Nat × Nat) := none) : s.Still (s.mark x f k) :=
  of_eq (State.mark_site _ _ _ _) (State.mark_plan _ _ _ _) (State.mark_census _ _ _ _) (State.mark_spares _ _ _ _)

theorem attempt (s : State) : s.Still s.attempt :=
  of_eq (State.attempt_site _) (State.attempt_plan _) (State.attempt_census _) (State.attempt_spares _)

theorem begin (s : State) (u : Bool) (o : Handed) : s.Still (s.begin u o) := of_eq rfl rfl rfl rfl

theorem beginEntry (s : State) (u : Bool) : s.Still (s.beginEntry u) := of_eq rfl rfl rfl rfl

theorem release (s : State) : s.Still s.release := of_eq rfl rfl rfl rfl

theorem inContext (s : State) (k : RoutineContext) : s.Still (s.inContext k) := of_eq rfl rfl rfl rfl

theorem close (s : State) (o : Handed) (x : OrderOutcome) (r : Reason) (a : Word) (l : List (List Byte)) :
    s.Still (s.close o x r a l) :=
  of_eq (State.close_site _ _ _ _ _ _) (State.close_plan _ _ _ _ _ _) (State.close_census _ _ _ _ _ _)
    (State.close_spares _ _ _ _ _ _)

theorem conclude {s t : State} (h : s.Still t) (o : Handed) (x : OrderOutcome) (r : Reason) (a : Word)
    (l : List (List Byte)) : s.Still (t.conclude o x r a l) := h.trans ((close t o x r a l).trans (release _))

theorem done {s t : State} (h : s.Still t) (o : Handed) (a : Word) (l : List Byte) : s.Still (t.done o a l) :=
  h.conclude o .done .none a [l]

theorem refuse (s : State) (o : Handed) (r : Reason) : s.Still (s.refuse o r) := (refl s).conclude o .refused r 0 []

theorem doneOrShort {s t : State} (h : s.Still t) (o : Handed) (short : Bool) (a : Word) (l : List (List Byte)) :
    s.Still (t.doneOrShort o short a l) := by
  unfold State.doneOrShort
  split
  · exact h.conclude _ _ _ _ _
  · exact h.conclude _ _ _ _ _

theorem draw {s t : State} (h : s.Still t) (n : Nat) : s.Still (t.draw n) := h.trans (of_eq rfl rfl rfl rfl)

theorem onZone {s t : State} (h : s.Still t) (z : Fin 4) (f : Zone → Zone) : s.Still (t.onZone z f) :=
  h.trans (of_eq rfl rfl rfl rfl)

theorem onLink {s t : State} (h : s.Still t) (z : Fin 4) (f : Link → Link) : s.Still (t.onLink z f) :=
  h.trans (of_eq rfl rfl rfl rfl)

theorem inStageOrder {s t : State} (u : State) (h : s.Still t) : s.Still (u.inStageOrder t) :=
  h.trans (of_eq rfl rfl rfl rfl)

/-! ### Reads -/

theorem readChannelsOrder (o : Handed) (x : State) : x.Still (readChannelsOrder o x) := by
  unfold Machine.readChannelsOrder
  dsimp only
  split
  · exact refuse x o _
  · exact doneOrShort ((refl x).draw _) o _ _ _

theorem readCensusOrder (o : Handed) (x : State) : x.Still (readCensusOrder o x) := by
  unfold Machine.readCensusOrder
  dsimp only
  split
  · split
    · exact refuse x o _
    · exact doneOrShort (refl x) o _ _ _
  · exact refuse x o _

theorem readSparesOrder (o : Handed) (x : State) : x.Still (readSparesOrder o x) := by
  unfold Machine.readSparesOrder
  dsimp only
  split
  · exact refuse x o _
  · exact doneOrShort ((refl x).draw _) o _ _ _

theorem readSpectrumOrder (o : Handed) (x : State) : x.Still (readSpectrumOrder o x) := by
  unfold Machine.readSpectrumOrder
  dsimp only
  split
  · exact refuse x o _
  · split
    · exact refuse x o _
    · exact doneOrShort (refl x) o _ _ _

theorem readWatchOrder (o : Handed) (x : State) : x.Still (readWatchOrder o x) := by
  unfold Machine.readWatchOrder
  split
  · exact refuse x o _
  · exact done ((refl x).draw _) o _ _

theorem readLinksOrder (o : Handed) (x : State) : x.Still (readLinksOrder o x) := by
  unfold Machine.readLinksOrder
  dsimp only
  split
  · exact refuse x o _
  · refine done (draw ?_ 4) o _ _
    exact ite _ ((refl x).fold _ (fun t z => (refl t).onLink z Link.clearCounts) _) (refl x)

/-! ### Zones and links -/

theorem setZoneOrder (o : Handed) (x : State) : x.Still (setZoneOrder o x) := by
  unfold Machine.setZoneOrder
  dsimp only
  split
  · exact done (((refl x).onLink _ _).onZone _ _) o _ _
  · exact refuse x o _

theorem probeOrder (o : Handed) (x : State) : x.Still (probeOrder o x) := by
  unfold Machine.probeOrder
  dsimp only
  split
  · exact refuse x o _
  · split
    · exact refuse x o _
    · split
      · exact refuse x o _
      · exact ((refl x).onLink _ _).trans (release _)

theorem armWatchOrder (o : Handed) (x : State) : x.Still (armWatchOrder o x) := by
  unfold Machine.armWatchOrder
  dsimp only
  split
  · exact refuse x o _
  · split
    · exact refuse x o _
    · exact done ((refl x).onZone _ _) o _ _

theorem routeHit (s : State) (z : Fin 4) (j : Fin 64) (rise : Nat) : s.Still (s.routeHit z j rise) := by
  obtain ⟨p, r, v, e, rest⟩ := s.routeHit_rest z j rise
  refine ⟨(congrArg State.site rest :), (congrArg State.plan rest :), (congrArg State.census rest :), fun b => ?_⟩
  rw [State.routeHit_spares]
  exact List.filter_sublist

theorem routeHits (z : Fin 4) (l : List (Fin 64 × Option Nat)) (s : State) : s.Still (s.routeHits z l) := by
  induction l generalizing s with
  | nil => exact refl s
  | cons x t ih =>
    obtain ⟨j, rise⟩ := x
    cases rise with
    | none => exact ih s
    | some n => exact (routeHit s z j n).trans (ih _)

theorem forceHitOrder (o : Handed) (x : State) : x.Still (forceHitOrder o x) := by
  unfold Machine.forceHitOrder
  split
  · split
    · exact refuse x o _
    · exact done (((refl x).onZone _ _).trans (routeHit _ _ _ _)) o _ _
  · exact refuse x o _

/-! ### What a link brings about -/

theorem goStale {s t : State} (h : s.Still t) (z : Fin 4) : s.Still (t.goStale z) :=
  onZone (onLink ((h.onZone z _).trans (mark _ _ _)) z Link.abandon) z _

theorem periodEnd (s : State) (z : Fin 4) : s.Still (s.periodEnd z) := by
  have watched : ∀ t : State, t.Still (t.watchPeriodEnd z) := fun t =>
    inStageOrder t (((refl t).onZone z _).trans (routeHits z _ _))
  refine trans ?_ (watched _)
  exact ite _ ((((refl s).onZone z _).onZone z _).trans (mark _ _ _)) ((refl s).onZone z _)

theorem validFrame (s : State) (z : Fin 4) : s.Still (s.validFrame z) := by
  unfold State.validFrame
  dsimp only
  exact ((refl s).onLink z _).onZone z _

theorem sweepEnd (s : State) (z : Fin 4) (w : SweepWork) : s.Still (s.sweepEnd z w) := by
  have ended : s.Still (s.onLink z fun l => l.ended w.damaged) := (refl s).onLink z _
  exact ite _ ended (ite _ ((ended.onZone z _).trans (periodEnd _ z)) (ended.onZone z _))

theorem sweepFrame (s : State) (z : Fin 4) (number first : Half) (stride flags : Byte) (levels : List Byte) :
    s.Still (s.sweepFrame z number first stride flags levels) := by
  have assembled : ∀ x, s.Still (s.onLink z fun l => l.assembled x) := fun x => (refl s).onLink z _
  exact ite _ ((assembled _).trans (sweepEnd _ z _)) (assembled _)

theorem endProbe (s : State) (z : Fin 4) (w : ProbeWork) (outcome : OrderOutcome) (reason : Reason) (level : Option Byte) :
    s.Still (s.endProbe z w outcome reason level) := ((refl s).onLink z _).trans (close _ _ _ _ _ _)

theorem answer (s : State) (z : Fin 4) (i l : Byte) : s.Still (s.answer z i l) := by
  unfold State.answer
  split
  · exact ite _ (endProbe s z _ _ _ _) ((refl s).onLink z _)
  · exact (refl s).onLink z _

end State.Still

/-! ### Events on which the arbiter does not act -/

/-- What an event leaves of the plan, but for the end of a move and the resets. -/
theorem State.QuietEvent.still {s a : State} (h : s.QuietEvent a) :
    s.Still a ∨ (∃ c f g e, s.hold c = some (.moving f g e) ∧
      a = (State.setHold { s with now := max s.now e } c (.unresolved f g)).mark (.channel c) unresolvedFlag) ∨
      ∃ run auto, a = s.beginSoft run auto := by
  cases h with
  | same => exact .inl (.refl s)
  | misuse => exact .inl (.of_eq rfl rfl rfl rfl)
  | claim => exact .inl (.of_eq rfl rfl rfl rfl)
  | give _ _ =>
    refine .inl (State.Still.trans ?_ (State.Still.attempt _))
    exact .of_eq rfl rfl rfl rfl
  | notices raw enables => exact .inl (.of_eq rfl rfl rfl rfl)
  | write a l => exact .inl (.of_eq rfl rfl rfl rfl)
  | frame z => exact .inl (.validFrame s z)
  | crcError z => exact .inl ((State.Still.refl s).onLink z _)
  | formatError z => exact .inl ((State.Still.refl s).onLink z _)
  | timeout _ =>
    refine .inl (State.Still.trans ?_ ((State.Still.refl _).goStale _))
    exact .of_eq rfl rfl rfl rfl
  | move hold => exact .inr (.inl ⟨_, _, _, _, hold, rfl⟩)
  | soft run auto _ => exact .inr (.inr ⟨run, auto, rfl⟩)

end Sys2Proof.Machine
end


section
/-! The search of an active PLACE and its channels (R68, R71, R72): what an event leaves of the channels that a search may
hold (`State.Respects`), and the seats of a search. -/

namespace Sys2Proof.Machine

/-! ### The channels that a search may hold -/

/-- A hold that a channel of a search may have: DEFINED or TENTATIVE. -/
def Hold.searched : Hold → Bool
  | .defined | .tentative _ => true
  | _ => false

/-- A channel that a search may hold: it carries a working mark, and is DEFINED or TENTATIVE. -/
def State.sought (s : State) (c : Fin 256) : Prop :=
  s.marked c = true ∧ ∃ h, s.hold c = some h ∧ h.searched = true

/-- Every channel that a search may hold keeps its mark and its hold. -/
def State.Respects (s t : State) : Prop := ∀ c, s.sought c → t.marked c = true ∧ t.hold c = s.hold c

theorem State.hold_of_channels {s t : State} (h : t.plan.channels = s.plan.channels) (c : Fin 256) :
    t.hold c = s.hold c ∧ t.marked c = s.marked c := by
  have channel : t.channel c = s.channel c := (congrArg (fun v : Vector (Option ChannelRecord) 256 => v[c]) h :)
  unfold State.hold State.marked
  rw [channel]
  exact ⟨rfl, rfl⟩

/-- What a channel's new hold leaves of the marks and of the other holds. -/
theorem State.hold_of_setHold {s t : State} {c : Fin 256} {k : Hold}
    (h : t.plan.channels = (s.plan.setHold c k).channels) (d : Fin 256) :
    t.marked d = s.marked d ∧ t.hold d = if d = c then (s.hold c).map fun _ => k else s.hold d := by
  have channel : t.channel d = if d = c then (s.channel c).map fun r => { r with hold := k } else s.channel d :=
    (congrArg (fun v : Vector (Option ChannelRecord) 256 => v[d]) h).trans (s.plan.setHold_get c d k)
  unfold State.hold State.marked
  rw [channel]
  split
  · next same =>
    subst same
    cases s.channel d <;> exact ⟨rfl, rfl⟩
  · exact ⟨rfl, rfl⟩

theorem State.removeStep_channels (s : State) (c : Fin 256) (r : ChannelRecord) (k : Hold) (second : Bool) (f : Nat) :
    (s.removeStep c r k second f).plan.channels = (s.plan.setHold c k).channels := by
  rw [State.removeStep_plan]
  rfl

theorem State.addPrimary_channels (s : State) (c : Fin 256) (r : ChannelRecord) (k : Hold) (f : Nat) :
    (s.addPrimary c r k f).plan.channels = (s.plan.setHold c k).channels := by
  rw [State.addPrimary_plan]
  rfl

namespace State.Respects

theorem of_channels {s t : State} (h : t.plan.channels = s.plan.channels) : s.Respects t := fun c ⟨mark, _⟩ =>
  ⟨(State.hold_of_channels h c).2.trans mark, (State.hold_of_channels h c).1⟩

theorem of_plan {s t : State} (h : t.plan = s.plan) : s.Respects t := of_channels (congrArg Plan.channels h)

theorem refl (s : State) : s.Respects s := of_plan rfl

theorem trans {s t u : State} (h : s.Respects t) (k : t.Respects u) : s.Respects u := fun c sought => by
  obtain ⟨mark, hold⟩ := h c sought
  obtain ⟨-, x, holds, searched⟩ := sought
  obtain ⟨mark', hold'⟩ := k c ⟨mark, x, hold.trans holds, searched⟩
  exact ⟨mark', hold'.trans hold⟩

/-- A new hold for a channel that no search holds. -/
theorem setHold {s t u : State} (h : s.Respects t) {c : Fin 256} {k : Hold} (other : ¬ t.sought c)
    (e : u.plan.channels = (t.plan.setHold c k).channels) : s.Respects u :=
  h.trans fun d sought => by
    obtain ⟨mark, hold⟩ := State.hold_of_setHold e d
    have apart : d ≠ c := fun same => other (same ▸ sought)
    rw [if_neg apart] at hold
    exact ⟨mark.trans sought.1, hold⟩

theorem removeStep {s t : State} (h : s.Respects t) {c : Fin 256} (r : ChannelRecord) (k : Hold) (second : Bool) (f : Nat)
    (other : ¬ t.sought c) : s.Respects (t.removeStep c r k second f) :=
  h.setHold other (State.removeStep_channels t c r k second f)

theorem addPrimary {s t : State} (h : s.Respects t) {c : Fin 256} (r : ChannelRecord) (k : Hold) (f : Nat)
    (other : ¬ t.sought c) : s.Respects (t.addPrimary c r k f) :=
  h.setHold other (State.addPrimary_channels t c r k f)

theorem conclude {s t : State} (h : s.Respects t) (o : Handed) (x : OrderOutcome) (r : Reason) (a : Word)
    (l : List (List Byte)) : s.Respects (t.conclude o x r a l) := h.trans (of_plan (t.conclude_plan o x r a l))

theorem done {s t : State} (h : s.Respects t) (o : Handed) (a : Word) (l : List Byte) : s.Respects (t.done o a l) :=
  h.conclude o .done .none a [l]

theorem refuse (s : State) (o : Handed) (r : Reason) : s.Respects (s.refuse o r) :=
  (refl s).conclude o .refused r 0 []

/-! ### The orders that may meet a search -/

theorem not_sought_of_mark {s : State} {c : Fin 256} (h : s.marked c ≠ true) : ¬ s.sought c := fun ⟨mark, _⟩ => h mark

theorem not_sought_of_hold {s : State} {c : Fin 256} {k : Hold} (h : s.hold c = some k) (other : k.searched = false) :
    ¬ s.sought c := fun ⟨_, x, holds, searched⟩ => by
  obtain rfl := Option.some.inj (h.symm.trans holds)
  rw [other] at searched
  cases searched

theorem not_sought_of_channel {s : State} {c : Fin 256} {r : ChannelRecord} (h : s.channel c = some r)
    (other : r.hold.searched = false) : ¬ s.sought c :=
  not_sought_of_hold (k := r.hold) (by unfold State.hold; rw [h]; rfl) other

theorem markLiveOrder (o : Handed) (x : State) : x.Respects (markLiveOrder o x) := by
  unfold Machine.markLiveOrder
  split
  · exact refuse x o _
  · split
    · next hold => exact ((refl x).setHold (not_sought_of_hold hold rfl) rfl).done o _ _
    · exact (refl x).done o _ _
    · exact refuse x o _

theorem markIdleOrder (o : Handed) (x : State) : x.Respects (markIdleOrder o x) := by
  unfold Machine.markIdleOrder
  split
  · exact refuse x o _
  · split
    · next hold => exact ((refl x).setHold (not_sought_of_hold hold rfl) rfl).done o _ _
    · exact (refl x).done o _ _
    · exact refuse x o _

theorem releaseOrder (o : Handed) (x : State) : x.Respects (releaseOrder o x) := by
  unfold Machine.releaseOrder
  split
  · exact refuse x o _
  · split
    · exact refuse x o _
    · next free =>
      have other := not_sought_of_mark free
      split
      · exact refuse x o _
      · split
        · exact ((refl x).removeStep _ _ _ _ other).done o _ _
        · exact ((refl x).removeStep _ _ _ _ other).done o _ _
        · exact (refl x).done o _ _
        · exact refuse x o _
        · exact refuse x o _
        · exact refuse x o _

theorem move_searched {h : Hold} {m : Nat × Nat} (move : h.move = some m) : h.searched = false := by
  cases h with
  | moving f g e => rfl
  | unresolved f g => rfl
  | defined => cases move
  | tentative f => cases move
  | placed f => cases move
  | live f => cases move

theorem confirmMoveOrder (o : Handed) (x : State) : x.Respects (confirmMoveOrder o x) := by
  unfold Machine.confirmMoveOrder
  split
  · exact refuse x o _
  · split
    · exact refuse x o _
    · next channel =>
      split
      · exact refuse x o _
      · next move =>
        exact ((refl x).removeStep _ _ _ _ (not_sought_of_channel channel (move_searched move))).done o _ _

theorem declineMoveOrder (o : Handed) (x : State) : x.Respects (declineMoveOrder o x) := by
  unfold Machine.declineMoveOrder
  split
  · exact refuse x o _
  · split
    · exact refuse x o _
    · next channel =>
      split
      · exact refuse x o _
      · next move =>
        exact ((refl x).removeStep _ _ _ _ (not_sought_of_channel channel (move_searched move))).done o _ _

/-! ### PIN, REPLACE and the auto-move -/

/-- A channel without a mark loses its old frequency. -/
theorem vacate (x : State) {c : Fin 256} (r : ChannelRecord) (free : x.marked c ≠ true) :
    x.Respects (x.vacate c r) ∧ (x.vacate c r).marked c ≠ true := by
  unfold State.vacate
  split
  · refine ⟨(refl x).removeStep _ _ _ _ (not_sought_of_mark free), ?_⟩
    obtain ⟨mark, -⟩ := State.hold_of_setHold (State.removeStep_channels x c r .defined false _) c
    rw [mark]
    exact free
  · exact ⟨refl x, free⟩

theorem pinned (x : State) {c : Fin 256} (r : ChannelRecord) (f : Nat) (free : x.marked c ≠ true) :
    x.Respects (x.pinned c r f) := by
  obtain ⟨vacated, free'⟩ := vacate x r free
  exact vacated.addPrimary r _ f (not_sought_of_mark free')

theorem pinOrder (o : Handed) (x : State) : x.Respects (pinOrder o x) := by
  have judged : ∀ c r f force strict, x.marked c ≠ true → x.Respects (x.pin o c r f force strict) :=
    fun c r f force strict free => by
      unfold State.pin
      split
      · exact refuse x o _
      · unfold State.pinEnd
        split
        · exact (pinned x r _ free).done o _ _
        · split
          · exact (pinned x r _ free).done o _ _
          · split
            · exact (pinned x r _ free).conclude _ _ _ _ _
            · exact (refl x).conclude _ _ _ _ _
  unfold Machine.pinOrder
  dsimp only
  split
  · exact refuse x o _
  · split
    · exact refuse x o _
    · split
      · exact refuse x o _
      · next free =>
        split
        · exact refuse x o _
        · split
          · exact judged _ _ _ _ _ free
          · exact judged _ _ _ _ _ free
          · exact refuse x o _

theorem applyFound (x : State) {c : Fin 256} (r : ChannelRecord) (f : Nat) (spare : Bool) (other : ¬ x.sought c) :
    x.Respects (x.applyFound c r f spare) := by
  unfold State.applyFound
  cases spare with
  | false => exact (refl x).addPrimary r _ f other
  | true => exact (refl x).setHold other (State.addPrimary_channels (x.takeSpare r.fields.stage f) c r _ f)

theorem restore (x : State) {c : Fin 256} (r : ChannelRecord) (other : ¬ x.sought c) : x.Respects (x.restore c r) := by
  unfold State.restore
  split
  · exact (refl x).addPrimary r _ _ other
  · exact refl x

/-- A search for a channel that no PLACE holds, before and after its old frequency is removed. -/
theorem replace (x : State) {c : Fin 256} (r : ChannelRecord) (f : Nat) (only : Bool)
    (vacated : x.Respects (x.vacate c r)) (other : ¬ (x.vacate c r).sought c) : x.Respects (x.replace c r f only).1 := by
  unfold State.replace
  dsimp only
  split
  · exact vacated.trans (applyFound _ r _ _ other)
  · exact vacated.trans (restore _ r other)

theorem replaceOrder (o : Handed) (x : State) : x.Respects (replaceOrder o x) := by
  have finished : ∀ (y : State) c f found, x.Respects y → x.Respects (y.replaceEnd o c f found) :=
    fun y c f found h => by
      unfold State.replaceEnd
      dsimp only
      split
      · exact h.done o _ _
      · exact (h.trans (of_plan rfl)).conclude (t := y.draw 1) _ _ _ _ _
  unfold Machine.replaceOrder
  dsimp only
  split
  · exact refuse x o _
  · split
    · exact refuse x o _
    · split
      · exact refuse x o _
      · next free =>
        split
        · exact refuse x o _
        · next r _ =>
          obtain ⟨vacated, free'⟩ := vacate x r free
          split
          · exact finished _ _ _ _ (replace x r _ _ vacated (not_sought_of_mark free'))
          · exact finished _ _ _ _ (replace x r _ _ vacated (not_sought_of_mark free'))
          · exact refuse x o _

theorem autoMove (x : State) (c : Fin 256) (f : Nat) : x.Respects (x.autoMove c f) := by
  unfold State.autoMove
  split
  · exact refl x
  · next r channel =>
    split
    · next live =>
      have hold : r.hold = .live f := by
        simp only [Bool.and_eq_true, decide_eq_true_eq] at live
        exact live.1
      have vacated : x.vacate c r = x := by
        unfold State.vacate
        rw [hold]
      have other : ¬ x.sought c := not_sought_of_channel channel (by rw [hold]; rfl)
      exact (replace x r f false (by rw [vacated]; exact refl x) (by rw [vacated]; exact other)).trans
        (of_plan (State.mark_plan _ _ _ _))
    · exact refl x

end State.Respects

/-- The orders that may be handed as urgent leave the channels of a search, but for a CANCEL of its PLACE. -/
theorem State.respects_urgent (code : OrderCode) (o : Handed) (x : State) (permitted : code.urgentPermitted = true)
    (other : code ≠ .cancel) : x.Respects (code.procedure o x) := by
  cases code with
  | markLive => exact .markLiveOrder o x
  | markIdle => exact .markIdleOrder o x
  | release => exact .releaseOrder o x
  | confirmMove => exact .confirmMoveOrder o x
  | declineMove => exact .declineMoveOrder o x
  | pin => exact .pinOrder o x
  | replace => exact .replaceOrder o x
  | cancel => exact absurd rfl other
  | readChannels => exact .of_plan (State.Still.readChannelsOrder o x).plan
  | readCensus => exact .of_plan (State.Still.readCensusOrder o x).plan
  | readSpares => exact .of_plan (State.Still.readSparesOrder o x).plan
  | readSpectrum => exact .of_plan (State.Still.readSpectrumOrder o x).plan
  | readWatch => exact .of_plan (State.Still.readWatchOrder o x).plan
  | readLinks => exact .of_plan (State.Still.readLinksOrder o x).plan
  | probe => exact .of_plan (State.Still.probeOrder o x).plan
  | armWatch => exact .of_plan (State.Still.armWatchOrder o x).plan
  | forceHit => exact .of_plan (State.Still.forceHitOrder o x).plan
  | setParameters => cases permitted
  | defineStage => cases permitted
  | setCoupling => cases permitted
  | addExclusion => cases permitted
  | dropExclusion => cases permitted
  | defineChannel => cases permitted
  | retireChannel => cases permitted
  | rebuildCensus => cases permitted
  | checkList => cases permitted
  | place => cases permitted
  | refillSpares => cases permitted
  | setZone => cases permitted

end Sys2Proof.Machine
end


section
/-! The seats of a search: the channels on its stack and ahead of it with the frequencies chosen for them (R71, R72). Every
step of a PLACE keeps them in agreement with the channels. -/

namespace Sys2Proof.Machine

/-- A channel of a search, with the frequency chosen for it. -/
abbrev Seat := Fin 256 × Option Nat

/-- The hold of a channel of a search: TENTATIVE on its chosen frequency, or DEFINED (R72). -/
def Seat.hold (x : Seat) : Hold := x.2.elim .defined .tentative

def StackEntry.seat (e : StackEntry) : Seat := (e.item.channel, e.chosen)

def PlaceItem.seat (i : PlaceItem) : Seat := (i.channel, none)

/-- The channels of a search. -/
def PlaceWork.seats (w : PlaceWork) : List Seat := w.stack.map StackEntry.seat ++ w.rest.map PlaceItem.seat

/-- Channels of a search stand once each, carry the mark, and hold what the search has chosen. -/
def State.seated (s : State) (l : List Seat) : Prop :=
  (l.map Prod.fst).Nodup ∧ ∀ x ∈ l, s.marked x.1 = true ∧ s.hold x.1 = some x.hold

theorem PlaceWork.seats_channels (w : PlaceWork) :
    w.seats.map Prod.fst = (w.stack.map fun e => e.item.channel) ++ w.rest.map PlaceItem.channel := by
  unfold PlaceWork.seats
  rw [List.map_append, List.map_map, List.map_map]
  rfl

/-- The agreement of an active search with its channels. -/
theorem State.searchOk_iff {s : State} :
    s.searchOk ↔ ∀ w, s.engine.routineContext.work = some (.place w) → s.seated w.seats := by
  refine forall_congr' fun w => forall_congr' fun _ => ?_
  unfold State.seated
  rw [PlaceWork.seats_channels]
  constructor
  · rintro ⟨once, marks, chosen, free, ahead⟩
    refine ⟨once, fun x hx => ?_⟩
    rcases List.mem_append.1 hx with hx | hx
    · obtain ⟨e, he, rfl⟩ := List.mem_map.1 hx
      refine ⟨marks _ (List.mem_append_left _ (List.mem_map_of_mem he)), ?_⟩
      cases pick : e.chosen with
      | none => simpa [StackEntry.seat, Seat.hold, pick] using free e he pick
      | some g => simpa [StackEntry.seat, Seat.hold, pick] using chosen e he g pick
    · obtain ⟨i, hi, rfl⟩ := List.mem_map.1 hx
      exact ⟨marks _ (List.mem_append_right _ (List.mem_map_of_mem hi)), ahead i hi⟩
  · rintro ⟨once, holds⟩
    have onStack : ∀ e ∈ w.stack, e.seat ∈ w.seats := fun e he => List.mem_append_left _ (List.mem_map_of_mem he)
    have inRest : ∀ i ∈ w.rest, i.seat ∈ w.seats := fun i hi => List.mem_append_right _ (List.mem_map_of_mem hi)
    refine ⟨once, fun c hc => ?_, fun e he g pick => ?_, fun e he pick => ?_, fun i hi => (holds _ (inRest i hi)).2⟩
    · rcases List.mem_append.1 hc with hc | hc
      · obtain ⟨e, he, rfl⟩ := List.mem_map.1 hc
        exact (holds _ (onStack e he)).1
      · obtain ⟨i, hi, rfl⟩ := List.mem_map.1 hc
        exact (holds _ (inRest i hi)).1
    · simpa [StackEntry.seat, Seat.hold, pick] using (holds _ (onStack e he)).2
    · simpa [StackEntry.seat, Seat.hold, pick] using (holds _ (onStack e he)).2

theorem State.searchOk_of_work {s : State} (h : ∀ w, s.engine.routineContext.work ≠ some (.place w)) : s.searchOk :=
  fun w work => absurd work (h w)

namespace State.seated

variable {s t : State} {l m : List Seat}

theorem subperm (h : s.seated l) (sub : m.Subperm l) : s.seated m := by
  obtain ⟨k, perm, sublist⟩ := sub
  refine ⟨(perm.map _).nodup_iff.1 (h.1.sublist (sublist.map _)), fun x hx => ?_⟩
  exact h.2 x (sublist.subset (perm.mem_iff.2 hx))

theorem perm (h : s.seated l) (p : l.Perm m) : s.seated m := h.subperm p.symm.subperm

theorem respects (h : s.seated l) (k : s.Respects t) : t.seated l := by
  refine ⟨h.1, fun x hx => ?_⟩
  obtain ⟨mark, hold⟩ := h.2 x hx
  obtain ⟨mark', hold'⟩ := k x.1 ⟨mark, x.hold, hold, by unfold Seat.hold; cases x.2 <;> rfl⟩
  exact ⟨mark', hold'.trans hold⟩

/-- The search gives one of its channels another hold. -/
theorem setHold {c : Fin 256} {x y : Option Nat} (h : s.seated ((c, x) :: l))
    (e : t.plan.channels = (s.plan.setHold c (Seat.hold (c, y))).channels) : t.seated ((c, y) :: l) := by
  refine ⟨h.1, fun z hz => ?_⟩
  obtain ⟨mark, hold⟩ := State.hold_of_setHold e z.1
  rw [mark, hold]
  rcases List.mem_cons.1 hz with rfl | hz
  · obtain ⟨mark, hold⟩ := h.2 (c, x) List.mem_cons_self
    rw [if_pos rfl, show s.hold c = some _ from hold]
    exact ⟨mark, rfl⟩
  · obtain ⟨fresh, -⟩ := List.nodup_cons.1 h.1
    have among : z.1 ∈ l.map Prod.fst := List.mem_map_of_mem hz
    have apart : z.1 ≠ c := fun same => fresh (same ▸ among)
    rw [if_neg apart]
    exact h.2 z (List.mem_cons_of_mem _ hz)

end State.seated

/-! ### The moves of a search -/

theorem PlaceWork.push_seats (l : List PlaceItem) (w : PlaceWork) :
    (w.push l).seats.Subperm (w.stack.map StackEntry.seat ++ l.map PlaceItem.seat) := by
  induction l generalizing w with
  | nil => exact List.Subperm.refl _
  | cons i t ih =>
    unfold PlaceWork.push
    dsimp only
    split
    · exact (ih _).trans ((List.sublist_cons_self _ _).append_left _).subperm
    · exact List.perm_middle.symm.subperm

theorem PlaceWork.passOver_seats (w : PlaceWork) : w.passOver.seats.Subperm w.seats := by
  unfold PlaceWork.passOver
  split
  · split
    · exact (PlaceWork.push_seats _ _).trans (((List.tail_sublist w.stack).map _).append_right _).subperm
    · exact List.Subperm.refl _
  · exact List.Subperm.refl _

/-- The search leaves the candidate of its top channel. -/
theorem PlaceWork.advanced_seats {w : PlaceWork} {e : StackEntry} (top : w.top = some e) :
    PlaceWork.seats { w with stack := e.advance :: w.stack.tail } = w.seats := by
  obtain ⟨stack, free⟩ := PlaceWork.top_cons top
  unfold PlaceWork.seats
  rw [stack]
  show (e.item.channel, none) :: _ ++ _ = (e.item.channel, e.chosen) :: _ ++ _
  rw [free]
  rfl

theorem State.clearTentative_seated {s : State} {e : StackEntry} {l : List Seat} (h : s.seated (e.seat :: l)) :
    (s.clearTentative e).seated ((e.item.channel, none) :: l) := by
  cases chosen : e.chosen with
  | none =>
    rw [State.clearTentative_none chosen]
    unfold StackEntry.seat at h
    rwa [chosen] at h
  | some f =>
    obtain ⟨-, hold⟩ := h.2 e.seat List.mem_cons_self
    obtain ⟨r, hr, -⟩ := State.hold_some hold
    rw [State.clearTentative_some hr chosen]
    exact State.seated.setHold (y := none) h (State.removeStep_channels s _ r .defined false f)

/-- What a search that goes back leaves: the channels above the one it goes back to are ahead again (R74). -/
theorem backtrack_seated {s : State} {w : PlaceWork} (item : PlaceItem) (l : List StackEntry)
    (h : s.seated (item.seat :: l.map StackEntry.seat ++ w.rest.map PlaceItem.seat)) :
    (backtrack item l (s, w)).1.seated (backtrack item l (s, w)).2.seats := by
  induction l generalizing item s w with
  | nil => exact h
  | cons e below ih =>
    have ahead : s.seated (e.seat :: (below.map StackEntry.seat ++ item.seat :: w.rest.map PlaceItem.seat)) :=
      h.perm (List.perm_middle (l₁ := e.seat :: below.map StackEntry.seat)).symm
    have cleared := State.clearTentative_seated ahead
    unfold backtrack
    dsimp only
    split
    · exact ih e.item (w := { w with stack := e.advance :: below, rest := item :: w.rest }) cleared
    · exact cleared

/-! ### The steps of a PLACE -/

/-- An order that ends with the urgent context IDLE leaves the routine context IDLE. -/
theorem State.conclude_work {y : State} (idle : y.engine.urgentContext = .idle) (o : Handed) (x : OrderOutcome)
    (r : Reason) (a : Word) (l : List (List Byte)) :
    (y.conclude o x r a l).engine.routineContext = .idle := by
  rw [State.conclude_engine, Engine.release_idle idle]

theorem State.conclude_searchOk {y : State} (idle : y.engine.urgentContext = .idle) (o : Handed) (x : OrderOutcome)
    (r : Reason) (a : Word) (l : List (List Byte)) : (y.conclude o x r a l).searchOk :=
  State.searchOk_of_work fun w work => by
    rw [State.conclude_work idle] at work
    cases work

/-- Work that stands at its yield point, or runs. -/
theorem State.inContext_searchOk {y : State} {k : RoutineContext} {v : PlaceWork} (work : k.work = some (.place v))
    (h : y.seated v.seats) : (y.inContext k).searchOk := State.searchOk_iff.2 fun w is => by
  obtain rfl : v = w := Work.place.inj (Option.some.inj (work.symm.trans is))
  exact h.respects (t := y.inContext k) (.of_plan rfl)

theorem State.endPlace_searchOk {y : State} (idle : y.engine.urgentContext = .idle) (v : PlaceWork) (committed : Bool)
    (outcome : OrderOutcome) (reason : Reason) (n : Nat) : (y.endPlace v committed outcome reason n).searchOk :=
  State.conclude_searchOk idle _ _ _ _ _

theorem State.bestEffortEnd_searchOk {y : State} (idle : y.engine.urgentContext = .idle) (v : PlaceWork) :
    (y.bestEffortEnd v).searchOk := by
  unfold State.bestEffortEnd
  dsimp only
  split
  · exact State.endPlace_searchOk (y := y.commit v) idle v _ _ _ _
  · split
    · exact State.endPlace_searchOk (y := y.commit v) idle v _ _ _ _
    · exact State.endPlace_searchOk (y := y.commit v) idle v _ _ _ _

theorem State.afterEvaluation_searchOk {y : State} (idle : y.engine.urgentContext = .idle) {v : PlaceWork}
    (h : y.seated v.seats) : (y.afterEvaluation v).searchOk := by
  unfold State.afterEvaluation
  split
  · obtain ⟨k, work, eq⟩ := y.yieldWith_inContext (.place v)
    rw [eq]
    exact State.inContext_searchOk work h
  · split
    · exact State.bestEffortEnd_searchOk idle v
    · split
      · exact State.endPlace_searchOk (y := y.clearMarks) idle v _ _ _ _
      · exact State.endPlace_searchOk (y := y.commit v) idle v _ _ _ _

variable {s : State} {w : PlaceWork} {e : StackEntry}

theorem State.placeFail_searchOk (idle : s.engine.urgentContext = .idle) (h : s.seated w.seats) (top : w.top = some e) :
    (s.placeFail w e).searchOk := by
  have advanced := PlaceWork.advanced_seats top
  unfold State.placeFail
  dsimp only
  split
  · exact State.afterEvaluation_searchOk idle (by rw [advanced]; exact h)
  · split
    · exact State.afterEvaluation_searchOk idle
        (h.subperm ((PlaceWork.passOver_seats _).trans (by rw [advanced])))
    · have rest := backtrack_rest w.stack.tail e.item (s, { w with stack := e.advance :: w.stack.tail })
      refine State.afterEvaluation_searchOk (y := s.inStageOrder _) (rest.urgentContext.trans idle) ?_
      obtain ⟨stack, free⟩ := PlaceWork.top_cons top
      have seats : w.seats = e.item.seat :: w.stack.tail.map StackEntry.seat ++ w.rest.map PlaceItem.seat := by
        rw [← advanced]
        rfl
      rw [seats] at h
      exact (backtrack_seated (w := { w with stack := e.advance :: w.stack.tail }) e.item w.stack.tail h).respects
        (.of_plan rfl)

theorem State.placeTop_searchOk (idle : s.engine.urgentContext = .idle) (h : s.seated w.seats) (top : w.top = some e)
    (r : ChannelRecord) (f : Nat) : (s.placeTop w e r f).searchOk := by
  refine State.afterEvaluation_searchOk ((State.addPrimary_urgentContext s _ r _ f).trans idle) ?_
  obtain ⟨stack, free⟩ := PlaceWork.top_cons top
  have seats : w.seats = (e.item.channel, none) :: (w.stack.tail.map StackEntry.seat ++ w.rest.map PlaceItem.seat) := by
    rw [← PlaceWork.advanced_seats top]
    rfl
  rw [seats] at h
  exact (h.setHold (y := some f) (State.addPrimary_channels s _ r (.tentative f) f)).subperm (PlaceWork.push_seats _ _)

/-- A step of a PLACE keeps its search and the channels in agreement. -/
theorem State.placeStep_searchOk (idle : s.engine.urgentContext = .idle) (h : s.seated w.seats) :
    (s.placeStep w).searchOk := by
  have passed := h.subperm w.passOver_seats
  unfold State.placeStep
  dsimp only
  split
  · exact State.afterEvaluation_searchOk idle passed
  · next e top =>
    split
    · unfold State.budgetEnd
      split
      · exact State.bestEffortEnd_searchOk idle _
      · have rest := State.foldl_clearTentative_rest w.passOver.stack s
        exact State.endPlace_searchOk (y := s.rollback w.passOver) (rest.urgentContext.trans idle) _ _ _ _ _
    · unfold State.placeEvaluate
      dsimp only
      split
      · exact State.placeFail_searchOk (w := { w.passOver with used := w.passOver.used + 1 }) idle passed top
      · split
        · exact State.placeTop_searchOk (w := { w.passOver with used := w.passOver.used + 1 }) idle passed top _ _
        · exact State.placeFail_searchOk (w := { w.passOver with used := w.passOver.used + 1 }) idle passed top

end Sys2Proof.Machine
end


section
/-! Every event keeps the search of an active PLACE and the channels in agreement (R68, R71, R72, R80). -/

namespace Sys2Proof.Machine

/-! ### Take-ups -/

theorem State.mem_screen {s : State} {c : Fin 256} (sent : List (Nat × Nat)) (named : List Nat)
    (h : PlaceEntry.working c ∈ s.screen named sent) : s.hold c = some .defined := by
  induction sent generalizing named with
  | nil => cases h
  | cons e t ih =>
    rcases List.mem_cons.1 h with first | later
    · obtain ⟨-, -, -, hold⟩ := State.screenOne_working.1 first.symm
      exact hold
    · exact ih _ later

/-- The working set of a PLACE, once its marks are set. -/
theorem State.setMarks_seated (s : State) (sent : List (Nat × Nat)) (head : Nat) :
    State.seated { s with plan := s.plan.setMarks head (s.rank (s.screen [] sent) sent) }
      ((s.rank (s.screen [] sent) sent).map PlaceItem.seat) := by
  obtain ⟨-, ranks, -⟩ := placeRanksAndWalks
  obtain ⟨members, once, -, -⟩ := ranks s sent
  generalize s.rank (s.screen [] sent) sent = items at members once
  have channels : (items.map PlaceItem.seat).map Prod.fst = items.map PlaceItem.channel := by
    rw [List.map_map]
    rfl
  refine ⟨by rw [channels]; exact once, fun x hx => ?_⟩
  obtain ⟨i, hi, rfl⟩ := List.mem_map.1 hx
  have defined : s.hold i.channel = some .defined := State.mem_screen sent [] ((members i.channel).1 ⟨i, hi, rfl⟩)
  obtain ⟨r, hr, hold⟩ := State.hold_some defined
  have marked : State.channel { s with plan := s.plan.setMarks head items } i.channel =
      (s.channel i.channel).map fun r => { r with mark := some head } :=
    (Plan.setMarks_get head items s.plan i.channel).trans (if_pos (List.mem_map_of_mem hi))
  rw [hr] at marked
  unfold State.marked State.hold
  show ((State.channel { s with plan := s.plan.setMarks head items } i.channel).bind _).isSome = true ∧
    (State.channel { s with plan := s.plan.setMarks head items } i.channel).map _ = _
  rw [marked]
  exact ⟨rfl, congrArg some hold⟩

theorem placeOrder_searchOk {x : State} (idle : x.engine.urgentContext = .idle) (o : Handed) :
    (placeOrder o x).searchOk := by
  have starts : ∀ (w : PlaceWork) (n : Nat), w.order = o → w.stack = [] → w.rest = [] →
      (x.startPlace w (x.rank (x.screen [] (x.placeEntries o n)) (x.placeEntries o n))).searchOk :=
    fun w n order stack rest => by
      have seated := x.setMarks_seated (x.placeEntries o n) w.order.head
      unfold State.startPlace
      generalize x.rank (x.screen [] (x.placeEntries o n)) (x.placeEntries o n) = items at seated
      refine State.inContext_searchOk (k := .running _) rfl ?_
      cases items with
      | nil =>
        have none : w.seats = [] := by
          unfold PlaceWork.seats
          rw [stack, rest]
          rfl
        show State.seated _ w.seats
        rw [none]
        exact seated
      | cons i t => exact seated
  unfold placeOrder
  dsimp only
  split
  · exact State.conclude_searchOk idle _ _ _ _ _
  · split
    · exact State.conclude_searchOk (y := x.draw 1) idle _ _ _ _ _
    · split
      · split
        · exact starts _ _ rfl rfl rfl
        · exact State.endPlace_searchOk idle _ _ _ _ _
      · exact starts _ _ rfl rfl rfl

/-! ### The target of a CANCEL -/

/-- What CANCEL does with its target: the contexts and the model stay, or the routine context is IDLE afterwards. -/
theorem State.cancelTarget_context {x t : State} {n : Nat} (h : x.cancelTarget n = some t) :
    t.engine.urgentContext = x.engine.urgentContext ∧
      (t.engine.routineContext = .idle ∨ (t.engine.routineContext = x.engine.routineContext ∧ x.Still t)) := by
  unfold State.cancelTarget at h
  split at h
  · cases h
    rw [State.close_engine]
    refine ⟨rfl, .inr ⟨rfl, State.Still.trans ?_ (.close _ _ _ _ _ _)⟩⟩
    exact .of_eq rfl rfl rfl rfl
  · next suspended =>
    cases h
    obtain ⟨-, p, order, -⟩ := State.suspendedWork_context suspended
    obtain ⟨y, outcome, reason, argument, payloads, attends, eq⟩ := x.cancelWork_closes order
    refine ⟨?_, .inl rfl⟩
    rw [eq]
    show (y.close p outcome reason argument payloads).engine.urgentContext = _
    rw [State.close_engine]
    exact attends.engine.contexts.1
  · next z w _ _ _ =>
    cases h
    have engine : (x.endProbe z w .cancelled .none none).engine = x.engine := State.close_engine _ _ _ _ _ _
    rw [engine]
    exact ⟨rfl, .inr ⟨rfl, .endProbe x z w _ _ _⟩⟩
  · cases h

theorem State.done_engine (s : State) (o : Handed) (a : Word) (l : List Byte) :
    (s.done o a l).engine = s.engine.release := s.conclude_engine o .done .none a [l]

theorem Engine.release_running {e : Engine} (h : e.urgentContext = .running) :
    e.release.routineContext = e.routineContext := by
  unfold Engine.release
  rw [h]

/-! ### Orders -/

/-- With the urgent context IDLE, the procedure of an order leaves the routine context IDLE, or with work of its kind. -/
theorem State.Serves.work {x y : State} {code : OrderCode} {o : Handed} (h : x.Serves code o y)
    (idle : x.engine.urgentContext = .idle) :
    y.engine.routineContext = .idle ∨ ∃ v, y.engine.routineContext.work = some v ∧ v.kind = some code := by
  cases h with
  | ends outcome reason argument payloads attends =>
    exact .inl (State.conclude_work (attends.engine.contexts.1.trans idle) _ _ _ _ _)
  | begins attends work _ kind _ => exact .inr ⟨_, work, kind⟩
  | @asks z f w _ _ _ =>
    refine .inl ?_
    show (Engine.release x.engine).routineContext = _
    rw [Engine.release_idle idle]
  | @cancels t n other target =>
    exact .inl (State.conclude_work ((State.cancelTarget_context target).1.trans idle) _ _ _ _ _)

/-- A state whose routine context holds no PLACE. -/
theorem State.searchOk_of_kind {y : State} {k : Option OrderCode} (other : k ≠ some .place)
    (h : y.engine.routineContext = .idle ∨ ∃ v, y.engine.routineContext.work = some v ∧ v.kind = k) : y.searchOk := by
  refine State.searchOk_of_work fun w is => ?_
  rcases h with idle | ⟨v, work, kind⟩
  · rw [idle] at is
    cases is
  · obtain rfl := Option.some.inj (work.symm.trans is)
    exact other kind.symm

theorem State.Respects.searchOk {x y : State} (h : x.Respects y) (k : x.searchOk)
    (context : y.engine.routineContext = .idle ∨ y.engine.routineContext = x.engine.routineContext) : y.searchOk := by
  rcases context with idle | same
  · exact State.searchOk_of_work fun w work => by
      rw [idle] at work
      cases work
  · refine State.searchOk_iff.2 fun w work => ?_
    rw [same] at work
    exact (State.searchOk_iff.1 k w work).respects h

/-- An urgent order leaves the routine context, or leaves it IDLE. -/
theorem State.Serves.routineContext {x y : State} {code : OrderCode} {o : Handed} (h : x.Serves code o y)
    (running : x.engine.urgentContext = .running) (permitted : code.urgentPermitted = true) :
    y.engine.routineContext = .idle ∨ y.engine.routineContext = x.engine.routineContext := by
  cases h with
  | ends outcome reason argument payloads attends =>
    obtain ⟨urgent, routine⟩ := attends.engine.contexts
    rw [State.conclude_engine, Engine.release_running (urgent.trans running)]
    exact .inr routine
  | begins _ _ _ _ refused => rw [refused] at permitted; cases permitted
  | asks _ _ _ => exact .inr (Engine.release_running running)
  | cancels _ target =>
    obtain ⟨urgent, routine⟩ := State.cancelTarget_context target
    rw [State.done_engine, Engine.release_running (urgent.trans running)]
    exact routine.imp id And.left

theorem cancelOrder_respects {x : State} (running : x.engine.urgentContext = .running) (o : Handed) :
    (cancelOrder o x).engine.routineContext = .idle ∨ x.Respects (cancelOrder o x) := by
  unfold cancelOrder
  dsimp only
  split
  · exact .inr (.refuse x o _)
  · split
    · next t target =>
      obtain ⟨urgent, routine⟩ := State.cancelTarget_context target
      rw [State.done_engine, Engine.release_running (urgent.trans running)]
      exact routine.imp id fun ⟨_, still⟩ => (State.Respects.of_plan still.plan).done o _ _
    · exact .inr (.refuse x o _)

/-- An order in the urgent context keeps a search and its channels in agreement. -/
theorem State.urgent_searchOk {x : State} (running : x.engine.urgentContext = .running) (k : x.searchOk)
    {code : OrderCode} (permitted : code.urgentPermitted = true) (o : Handed) : (code.procedure o x).searchOk := by
  have context := (State.serves code o x).routineContext running permitted
  have respects : (code.procedure o x).engine.routineContext = .idle ∨ x.Respects (code.procedure o x) := by
    by_cases cancel : code = .cancel
    · rw [cancel]
      exact cancelOrder_respects running o
    · exact .inr (State.respects_urgent code o x permitted cancel)
  rcases respects with idle | respects
  · exact State.searchOk_of_work fun w work => by
      rw [idle] at work
      cases work
  · exact respects.searchOk k context

end Sys2Proof.Machine
end


section
/-! Every step keeps the orders in order, and the search of an active PLACE in agreement with its channels (R68, R71, R72,
R80, R132, R133, R146). -/

namespace Sys2Proof.Machine

/-- A step of work, or its resumption, leaves the routine context IDLE, or with work of the same kind. -/
theorem State.Works.work {s y : State} {w : Work} (h : s.Works w y) (idle : s.engine.urgentContext = .idle) :
    y.engine.routineContext = .idle ∨ ∃ v, y.engine.routineContext.work = some v ∧ v.kind = w.kind := by
  cases h with
  | goes attends work _ kind _ => exact .inr ⟨_, work, kind⟩
  | ends outcome reason argument payloads attends _ =>
    exact .inl (State.conclude_work (attends.engine.contexts.1.trans idle) _ _ _ _ _)
  | @rests y attends _ =>
    refine .inl ?_
    show y.engine.release.routineContext = _
    rw [Engine.release_idle (attends.engine.contexts.1.trans idle)]

theorem Work.place_of_kind {w : Work} (h : w.kind = some .place) : ∃ v, w = .place v := by
  cases w with
  | place v => exact ⟨v, rfl⟩
  | check w => cases h
  | rebuild w => cases h
  | refill w => cases h
  | upkeep w => cases h
  | single => cases h

/-- A step of the work in the routine context. -/
theorem State.workStep_searchOk {s : State} {w : Work} (ok : s.engineOk) (k : s.searchOk) (running : s.running = some w) :
    (s.workStep w).searchOk := by
  obtain ⟨-, idle, single, -⟩ := ok
  have work : s.engine.routineContext.work = some w := by
    rw [State.running_work running]
    rfl
  by_cases kind : w.kind = some .place
  · obtain ⟨v, rfl⟩ := Work.place_of_kind kind
    exact State.placeStep_searchOk idle (State.searchOk_iff.1 k v work)
  · have works := s.works_step fun is => single (work.trans (congrArg some is))
    exact State.searchOk_of_kind kind (works.work idle)

theorem State.resume_searchOk {s : State} {w : Work} (ok : s.engineOk) (k : s.searchOk)
    (context : s.engine.routineContext = .suspended w) : (s.resume w).searchOk := by
  obtain ⟨-, idle, single, -⟩ := ok
  have work : s.engine.routineContext.work = some w := by rw [context]; rfl
  by_cases kind : w.kind = some .place
  · obtain ⟨v, rfl⟩ := Work.place_of_kind kind
    exact State.inContext_searchOk (k := .running _) rfl (State.searchOk_iff.1 k v work)
  · have works := s.works_resume fun is => single (work.trans (congrArg some is))
    exact State.searchOk_of_kind kind (works.work idle)

theorem State.searchOk_idle {s : State} (h : s.engine.routineContext = .idle) : s.searchOk :=
  State.searchOk_of_work fun w work => by
    rw [h] at work
    cases work

/-- What the arbiter hands out keeps a search and its channels in agreement. -/
theorem State.taken_searchOk {s : State} {g : Grant} (ok : s.engineOk) (k : s.searchOk) (h : s.arbiter = some g) :
    (s.taken g).searchOk := by
  have orders := ok
  obtain ⟨-, idle, single, urgentOk, routineOk⟩ := orders
  cases g with
  | takeUrgent e =>
    obtain ⟨-, -, -, l, urgent⟩ := State.arbiter_takeUrgent h
    have kind : e.urgentOk := urgentOk e (by rw [urgent]; exact List.mem_cons_self)
    cases e with
    | order o =>
      obtain ⟨-, permitted⟩ : o.urgent = true ∧ o.code.urgentPermitted = true := kind
      exact State.urgent_searchOk (x := s.begin true o) rfl k permitted o
    | autoMove c f =>
      have attends := State.Attends.autoMove (s.beginEntry true) c f
      obtain ⟨urgent, routine⟩ := attends.engine.contexts
      refine State.Respects.searchOk (x := s.beginEntry true) ?_ k (.inr ?_)
      · exact (State.Respects.autoMove (s.beginEntry true) c f).trans (.of_plan rfl)
      · show ((s.beginEntry true).autoMove c f).engine.release.routineContext = _
        unfold Engine.release
        rw [urgent]
        exact routine
    | rebuild => exact kind.elim
    | upkeep b => exact kind.elim
  | takeRoutine e =>
    obtain ⟨-, -, rest, -, l, routine⟩ := State.arbiter_takeRoutine h
    have kind : e.routineOk := routineOk e (by rw [routine]; exact List.mem_cons_self)
    have released : ∀ {t : State}, t.engine.urgentContext = .idle → t.release.searchOk := fun {t} urgent => by
      refine State.searchOk_idle ?_
      show t.engine.release.routineContext = _
      rw [Engine.release_idle urgent]
    cases e with
    | order o =>
      by_cases place : o.code = .place
      · show (o.code.procedure o _).searchOk
        rw [place]
        exact placeOrder_searchOk (x := s.begin false o) idle o
      · have serves := State.serves o.code o (s.begin false o)
        exact State.searchOk_of_kind (fun is => place (Option.some.inj is)) (serves.work idle)
    | autoMove c f => exact kind.elim
    | rebuild =>
      show (s.beginEntry false).takeRebuild.searchOk
      unfold State.takeRebuild
      split
      · exact released idle
      · obtain ⟨k, work, eq⟩ := State.yieldWith_inContext
          { s.beginEntry false with census := (s.beginEntry false).census.startRebuild }
          (.rebuild ((s.beginEntry false).rebuildWork none 0))
        unfold State.startRebuild
        rw [eq]
        exact State.searchOk_of_work fun v is => Work.noConfusion (Option.some.inj (work.symm.trans is))
    | upkeep b =>
      show ((s.beginEntry false).startUpkeep b).searchOk
      unfold State.startUpkeep
      split
      · exact released idle
      · split
        · exact released idle
        · exact State.searchOk_of_work fun v is => Work.noConfusion (Option.some.inj is)
  | resume w =>
    obtain ⟨-, context⟩ := State.arbiter_resume h
    exact State.resume_searchOk ok k context

/-! ### Events -/

/-- An event that leaves the plan and the routine context. -/
theorem State.Still.searchOk {s t : State} (h : s.Still t) (context : t.engine.routineContext = s.engine.routineContext)
    (k : s.searchOk) : t.searchOk := (State.Respects.of_plan h.plan).searchOk k (.inr context)

theorem State.endProbe_engine (s : State) (z : Fin 4) (w : ProbeWork) (outcome : OrderOutcome) (reason : Reason)
    (level : Option Byte) : (s.endProbe z w outcome reason level).engine = s.engine := State.close_engine _ _ _ _ _ _

theorem State.answer_engine (s : State) (z : Fin 4) (i l : Byte) : (s.answer z i l).engine = s.engine := by
  unfold State.answer
  split
  · split
    · exact State.endProbe_engine _ _ _ _ _ _
    · rfl
  · rfl

theorem State.QuietEvent.searchOk {s a : State} (h : s.QuietEvent a) (k : s.searchOk) : a.searchOk := by
  have engine : a.engine = s.engine ∨ a.engine = .cleared := by
    cases h with
    | same => exact .inl rfl
    | misuse => exact .inl rfl
    | claim => exact .inl rfl
    | give _ _ => exact .inl (State.attempt_engine _)
    | notices raw enables => exact .inl rfl
    | write a l => exact .inl rfl
    | frame z => exact .inl rfl
    | crcError z => exact .inl rfl
    | formatError z => exact .inl rfl
    | timeout _ => exact .inl (State.goStale_engine _ _)
    | move _ => exact .inl (State.mark_engine _ _ _ _)
    | soft run auto _ => exact .inr rfl
  have context := engine.imp (congrArg Engine.routineContext) (congrArg Engine.routineContext)
  rcases h.still with still | ⟨c, f, g, e, hold, rfl⟩ | ⟨run, auto, rfl⟩
  · exact (State.Respects.of_plan still.plan).searchOk k (context.symm)
  · refine State.Respects.searchOk ?_ k context.symm
    exact (State.Respects.refl s).setHold (State.Respects.not_sought_of_hold hold rfl)
      (congrArg Plan.channels (State.mark_plan _ _ _ _))
  · exact State.searchOk_idle rfl

theorem State.exchange_searchOk {s : State} (ok : s.engineOk) (run auto : Bool) : (s.beginExchange run auto).searchOk := by
  obtain ⟨-, -, single, -⟩ := ok
  obtain ⟨y, k, -, eq, order, -⟩ := s.abandonWork_attends single
  refine State.searchOk_of_work fun v is => ?_
  have context : (s.beginExchange run auto).engine.routineContext = k := by
    show s.abandonWork.engine.routineContext = k
    rw [eq]
    rfl
  rw [context] at is
  rw [is] at order
  cases order

theorem State.OpenEvent.searchOk {s a : State} (h : s.OpenEvent a) (ok : s.engineOk) (k : s.searchOk) : a.searchOk := by
  cases h with
  | take granted => exact State.taken_searchOk ok k granted
  | work running => exact State.workStep_searchOk ok k running
  | sweep z number first stride flags levels =>
    have attends := (State.Attends.validFrame s z).trans (.sweepFrame _ z number first stride flags levels)
    exact State.Still.searchOk ((State.Still.validFrame s z).trans (.sweepFrame _ _ _ _ _ _ _)) attends.engine.contexts.2 k
  | answer z i l =>
    exact State.Still.searchOk ((State.Still.validFrame s z).trans (.answer _ _ _ _))
      (congrArg Engine.routineContext (State.answer_engine _ z i l)) k
  | deadline _ =>
    refine State.Still.searchOk (State.Still.trans ?_ (.endProbe _ _ _ _ _ _))
      (congrArg Engine.routineContext (State.endProbe_engine _ _ _ _ _ _)) k
    exact .of_eq rfl rfl rfl rfl
  | @accept n o _ _ _ =>
    refine State.Still.searchOk (s := s) (.of_eq rfl rfl rfl rfl) ?_ k
    show (s.engine.join o).routineContext = _
    unfold Engine.join
    split <;> rfl
  | turnAway _ _ _ => exact State.Still.searchOk (s := s) (.of_eq rfl rfl rfl rfl) rfl k
  | switch run auto _ => exact State.Still.searchOk (s := s) (.of_eq rfl rfl rfl rfl) rfl k
  | exchange run auto _ => exact State.exchange_searchOk ok run auto

theorem kept_searchOk : State.Kept fun s => s.engineOk ∧ s.searchOk where
  pending := fun _ _ ok => ok
  idle := fun _ ok => ok
  byte := fun s z b l ok => ⟨kept_engineOk.byte s z b l ok.1, ok.2⟩
  receiver := fun s z l ok => ⟨kept_engineOk.receiver s z l ok.1, ok.2⟩
  quiet := fun s a event ok => ⟨kept_engineOk.quiet s a event ok.1, event.searchOk ok.2⟩
  acts := fun s a event ok => ⟨kept_engineOk.acts s a event ok.1, event.searchOk ok.1 ok.2⟩
  powered := fun s ok => ⟨kept_engineOk.powered s ok.1, State.searchOk_idle rfl⟩
  resetEnd := fun s r running ok => by
    refine ⟨kept_engineOk.resetEnd s r running ok.1, ?_⟩
    have attempt : (s.resetOver r).engine = s.engine := State.attempt_engine _
    exact State.Respects.searchOk (.of_plan (State.attempt_plan _)) ok.2
      (.inr (congrArg Engine.routineContext attempt))

end Sys2Proof.Machine

open Sys2Proof Sys2Proof.Machine

/-- Settles O9. -/
theorem stepKeepsOrders : Obligations.StepKeepsOrders :=
  ⟨fun _ _ ok step => kept_engineOk.step ok step, fun _ _ ok search step => (kept_searchOk.step ⟨ok, search⟩ step).2⟩

end


section
/-! Exact planes under a plan change (R38 to R40): a frequency joins or leaves the plan. -/

namespace Sys2Proof.Machine

/-! ### What the planes depend on -/

/-- What the products of a transmitter depend on: its stage and its step. -/
def Transmitter.key (x : Transmitter) : Fin 8 × Nat := (x.stage, x.step)

theorem Site.relevant_like (s : Site) (b : Fin 8) {l m : List Transmitter}
    (h : l.map Transmitter.key = m.map Transmitter.key) : s.relevant b l = s.relevant b m := by
  have by_key : ∀ l : List Transmitter, s.relevant b l =
      ((l.map Transmitter.key).filter fun e => s.nearIm b e.1).map Prod.snd := fun l => by
    rw [List.filter_map, List.map_map]
    rfl
  rw [by_key l, by_key m, h]

theorem State.exactFor.like {s : State} {l m : List Transmitter} (exact : s.exactFor l)
    (h : l.map Transmitter.key = m.map Transmitter.key) : s.exactFor m := by
  intro b n
  have third : s.site.thirdOf b l [] = s.site.thirdOf b m [] := by
    rw [s.site.thirdOf_eq, s.site.thirdOf_eq, s.site.relevant_like b h]
  have fifth : s.site.fifthOf b l [] = s.site.fifthOf b m [] := by
    rw [s.site.fifthOf_eq, s.site.fifthOf_eq, s.site.relevant_like b h]
  rw [← third, ← fifth]
  exact exact b n

/-- The planes of no frequency are empty. -/
theorem State.exactFor_nil {s : State} (h : ∀ i, s.census.count i = 0) : s.exactFor [] := fun b n => by
  have none : ∀ w : Window, landing w [] n = 0 := fun w => by
    unfold landing
    split <;> rfl
  exact ⟨(h _).trans (none _).symm, (h _).trans (none _).symm⟩

/-- Planes that are exact for no frequency are empty, whatever the site model. -/
theorem State.exactFor.empty {s : State} (h : s.exactFor []) (i : Increment) : s.census.count i = 0 := by
  have none : landing s.site.window [] i.2.2 = 0 := by
    unfold landing
    split <;> rfl
  obtain ⟨b, fifth, n⟩ := i
  obtain ⟨third, five⟩ := h b n
  cases fifth with
  | false => exact third.trans none
  | true => exact five.trans none

theorem Census.count_cleared {c : Census} (h3 : c.plane3 = Vector.replicate 8 []) (h5 : c.plane5 = Vector.replicate 8 [])
    (i : Increment) : c.count i = 0 := by
  unfold Census.count
  split <;> simp [h3, h5, sparseGet]

/-! ### The paths of R21 -/

/-- The path for an added frequency takes exact planes to exact planes while the census stays VALID (R40). -/
theorem State.added_exact {s : State} {x : Transmitter} (planes : s.census.planesOk) (mem : x ∈ s.plan.transmitters)
    (exact : s.census.state = .valid → s.exactFor (s.plan.others x)) (after : (s.added x).census.state = .valid) :
    (s.added x).exactFor s.plan.transmitters := by
  obtain ⟨⟨other, fits, saturates⟩, -, -, record⟩ := s.added_effect x planes
  have others : (s.added x).plan.others x = s.plan.others x := by
    rw [State.added_plan]
    rfl
  have valid : s.census.state = .valid := by
    by_contra not
    rw [other not] at after
    exact not after
  have room : ∀ i, s.census.count i + (s.site.increments x (s.plan.others x)).count i ≤ Config.countLimit := by
    by_contra past
    simp only [not_forall, not_le] at past
    rw [others] at saturates
    obtain ⟨stale, -⟩ := saturates valid past
    rw [stale] at after
    cases after
  rw [others] at fits
  obtain ⟨-, -, gains⟩ := fits valid room
  exact ((exact valid).gains (State.added_site s x) gains).perm (Plan.perm_others mem).symm

/-- The path for a removed frequency takes exact planes to exact planes (R40). -/
theorem State.removed_exact {s : State} {x : Transmitter} (planes : s.census.planesOk) (valid : s.census.state = .valid)
    (exact : s.exactFor (x :: s.plan.transmitters)) :
    (s.removed x).census.state = .valid ∧ (s.removed x).exactFor s.plan.transmitters := by
  obtain ⟨⟨-, loses⟩, -, -⟩ := s.removed_effect x planes
  obtain ⟨state, -, loses⟩ := loses valid
  have held : (s.removed x).plan.transmitters = s.plan.transmitters := by
    rw [State.removed_plan]
    rfl
  rw [held] at loses
  exact ⟨state, exact.loses (State.removed_site s x) loses⟩

/-! ### The frequencies of one channel -/

theorem Plan.others_setHold (p : Plan) (c : Fin 256) (k : Hold) :
    ((p.setHold c k).transmitters.filter fun a => a.channel ≠ c) = p.transmitters.filter fun a => a.channel ≠ c := by
  rw [Plan.transmitters_eq, Plan.transmitters_eq, List.filter_flatMap, List.filter_flatMap]
  refine congrArg (allChannels.flatMap ·) (funext fun d => ?_)
  rw [p.setHold_get]
  split
  · next same =>
    subst same
    have none : ∀ o : Option ChannelRecord,
        (((o.map (transmittersOf d)).getD []).filter fun a => decide (a.channel ≠ d)) = [] := fun o =>
      List.filter_eq_nil_iff.2 fun a mem => by
        cases o with
        | none => cases mem
        | some r => simpa using channel_of_transmittersOf mem
    rw [none, none]
  · rfl

/-- The plan after a channel's new hold: the channel's frequencies, and those of the others. -/
theorem Plan.perm_setHold {p : Plan} {c : Fin 256} {q : ChannelRecord} (h : p.channels[c] = some q) (k : Hold) :
    (p.setHold c k).transmitters.Perm
      (transmittersOf c { q with hold := k } ++ p.transmitters.filter fun a => a.channel ≠ c) := by
  have after : (p.setHold c k).channels[c] = some { q with hold := k } := by
    rw [p.setHold_get, if_pos rfl, h]
    rfl
  have split := Plan.perm_channel after
  rwa [p.others_setHold] at split

/-- The transmitters that a channel forms with frequencies. -/
def ChannelRecord.formed (q : ChannelRecord) (c : Fin 256) (l : List (Bool × Nat)) : List Transmitter :=
  l.map fun e => q.transmitter c e.1 e.2

theorem transmittersOf_formed (c : Fin 256) (q : ChannelRecord) (k : Hold) :
    transmittersOf c { q with hold := k } = q.formed c k.frequencies := rfl

theorem ChannelRecord.formed_key (q : ChannelRecord) (c : Fin 256) {l m : List (Bool × Nat)}
    (h : l.map Prod.snd = m.map Prod.snd) :
    (q.formed c l).map Transmitter.key = (q.formed c m).map Transmitter.key := by
  have steps := congrArg (List.map fun n : Nat => (q.fields.stage, n)) h
  rw [List.map_map, List.map_map] at steps
  unfold ChannelRecord.formed
  rw [List.map_map, List.map_map]
  exact steps

/-- A hold that gains a primary: the frequencies it had are held on, one of them perhaps as the secondary (R20, R30). -/
def Hold.gainsPrimary (h k : Hold) (f : Nat) : Prop :=
  ∃ m, k.frequencies = (false, f) :: m ∧ m.map Prod.snd = h.frequencies.map Prod.snd

/-- A hold that loses a frequency (R29, R32, R33). -/
def Hold.loses (h k : Hold) (second : Bool) (f : Nat) : Prop :=
  ∃ m, h.frequencies.Perm ((second, f) :: m) ∧ m.map Prod.snd = k.frequencies.map Prod.snd

/-- A channel gains a primary: with exact planes before, they are exact for the other frequencies (R40). -/
theorem State.others_exact {s : State} {c : Fin 256} {q : ChannelRecord} {k : Hold} {f : Nat}
    (hq : s.channel c = some q) (gains : q.hold.gainsPrimary k f) :
    q.transmitter c false f ∈ (s.plan.setHold c k).transmitters ∧
      (s.exactFor s.plan.transmitters → s.exactFor ((s.plan.setHold c k).others (q.transmitter c false f))) := by
  obtain ⟨m, new, steps⟩ := gains
  have split := Plan.perm_setHold (p := s.plan) hq k
  rw [transmittersOf_formed, new, show q.formed c ((false, f) :: m) = q.transmitter c false f :: q.formed c m from rfl,
    List.cons_append] at split
  have mem : q.transmitter c false f ∈ (s.plan.setHold c k).transmitters := split.mem_iff.2 List.mem_cons_self
  refine ⟨mem, fun exact => ?_⟩
  have others := ((Plan.perm_others mem).symm.trans split).cons_inv
  refine State.exactFor.perm ?_ others.symm
  refine (exact.perm (Plan.perm_channel hq)).like ?_
  rw [List.map_append, List.map_append]
  exact congrArg (· ++ _) (q.formed_key c steps).symm

/-- A channel loses a frequency: exact planes count it with those that are left (R40). -/
theorem State.lost_exact {s : State} {c : Fin 256} {q : ChannelRecord} {k : Hold} {second : Bool} {f : Nat}
    (hq : s.channel c = some q) (loses : q.hold.loses k second f) (exact : s.exactFor s.plan.transmitters) :
    s.exactFor (q.transmitter c second f :: (s.plan.setHold c k).transmitters) := by
  obtain ⟨m, old, steps⟩ := loses
  refine State.exactFor.perm (l := q.transmitter c second f ::
    (transmittersOf c { q with hold := k } ++ s.plan.transmitters.filter fun a => a.channel ≠ c)) ?_
    ((Plan.perm_setHold hq k).symm.cons _)
  have before : (transmittersOf c q).Perm (q.transmitter c second f :: q.formed c m) := old.map _
  refine ((exact.perm (Plan.perm_channel hq)).perm (before.append_right _)).like ?_
  rw [List.cons_append, List.map_cons, List.map_cons, List.map_append, List.map_append]
  exact congrArg (fun l => _ :: (l ++ _)) (q.formed_key c steps)

end Sys2Proof.Machine
end


section
/-! What an event leaves of the held frequencies, the planes and the spares (`State.Changes`): held frequencies that pass C1
(R20), exact planes (R40) and spares that pass (R85, R86). -/

namespace Sys2Proof.Machine

/-! ### Exact planes and spares that pass -/

/-- The planes are in their canonical form, and those of a VALID census are exact for the held frequencies (R40). -/
def State.sharp (s : State) : Prop :=
  s.census.planesOk ∧ (s.census.state = .valid → s.exactFor s.plan.transmitters)

/-- A state whose census answers no count, so that an evaluation forms the products itself (R43). -/
def State.blind (s : State) : State := { s with census := { Census.cleared with state := .stale } }

/-- The spares of a stage pass, whatever the census (R85). -/
def State.tightAt (s : State) (b : Fin 8) : Prop :=
  ∀ r, s.site.stages[b] = some r → ∀ x ∈ s.spares[b], s.blind.sparePasses b r x.step = true

/-- Every spare passes, whatever the census (R85). -/
def State.tight (s : State) : Prop := ∀ b, s.tightAt b

/-- With exact planes a recheck does not depend on the census (R43). -/
theorem State.sharp.sparePasses {s : State} (h : s.sharp) (b : Fin 8) (r : StageRecord) (f : Nat) :
    s.sparePasses b r f = s.blind.sparePasses b r f := by
  have counts : ∀ b, s.count3 b s.plan.transmitters [] = s.blind.count3 b s.plan.transmitters [] ∧
      s.count5 b s.plan.transmitters [] = s.blind.count5 b s.plan.transmitters [] := fun b => by
    by_cases valid : s.census.state = .valid
    · exact State.count_eq (d := { Census.cleared with state := .stale }) (aside := []) valid (h.2 valid) nofun (.refl _) b
    · unfold State.count3 State.count5
      cases state : s.census.state with
      | valid => exact absurd state valid
      | stale => exact ⟨rfl, rfl⟩
      | rebuilding => exact ⟨rfl, rfl⟩
  have five := State.check5_congr (fun b => (counts b).1) (fun b => (counts b).2) (s.site.spareCandidate b r f)
  unfold State.sparePasses
  dsimp only
  rw [five]
  rfl

theorem State.sparesPass_iff {s : State} (h : s.sharp) : s.sparesPass ↔ s.tight := by
  refine forall_congr' fun b => forall_congr' fun r => forall_congr' fun _ => forall_congr' fun x =>
    forall_congr' fun _ => ?_
  rw [← h.sparePasses, State.sparePasses_iff]

theorem State.tightAt_of {s t : State} {b : Fin 8} (h : s.tightAt b) (site : t.site = s.site)
    (held : t.plan.transmitters = s.plan.transmitters) (spares : (t.spares[b]).Sublist s.spares[b]) : t.tightAt b := by
  intro r hr x hx
  rw [site] at hr
  rw [State.sparePasses_of_transmitters (s := s.blind) (t := t.blind) site held rfl]
  exact h r hr x (spares.subset hx)

theorem State.tight_nil {s : State} (h : s.spares = Vector.replicate 8 []) : s.tight := fun b r _ x hx => by
  rw [h] at hx
  simp at hx

/-- A recheck keeps spares that pass alone (R86). -/
theorem State.mem_keepSpares {s : State} {b : Fin 8} {r : StageRecord} {x : Spare} (l kept : List Spare)
    (h : x ∈ s.keepSpares b r kept l) : x ∈ kept ∨ s.sparePasses b r x.step = true := by
  induction l generalizing kept with
  | nil => exact .inl h
  | cons y t ih =>
    unfold State.keepSpares at h
    split at h
    · next pass =>
      rcases ih _ h with old | pass'
      · rcases List.mem_append.1 old with old | new
        · exact .inl old
        · obtain rfl := List.mem_singleton.1 new
          exact .inr (Bool.and_eq_true_iff.1 pass).1
      · exact .inr pass'
    · exact ih _ h

/-- A list that has been rechecked with exact planes. -/
theorem State.tightAt_rechecked {s t : State} {b : Fin 8} (sharp : t.sharp)
    (h : t.spares[b] = State.rechecked { t with spares := s.spares } b) : t.tightAt b := by
  intro r hr x hx
  rw [h] at hx
  unfold State.rechecked at hx
  rw [show (State.site { t with spares := s.spares }).stages[b] = some r from hr] at hx
  rw [← sharp.sparePasses]
  exact (State.mem_keepSpares _ [] hx).resolve_left nofun

theorem State.tight_rechecksAll {s t : State} (sharp : t.sharp) (h : s.rechecksAll t) : t.tight := fun b =>
  State.tightAt_rechecked (s := s) sharp ((h b).trans (if_pos rfl))

theorem State.sharp_of {s t : State} (h : s.sharp) (site : t.site = s.site) (census : t.census = s.census)
    (held : t.plan.transmitters = s.plan.transmitters) : t.sharp := by
  obtain ⟨planes, exact⟩ := h
  refine ⟨by rw [census]; exact planes, fun valid => ?_⟩
  rw [held]
  rw [census] at valid
  exact State.exactFor_congr (exact valid) census site

/-- Without a VALID census only the form of the planes counts. -/
theorem State.sharp_of_state {s : State} (planes : s.census.planesOk) (h : s.census.state ≠ .valid) : s.sharp :=
  ⟨planes, fun valid => absurd valid h⟩

/-- The recheck of some stages, the spares of the others passing already. -/
theorem State.recheck_tight {s : State} (sharp : s.sharp) {l : List (Fin 8)} (h : ∀ b, b ∉ l → s.tightAt b) :
    (s.recheck l).tight := fun b => by
  have rechecked : (s.recheck l).sharp := State.sharp_of sharp rfl rfl rfl
  by_cases mem : b ∈ l
  · have same : s.rechecked b = State.rechecked { s.recheck l with spares := s.spares } b :=
      State.rechecked_congr (s := s) (t := { s.recheck l with spares := s.spares }) (fun _ _ _ => rfl) rfl rfl b
    refine State.tightAt_rechecked (s := s) rechecked (Eq.trans ?_ same)
    rw [s.recheck_get, if_pos mem]
  · refine State.tightAt_of (h b mem) rfl rfl ?_
    rw [s.recheck_get, if_neg mem]

/-! ### Held frequencies -/

theorem State.check1_congr {s t : State} (site : t.site = s.site) (c : Candidate) : t.check1 c = s.check1 c := by
  unfold State.check1
  rw [site]

theorem State.heldOk_of {s t : State} (h : s.heldOk) (site : t.site = s.site)
    (channels : t.plan.channels = s.plan.channels) : t.heldOk := by
  intro c r hr f hf
  have channel : t.channel c = s.channel c := (congrArg (fun v : Vector (Option ChannelRecord) 256 => v[c]) channels :)
  rw [channel] at hr
  rw [State.check1_congr site, site]
  exact h c r hr f hf

/-- The held frequencies after a channel's new record. -/
theorem State.heldOk_setChannel {s t : State} {c : Fin 256} {o : Option ChannelRecord} (h : s.heldOk)
    (site : t.site = s.site) (channels : t.plan.channels = (s.plan.setChannel c o).channels)
    (own : ∀ r, o = some r → ∀ f ∈ r.hold.frequencies, s.check1 (s.site.channelCandidate r f.2) = true) : t.heldOk := by
  intro d r hr f hf
  have channel : t.channel d = if d = c then o else s.channel d :=
    (congrArg (fun v : Vector (Option ChannelRecord) 256 => v[d]) channels).trans (s.plan.setChannel_get c d o)
  rw [channel] at hr
  rw [State.check1_congr site, site]
  split at hr
  · exact own r hr f hf
  · exact h d r hr f hf

theorem State.heldOk_setHold {s t : State} {c : Fin 256} {q : ChannelRecord} {k : Hold} (h : s.heldOk)
    (hq : s.channel c = some q) (site : t.site = s.site)
    (channels : t.plan.channels = (s.plan.setHold c k).channels)
    (own : ∀ f ∈ k.frequencies, s.check1 (s.site.channelCandidate q f.2) = true) : t.heldOk := by
  refine State.heldOk_setChannel h site channels fun r hr f hf => ?_
  have channel : s.plan.channels[c] = some q := hq
  rw [channel] at hr
  cases hr
  exact own f hf

/-- A frequency among those of a channel passes C1. -/
theorem State.heldOk.step {s : State} (h : s.heldOk) {c : Fin 256} {q : ChannelRecord} (hq : s.channel c = some q)
    {n : Nat} (mem : n ∈ q.hold.frequencies.map Prod.snd) : s.check1 (s.site.channelCandidate q n) = true := by
  obtain ⟨e, he, rfl⟩ := List.mem_map.1 mem
  exact h c q hq e he

/-- What the Evaluator reads of a channel: its fields and its frequencies. -/
def ChannelRecord.emission (r : ChannelRecord) : ChannelFields × List (Bool × Nat) := (r.fields, r.hold.frequencies)

/-! ### Changes -/

/-- Held frequencies that pass C1, exact planes and spares that pass go over from one state to another. -/
structure State.Changes (s t : State) : Prop where
  held : s.heldOk → t.heldOk
  sharp : s.sharp → t.sharp
  tight : s.sharp → s.tight → t.tight

namespace State.Changes

theorem refl (s : State) : s.Changes s := ⟨id, id, fun _ => id⟩

theorem trans {s t u : State} (h : s.Changes t) (k : t.Changes u) : s.Changes u :=
  ⟨k.held ∘ h.held, k.sharp ∘ h.sharp, fun sharp tight => k.tight (h.sharp sharp) (h.tight sharp tight)⟩

theorem still {s t : State} (h : s.Still t) : s.Changes t where
  held := fun held => State.heldOk_of held h.site (congrArg Plan.channels h.plan)
  sharp := fun sharp => State.sharp_of sharp h.site h.census (congrArg Plan.transmitters h.plan)
  tight := fun _ tight b => State.tightAt_of (tight b) h.site (congrArg Plan.transmitters h.plan) (h.spares b)

theorem conclude {s t : State} (h : s.Changes t) (o : Handed) (x : OrderOutcome) (r : Reason) (a : Word)
    (l : List (List Byte)) : s.Changes (t.conclude o x r a l) := h.trans (still ((State.Still.refl t).conclude o x r a l))

theorem done {s t : State} (h : s.Changes t) (o : Handed) (a : Word) (l : List Byte) : s.Changes (t.done o a l) :=
  h.conclude o .done .none a [l]

theorem refuse (s : State) (o : Handed) (r : Reason) : s.Changes (s.refuse o r) := still (.refuse s o r)

theorem inStageOrder {s t : State} (u : State) (h : s.Changes t) : s.Changes (u.inStageOrder t) :=
  h.trans (still (.inStageOrder u (.refl t)))

theorem mark {s t : State} (h : s.Changes t) (x : Subject) (f : Byte) (k : Option (Nat × Nat) := none) :
    s.Changes (t.mark x f k) := h.trans (still (.mark t x f k))

theorem draw {s t : State} (h : s.Changes t) (n : Nat) : s.Changes (t.draw n) := h.trans (still ((State.Still.refl t).draw n))

/-- A census that goes STALE. -/
theorem stale (s : State) (k : CensusCause) : s.Changes (s.stale k) where
  held := fun held => State.heldOk_of held rfl rfl
  sharp := fun sharp => State.sharp_of_state (s := s.stale k) sharp.1 nofun
  tight := fun _ tight b => State.tightAt_of (tight b) rfl rfl (.refl _)

/-- A REBUILD clears the planes. -/
theorem startCensus (s : State) : s.Changes { s with census := s.census.startRebuild } where
  held := fun held => State.heldOk_of held rfl rfl
  sharp := fun _ => State.sharp_of_state (Census.planesOk_empty rfl rfl) nofun
  tight := fun _ tight b => State.tightAt_of (tight b) rfl rfl (.refl _)

/-- The same fields and the same frequencies for every channel. -/
theorem emits {s t : State} (site : t.site = s.site) (census : t.census = s.census) (spares : s.Thins t)
    (same : ∀ c, (t.channel c).map ChannelRecord.emission = (s.channel c).map ChannelRecord.emission) : s.Changes t := by
  have formed : ∀ (c : Fin 256) (o : Option ChannelRecord), o.map (transmittersOf c) =
      (o.map ChannelRecord.emission).map fun e => e.2.map fun x =>
        { channel := c, secondary := x.1, stage := e.1.stage, step := x.2, halfWidth := e.1.bandwidth.halfWidth } :=
    fun c o => by
      rw [Option.map_map]
      rfl
  have transmitters : t.plan.transmitters = s.plan.transmitters := Plan.transmitters_congr fun c => by
    rw [formed, formed]
    exact congrArg _ (same c)
  refine ⟨fun held c r hr f hf => ?_, fun sharp => State.sharp_of sharp site census transmitters,
    fun _ tight b => State.tightAt_of (tight b) site transmitters (spares b)⟩
  have emission := same c
  rw [hr] at emission
  obtain ⟨q, hq, eq⟩ := Option.map_eq_some_iff.1 emission.symm
  obtain ⟨fields, frequencies⟩ := Prod.mk.inj eq
  have candidate : s.site.channelCandidate r f.2 = s.site.channelCandidate q f.2 := by
    unfold Site.channelCandidate ChannelRecord.halfWidth
    rw [fields]
  rw [State.check1_congr site, site, candidate]
  exact held c q hq f (by rw [frequencies]; exact hf)

/-- A channel's new hold on the frequencies it holds. -/
theorem setHold {s : State} {c : Fin 256} {k : Hold}
    (same : ∀ q, s.channel c = some q → k.frequencies = q.hold.frequencies) : s.Changes (s.setHold c k) := by
  refine emits rfl rfl (State.thins_of_eq rfl) fun d => ?_
  have channel : (s.setHold c k).channel d = if d = c then (s.channel c).map fun r => { r with hold := k }
    else s.channel d := s.plan.setHold_get c d k
  rw [channel]
  split
  · next here =>
    subst here
    cases hq : s.channel d with
    | none => rfl
    | some q => exact congrArg some (congrArg (Prod.mk q.fields) (same q hq))
  · rfl

/-! ### The plan-change path -/

/-- A channel gains a primary that passes C1 (R20, R21). -/
theorem addPrimary {b s : State} {c : Fin 256} {q r : ChannelRecord} {k : Hold} {f : Nat} (h : b.Changes s)
    (hq : s.channel c = some q) (fields : r.fields = q.fields) (gains : q.hold.gainsPrimary k f)
    (pass : b.heldOk → s.check1 (s.site.channelCandidate q f) = true) : b.Changes (s.addPrimary c r k f) := by
  have formed : r.transmitter c false f = q.transmitter c false f := by
    unfold ChannelRecord.transmitter ChannelRecord.halfWidth
    rw [fields]
  obtain ⟨mem, others⟩ := State.others_exact hq gains
  have sharp : s.sharp → (s.addPrimary c r k f).sharp := fun ⟨planes, exact⟩ => by
    refine ⟨(s.keeps_addPrimary c r k f).planes planes, fun valid => ?_⟩
    unfold State.addPrimary at valid ⊢
    rw [formed] at valid ⊢
    rw [show (State.added { s with plan := s.plan.setHold c k } (q.transmitter c false f)).plan.transmitters =
      (s.plan.setHold c k).transmitters by rw [State.added_plan]; rfl]
    exact State.added_exact (s := { s with plan := s.plan.setHold c k }) planes mem
      (fun valid => State.exactFor_congr (others (exact valid)) rfl rfl) valid
  refine ⟨fun held => ?_, fun before => sharp (h.sharp before), fun before _ => ?_⟩
  · refine State.heldOk_setHold (h.held held) hq (State.addPrimary_site _ _ _ _ _) (State.addPrimary_channels _ _ _ _ _)
      fun e he => ?_
    obtain ⟨m, new, steps⟩ := gains
    rw [new] at he
    rcases List.mem_cons.1 he with rfl | he
    · exact pass held
    · exact (h.held held).step hq (steps ▸ List.mem_map_of_mem he)
  · have between := h.sharp before
    obtain ⟨-, rechecks, -⟩ :=
      State.added_effect { s with plan := s.plan.setHold c k } (r.transmitter c false f) between.1
    exact State.tight_rechecksAll (sharp between) rechecks

/-- A channel loses a frequency (R20, R21). -/
theorem removeStep {s : State} {c : Fin 256} {q r : ChannelRecord} {k : Hold} {second : Bool} {f : Nat}
    (hq : s.channel c = some q) (fields : r.fields = q.fields) (loses : q.hold.loses k second f) :
    s.Changes (s.removeStep c r k second f) := by
  have formed : r.transmitter c second f = q.transmitter c second f := by
    unfold ChannelRecord.transmitter ChannelRecord.halfWidth
    rw [fields]
  have sharp : s.sharp → (s.removeStep c r k second f).sharp := fun ⟨planes, exact⟩ => by
    refine ⟨(s.keeps_removeStep c r k second f).planes planes, fun valid => ?_⟩
    obtain ⟨⟨other, -⟩, -, -⟩ :=
      State.removed_effect { s with plan := s.plan.setHold c k } (r.transmitter c second f) planes
    have before : s.census.state = .valid := by
      by_contra not
      have same : (s.removeStep c r k second f).census = s.census := other not
      rw [same] at valid
      exact not valid
    unfold State.removeStep
    rw [formed]
    rw [show (State.removed { s with plan := s.plan.setHold c k } (q.transmitter c second f)).plan.transmitters =
      (s.plan.setHold c k).transmitters by rw [State.removed_plan]; rfl]
    exact (State.removed_exact (s := { s with plan := s.plan.setHold c k }) planes before
      (State.exactFor_congr (State.lost_exact hq loses (exact before)) rfl rfl)).2
  refine ⟨fun held => ?_, sharp, fun before _ => ?_⟩
  · refine State.heldOk_setHold held hq (State.removeStep_site _ _ _ _ _ _) (State.removeStep_channels _ _ _ _ _ _)
      fun e he => ?_
    obtain ⟨m, old, steps⟩ := loses
    refine held.step hq ?_
    have kept : e.2 ∈ m.map Prod.snd := steps ▸ List.mem_map_of_mem he
    exact (old.map Prod.snd).mem_iff.2 (List.mem_cons_of_mem _ kept)
  · obtain ⟨-, rechecks, -⟩ :=
      State.removed_effect { s with plan := s.plan.setHold c k } (r.transmitter c second f) before.1
    exact State.tight_rechecksAll (sharp before) rechecks

end State.Changes
end Sys2Proof.Machine
end


section
/-! What the orders on channels, the searches and the work on spares leave of the held frequencies, the planes and the
spares. -/

namespace Sys2Proof.Machine

/-! ### What a passing evaluation says -/

theorem State.evaluate_passes {s : State} {c : Candidate} {set aside : List Transmitter} {strict : Bool} {n : Nat}
    (h : s.evaluate c set aside strict = .pass n) : s.check1 c = true ∧ s.check2 c = true ∧ s.check4 c set = true ∧
      s.check5 c set aside = true ∧ s.check6 c set = true := by
  obtain ⟨-, passes⟩ := evaluationStopsAtFirstFailure s c set aside strict n
  obtain ⟨all, -⟩ := passes.1 h
  simp only [List.mem_cons, List.not_mem_nil, or_false, forall_eq_or_imp, forall_eq] at all
  obtain ⟨one, two, -, four, five, six⟩ := all
  exact ⟨one, two, four, five, six⟩

/-- A channel's frequency that passes an evaluation passes C1 (R53, R55). -/
theorem State.evaluateFor_check1 {s : State} {r : ChannelRecord} {f n : Nat} {strict : Bool}
    (h : s.evaluateFor r f strict = .pass n) : s.check1 (s.site.channelCandidate r f) = true :=
  (State.evaluate_passes h).1

/-- A candidate that passes for the spare profile passes a recheck (R86, R90). -/
theorem State.evaluateSpare_passes {s : State} {b : Fin 8} {r : StageRecord} {f n : Nat}
    (h : s.evaluateSpare b r f = .pass n) : s.sparePasses b r f = true := by
  obtain ⟨-, two, four, five, six⟩ := State.evaluate_passes h
  exact (s.sparePasses_iff b r f).2 ⟨two, four, five, six⟩

theorem State.spareSearch_passes {s : State} {r : ChannelRecord} {l : List Spare} {f n : Nat}
    (h : (s.spareSearch r l).1 = some (f, n)) : s.evaluateFor r f false = .pass n := by
  induction l with
  | nil => cases h
  | cons x t ih =>
    unfold State.spareSearch at h
    split at h
    · next score pass =>
      cases h
      exact pass
    · exact ih h

theorem State.bestOf_passes {s : State} {r : ChannelRecord} {fs : List Nat} {f n : Nat} (h : s.bestOf r fs = some (f, n)) :
    s.evaluateFor r f false = .pass n := by
  refine List.foldlRecOn (motive := fun best : Option (Nat × Nat) =>
    ∀ f n, best = some (f, n) → s.evaluateFor r f false = .pass n) fs _ (fun _ _ none => by cases none) (fun best hbest g _ f n => ?_) f n h
  unfold better
  split
  · exact hbest f n
  · next score pass =>
    split
    · rintro ⟨rfl, rfl⟩
      exact pass
    · next b =>
      split
      · rintro ⟨rfl, rfl⟩
        exact pass
      · exact hbest f n

/-- What the search of REPLACE finds passes (R96). -/
theorem State.search_passes {s : State} {r : ChannelRecord} {current f n : Nat} {only spare : Bool}
    (h : (s.search r current only).1 = some (f, n, spare)) : s.evaluateFor r f false = .pass n := by
  cases first : (s.spareSearch r s.spares[r.fields.stage]).1 with
  | some e =>
    obtain ⟨g, m⟩ := e
    rw [State.search_spare first] at h
    cases h
    exact State.spareSearch_passes first
  | none =>
    rw [State.search_range first] at h
    split at h
    · cases h
    · obtain ⟨⟨g, m⟩, best, eq⟩ := Option.map_eq_some_iff.1 h
      cases eq
      exact State.bestOf_passes best

/-! ### Holds that gain and lose frequencies -/

theorem Hold.gainsPrimary_first {h k : Hold} {f : Nat} (free : h.frequencies = []) (new : k.frequencies = [(false, f)]) :
    h.gainsPrimary k f := ⟨[], new, by rw [free]⟩

theorem Hold.loses_only {h : Hold} {f : Nat} (held : h.frequencies = [(false, f)]) : h.loses .defined false f :=
  ⟨[], by rw [held], rfl⟩

theorem Hold.move_loses {h : Hold} {f g : Nat} (move : h.move = some (f, g)) :
    h.loses (.live f) true g ∧ h.loses (.live g) false f := by
  have frequencies : h.frequencies = [(false, f), (true, g)] := by
    cases h with
    | moving a b e =>
      cases move
      rfl
    | unresolved a b =>
      cases move
      rfl
    | defined => cases move
    | tentative a => cases move
    | placed a => cases move
    | live a => cases move
  refine ⟨⟨[(false, f)], ?_, rfl⟩, ⟨[(true, g)], ?_, rfl⟩⟩
  · rw [frequencies]
    exact List.Perm.swap _ _ _
  · rw [frequencies]

namespace State.Changes

/-! ### The orders on channels -/

/-- A channel record that takes the place of one of the same stage and bandwidth, or of one without a frequency. -/
theorem storeChannel {s : State} {c : Fin 256} {f : ChannelFields} {h : Hold}
    (same : ∀ q, s.channel c = some q → q.hold.frequencies = h.frequencies ∧
      (h.frequencies = [] ∨ (f.stage = q.fields.stage ∧ f.bandwidth = q.fields.bandwidth)))
    (new : s.channel c = none → h.frequencies = []) (keeps : s.keeps f h = true) :
    s.Changes (s.storeChannel c f h) := by
  have channel : ∀ d, (s.storeChannel c f h).channel d =
      if d = c then some { fields := f, hold := h, mark := (s.channel c).bind ChannelRecord.mark } else s.channel d :=
    fun d => s.plan.setChannel_get c d _
  have transmitters : (s.storeChannel c f h).plan.transmitters = s.plan.transmitters := by
    rw [Plan.transmitters_eq, Plan.transmitters_eq]
    refine congrArg (allChannels.flatMap ·) (funext fun d => ?_)
    rw [show (s.storeChannel c f h).plan.channels[d] = _ from channel d]
    split
    · next here =>
      subst here
      cases hq : s.channel d with
      | none =>
        rw [show s.plan.channels[d] = none from hq]
        show List.map _ h.frequencies = []
        rw [new hq]
        rfl
      | some q =>
        rw [show s.plan.channels[d] = some q from hq]
        obtain ⟨frequencies, alike⟩ := same q hq
        show List.map _ h.frequencies = List.map _ q.hold.frequencies
        rw [frequencies]
        rcases alike with none | ⟨stage, bandwidth⟩
        · rw [none]
          rfl
        · unfold ChannelRecord.halfWidth
          rw [← stage, ← bandwidth]
    · rfl
  refine ⟨fun held => ?_, fun sharp => State.sharp_of sharp rfl rfl transmitters,
    fun _ tight b => State.tightAt_of (tight b) rfl transmitters (.refl _)⟩
  refine State.heldOk_setChannel held rfl rfl fun r hr e he => ?_
  cases hr
  exact List.all_eq_true.1 keeps e he

theorem defined {s : State} (o : Handed) {c : Fin 256} {f : ChannelFields} {h : Hold}
    (stored : s.Changes (s.storeChannel c f h)) : s.Changes (s.defined o c f h) :=
  conclude (t := s.storeChannel c f h) stored _ _ _ _ _

theorem defineChannelOrder (o : Handed) (x : State) : x.Changes (defineChannelOrder o x) := by
  unfold Machine.defineChannelOrder
  split
  · next c f _ _ =>
    split
    · next vacant =>
      split
      · refine defined o (storeChannel (fun q hq => ?_) (fun _ => rfl) rfl)
        rw [vacant] at hq
        cases hq
      · exact refuse x o _
    · next r hr =>
      split
      · next free =>
        split
        · refine defined o (storeChannel (fun q hq => ?_) (fun _ => rfl) rfl)
          rw [hr] at hq
          cases hq
          exact ⟨by rw [free], .inl rfl⟩
        · exact refuse x o _
      · split
        · exact refuse x o _
        · next alike =>
          split
          · next keeps =>
            refine defined o (storeChannel (fun q hq => ?_) (fun none => ?_) keeps)
            · rw [hr] at hq
              cases hq
              exact ⟨rfl, .inr (by simpa using alike)⟩
            · rw [hr] at none
              cases none
          · exact refuse x o _
  · exact refuse x o _

/-- RETIRE CHANNEL on a channel that holds no frequency (R26). -/
theorem retired {s : State} {c : Fin 256} (free : s.hold c = some .defined) :
    s.Changes { s with plan := s.plan.setChannel c none } := by
  obtain ⟨q, hq, defined⟩ := State.hold_some free
  have transmitters : (s.plan.setChannel c none).transmitters = s.plan.transmitters := by
    rw [Plan.transmitters_eq, Plan.transmitters_eq]
    refine congrArg (allChannels.flatMap ·) (funext fun d => ?_)
    rw [s.plan.setChannel_get]
    split
    · next here =>
      subst here
      rw [show s.plan.channels[d] = some q from hq]
      show [] = transmittersOf d q
      unfold transmittersOf
      rw [defined]
      rfl
    · rfl
  exact ⟨fun held => State.heldOk_setChannel held rfl rfl nofun, fun sharp => State.sharp_of sharp rfl rfl transmitters,
    fun _ tight b => State.tightAt_of (tight b) rfl transmitters (.refl _)⟩

theorem retireChannelOrder (o : Handed) (x : State) : x.Changes (retireChannelOrder o x) := by
  unfold Machine.retireChannelOrder
  split
  · exact refuse x o _
  · split
    · exact refuse x o _
    · next free => exact (retired free).done o _ _
    · exact refuse x o _

/-- A channel's new hold on the frequency it holds. -/
theorem switched {s : State} {c : Fin 256} {h k : Hold} (hold : s.hold c = some h)
    (same : k.frequencies = h.frequencies) : s.Changes (s.setHold c k) := by
  refine setHold fun q hq => ?_
  unfold State.hold at hold
  rw [hq] at hold
  cases hold
  exact same

theorem markLiveOrder (o : Handed) (x : State) : x.Changes (markLiveOrder o x) := by
  unfold Machine.markLiveOrder
  split
  · exact refuse x o _
  · split
    · next hold =>
      refine done (switched hold ?_) o _ _
      rfl
    · exact (refl x).done o _ _
    · exact refuse x o _

theorem markIdleOrder (o : Handed) (x : State) : x.Changes (markIdleOrder o x) := by
  unfold Machine.markIdleOrder
  split
  · exact refuse x o _
  · split
    · next hold =>
      refine done (switched hold ?_) o _ _
      rfl
    · exact (refl x).done o _ _
    · exact refuse x o _

theorem releaseOrder (o : Handed) (x : State) : x.Changes (releaseOrder o x) := by
  unfold Machine.releaseOrder
  split
  · exact refuse x o _
  · split
    · exact refuse x o _
    · split
      · exact refuse x o _
      · next r hr =>
        split
        · next hold => exact (removeStep hr rfl (Hold.loses_only (by rw [hold]; rfl))).done o _ _
        · next hold => exact (removeStep hr rfl (Hold.loses_only (by rw [hold]; rfl))).done o _ _
        · exact (refl x).done o _ _
        · exact refuse x o _
        · exact refuse x o _
        · exact refuse x o _

theorem confirmMoveOrder (o : Handed) (x : State) : x.Changes (confirmMoveOrder o x) := by
  unfold Machine.confirmMoveOrder
  split
  · exact refuse x o _
  · split
    · exact refuse x o _
    · next r hr =>
      split
      · exact refuse x o _
      · next move => exact (removeStep hr rfl (Hold.move_loses move).1).done o _ _

theorem declineMoveOrder (o : Handed) (x : State) : x.Changes (declineMoveOrder o x) := by
  unfold Machine.declineMoveOrder
  split
  · exact refuse x o _
  · split
    · exact refuse x o _
    · next r hr =>
      split
      · exact refuse x o _
      · next move => exact (removeStep hr rfl (Hold.move_loses move).2).done o _ _

/-! ### PIN -/

/-- A DEFINED or PLACED channel gives up its frequency (R84, R95). -/
theorem vacate {s : State} {c : Fin 256} {r : ChannelRecord} (hr : s.channel c = some r)
    (hold : r.hold = .defined ∨ ∃ g, r.hold = .placed g) :
    s.Changes (s.vacate c r) ∧ (s.vacate c r).site = s.site ∧
      (s.vacate c r).channel c = some { r with hold := .defined } := by
  unfold State.vacate
  rcases hold with free | ⟨g, placed⟩
  · rw [free]
    refine ⟨refl s, rfl, hr.trans (congrArg some ?_)⟩
    rw [← free]
  · rw [placed]
    refine ⟨removeStep hr rfl (Hold.loses_only (by rw [placed]; rfl)), State.removeStep_site _ _ _ _ _ _, ?_⟩
    show (s.removeStep c r .defined false g).channel c = _
    rw [State.removeStep_channel, if_pos rfl, hr]
    rfl

/-- The channel is given a frequency that passes C1 in place of its old one. -/
theorem pinned {s : State} {c : Fin 256} {r : ChannelRecord} {f : Nat} (hr : s.channel c = some r)
    (hold : r.hold = .defined ∨ ∃ g, r.hold = .placed g)
    (pass : s.heldOk → s.check1 (s.site.channelCandidate r f) = true) : s.Changes (s.pinned c r f) := by
  obtain ⟨vacated, site, channel⟩ := vacate hr hold
  refine inStageOrder s (addPrimary vacated channel rfl (Hold.gainsPrimary_first rfl rfl) fun held => ?_)
  rw [State.check1_congr site, site]
  exact pass held

theorem pin {s : State} (o : Handed) {c : Fin 256} {r : ChannelRecord} (hr : s.channel c = some r)
    (hold : r.hold = .defined ∨ ∃ g, r.hold = .placed g) (f : Nat) (force strict : Bool) :
    s.Changes (s.pin o c r f force strict) := by
  unfold State.pin
  split
  · exact refuse s o _
  · next inRange =>
    have pass : s.check1 (s.site.channelCandidate r f) = true := by simpa using inRange
    unfold State.pinEnd
    split
    · exact (pinned hr hold fun _ => pass).done o _ _
    · split
      · exact (pinned hr hold fun _ => pass).done o _ _
      · split
        · next g primary =>
          refine (pinned hr hold fun held => held.step hr ?_).conclude _ _ _ _ _
          rcases hold with free | ⟨g', placed⟩
          · rw [free] at primary
            cases primary
          · rw [placed] at primary ⊢
            cases primary
            exact List.mem_singleton.2 rfl
        · exact (refl s).conclude _ _ _ _ _

theorem pinOrder (o : Handed) (x : State) : x.Changes (pinOrder o x) := by
  unfold Machine.pinOrder
  dsimp only
  split
  · exact refuse x o _
  · split
    · exact refuse x o _
    · split
      · exact refuse x o _
      · split
        · exact refuse x o _
        · next r hr =>
          split
          · next free => exact pin o hr (.inl free) _ _ _
          · next placed => exact pin o hr (.inr ⟨_, placed⟩) _ _ _
          · exact refuse x o _

end State.Changes
end Sys2Proof.Machine
end


section
/-! What the searches of REPLACE, the work on spares, CHECK LIST and the start of a REBUILD leave of the held frequencies, the
planes and the spares. -/

namespace Sys2Proof.Machine

theorem State.still_takeSpare (s : State) (b : Fin 8) (f : Nat) : s.Still (s.takeSpare b f) := by
  refine ⟨rfl, rfl, rfl, fun c => ?_⟩
  show ((s.spares.set b (s.spares[b].eraseP fun x => x.step = f))[c]).Sublist _
  rw [vector_set_get]
  split
  · next here =>
    rw [here]
    exact List.eraseP_sublist
  · exact .refl _

theorem State.still_flush (s : State) (mask : BitVec 8) : s.Still (s.flush mask) := by
  refine ⟨rfl, rfl, rfl, fun b => ?_⟩
  have list : (s.flush mask).spares[b] =
      if mask.getLsbD b && (s.site.stages[b]).isSome then [] else s.spares[b] := mapPlaces_get _ _ _
  rw [list]
  split
  · exact List.nil_sublist _
  · exact .refl _

namespace State.Changes

/-! ### REPLACE and the auto-move (R30, R96, R99) -/

/-- A DEFINED channel is given its frequency, or a LIVE one a second frequency. -/
theorem applyFound {b s : State} {c : Fin 256} {q r : ChannelRecord} {f : Nat} (h : b.Changes s)
    (hq : s.channel c = some q) (fields : r.fields = q.fields)
    (hold : (q.hold = .defined ∧ ∃ g, r.hold = .placed g) ∨ ∃ g, q.hold = .live g ∧ r.hold = .live g)
    (pass : s.check1 (s.site.channelCandidate r f) = true) (spare : Bool) : b.Changes (s.applyFound c r f spare) := by
  have candidate : s.site.channelCandidate r f = s.site.channelCandidate q f := by
    unfold Site.channelCandidate ChannelRecord.halfWidth
    rw [fields]
  rw [candidate] at pass
  have gains : ∀ t : State, q.hold.gainsPrimary (t.heldAfter r.hold f) f := fun t => by
    rcases hold with ⟨free, g, placed⟩ | ⟨g, live, live'⟩
    · rw [free, placed]
      exact Hold.gainsPrimary_first rfl rfl
    · rw [live, live']
      exact ⟨[(true, g)], rfl, rfl⟩
  unfold State.applyFound
  cases spare with
  | false => exact addPrimary h hq fields (gains s) fun _ => pass
  | true => exact addPrimary (h.trans (still (s.still_takeSpare r.fields.stage f))) hq fields (gains s) fun _ => pass

theorem replace {s : State} {c : Fin 256} {r : ChannelRecord} {g : Nat} (hr : s.channel c = some r)
    (hold : r.hold = .placed g ∨ r.hold = .live g) (only : Bool) : s.Changes (s.replace c r g only).1 := by
  rcases hold with placed | live
  · obtain ⟨vacated, site, channel⟩ := vacate hr (.inr ⟨g, placed⟩)
    unfold State.replace
    dsimp only
    split
    · next found =>
      refine inStageOrder s (applyFound (r := r) vacated channel rfl (.inl ⟨rfl, g, placed⟩) ?_ _)
      exact State.evaluateFor_check1 (State.search_passes found)
    · refine inStageOrder s ?_
      unfold State.restore
      rw [placed]
      refine addPrimary vacated channel rfl (Hold.gainsPrimary_first rfl rfl) fun held => ?_
      rw [State.check1_congr site, site]
      exact held.step hr (by rw [placed]; exact List.mem_singleton.2 rfl)
  · have vacated : s.vacate c r = s := by
      unfold State.vacate
      rw [live]
    unfold State.replace
    dsimp only
    rw [vacated]
    split
    · next found =>
      refine inStageOrder s (applyFound (refl s) hr rfl (.inr ⟨g, live, live⟩) ?_ _)
      exact State.evaluateFor_check1 (State.search_passes found)
    · refine inStageOrder s ?_
      unfold State.restore
      rw [live]
      exact refl s

theorem replaceOrder (o : Handed) (x : State) : x.Changes (replaceOrder o x) := by
  have finished : ∀ (y : State) c f found, x.Changes y → x.Changes (y.replaceEnd o c f found) :=
    fun y c f found h => by
      unfold State.replaceEnd
      dsimp only
      split
      · exact h.done o _ _
      · exact (h.draw 1).conclude _ _ _ _ _
  unfold Machine.replaceOrder
  dsimp only
  split
  · exact refuse x o _
  · split
    · exact refuse x o _
    · split
      · exact refuse x o _
      · split
        · exact refuse x o _
        · next r hr =>
          split
          · next placed => exact finished _ _ _ _ (replace hr (.inl placed) _)
          · next live => exact finished _ _ _ _ (replace hr (.inr live) _)
          · exact refuse x o _

theorem autoMove (x : State) (c : Fin 256) (f : Nat) : x.Changes (x.autoMove c f) := by
  unfold State.autoMove
  split
  · exact refl x
  · next r hr =>
    split
    · next live =>
      have hold : r.hold = .live f := by
        simp only [Bool.and_eq_true, decide_eq_true_eq] at live
        exact live.1
      exact (replace hr (.inr hold) false).mark _ _
    · exact refl x

/-! ### Spares -/

theorem release {s t : State} (h : s.Changes t) : s.Changes t.release := h.trans (still (.release t))

theorem inContext {s t : State} (h : s.Changes t) (k : RoutineContext) : s.Changes (t.inContext k) :=
  h.trans (still (.inContext t k))

theorem yieldWith {s t : State} (h : s.Changes t) (w : Work) : s.Changes (t.yieldWith w) := by
  obtain ⟨k, -, eq⟩ := t.yieldWith_inContext w
  rw [eq]
  exact h.inContext k

/-- A spare that passes joins a list (R90). -/
theorem addSpare {s : State} {b : Fin 8} {x : Spare}
    (pass : ∀ r, s.site.stages[b] = some r → s.sparePasses b r x.step = true) : s.Changes (s.addSpare b x) where
  held := fun held => State.heldOk_of held rfl rfl
  sharp := fun sharp => State.sharp_of sharp rfl rfl rfl
  tight := fun sharp tight c r hr y hy => by
    have hr' : s.site.stages[c] = some r := hr
    rw [State.addSpare_get] at hy
    rw [State.sparePasses_of_transmitters (s := s.blind) (t := (s.addSpare b x).blind) rfl rfl rfl]
    split at hy
    · next here =>
      subst here
      rcases mem_insertSpare x y _ hy with rfl | old
      · rw [← sharp.sparePasses]
        exact pass r hr'
      · exact tight c r hr' y old
    · exact tight c r hr' y hy

theorem upkeepUnit (s : State) (w : UpkeepWork) : s.Changes (s.upkeepUnit w).1 := by
  unfold State.upkeepUnit
  split
  · exact refl s
  · next r hr =>
    split
    · exact refl s
    · split
      · split
        · exact refl s
        · unfold State.fillOne
          dsimp only
          split
          · exact refl s
          · split
            · next score pass =>
              refine addSpare fun q hq => ?_
              rw [hr] at hq
              cases hq
              exact State.evaluateSpare_passes pass
            · exact refl s
      · exact refl s

theorem markShort {s t : State} (h : s.Changes t) (b : Fin 8) : s.Changes (t.markShort b) := by
  unfold State.markShort
  split
  · exact h
  · exact h.mark _ _

theorem upkeepStep (s : State) (w : UpkeepWork) : s.Changes (s.upkeepStep w) := by
  unfold State.upkeepStep
  dsimp only
  split
  · exact ((upkeepUnit s w).markShort _).release
  · exact (upkeepUnit s w).yieldWith _

theorem endRefill {s t : State} (h : s.Changes t) (w : RefillWork) : s.Changes (t.endRefill w) := by
  unfold State.endRefill
  dsimp only
  split
  · exact (h.draw 8).conclude _ _ _ _ _
  · exact (h.draw 8).conclude _ _ _ _ _

theorem refillOn {s t : State} (h : s.Changes t) (w : RefillWork) : s.Changes (t.refillOn w) := by
  unfold State.refillOn
  split
  · exact h.endRefill w
  · exact h.yieldWith _

theorem refillStep (s : State) (w : RefillWork) : s.Changes (s.refillStep w) := by
  unfold State.refillStep
  split
  · exact (refl s).endRefill w
  · next u _ =>
    dsimp only
    split
    · exact ((upkeepUnit s u).markShort _).refillOn _
    · exact (upkeepUnit s u).refillOn _

theorem startUpkeep (s : State) (b : Fin 8) : s.Changes (s.startUpkeep b) := by
  unfold State.startUpkeep
  split
  · exact (refl s).release
  · split
    · exact (refl s).release
    · exact (refl s).inContext (.running _)

theorem refillSparesOrder (o : Handed) (x : State) : x.Changes (refillSparesOrder o x) := by
  unfold Machine.refillSparesOrder
  dsimp only
  split
  · exact refuse x o _
  · exact inContext (still (.ite _ (x.still_flush _) (.refl x))) (.running _)

/-! ### CHECK LIST and REBUILD -/

theorem checkListOrder (o : Handed) (x : State) : x.Changes (checkListOrder o x) := by
  unfold Machine.checkListOrder
  dsimp only
  split
  · exact refuse x o _
  · exact (refl x).inContext (.running _)

theorem checkStep (s : State) (w : CheckWork) : s.Changes (s.checkStep w) := by
  unfold State.checkStep
  split
  · exact (refl s).conclude _ _ _ _ _
  · dsimp only
    split
    · exact (refl s).conclude _ _ _ _ _
    · exact (refl s).yieldWith _

theorem startRebuild (s : State) (o : Option Handed) : s.Changes (s.startRebuild o) := (startCensus s).yieldWith _

theorem takeRebuild (s : State) : s.Changes s.takeRebuild := by
  unfold State.takeRebuild
  split
  · exact (refl s).release
  · exact startRebuild s none

/-- Suspended work that resumes, or starts again (R46, R91, R137). -/
theorem resume (s : State) (w : Work) : s.Changes (s.resume w) := by
  cases w with
  | rebuild w =>
    simp only [State.resume]
    split
    · exact (refl s).inContext (.running _)
    · exact (startCensus s).inContext (.running _)
  | place w => exact (refl s).inContext (.running _)
  | check w => exact (refl s).inContext (.running _)
  | upkeep w => exact (refl s).inContext (.running _)
  | refill w => exact (refl s).inContext (.running _)
  | single => exact (refl s).inContext (.running _)

end State.Changes
end Sys2Proof.Machine
end


section
/-! What the orders that write the site model leave of the held frequencies, the planes and the spares (R5, R6, R11, R13,
R86). -/

namespace Sys2Proof.Machine

/-! ### Site models that judge alike -/

/-- Two site models with the same window, coupling and check parameters. -/
structure Site.Alike (s t : Site) : Prop where
  window : t.window = s.window
  iso : t.iso = s.iso
  tIm : t.params.tIm = s.params.tIm
  tSp : t.params.tSp = s.params.tSp
  margin : t.params.margin = s.params.margin
  guard3 : t.params.guard3 = s.params.guard3
  guard5 : t.params.guard5 = s.params.guard5
  imLevel : t.params.imLevel = s.params.imLevel

namespace Site.Alike

theorem of_eq {s t : Site} (window : t.window = s.window) (iso : t.iso = s.iso) (params : t.params = s.params) :
    s.Alike t := ⟨window, iso, by rw [params], by rw [params], by rw [params], by rw [params], by rw [params],
      by rw [params]⟩

variable {s t : Site} (h : s.Alike t)
include h

theorem nearIm (a b : Fin 8) : t.nearIm a b = s.nearIm a b := by
  unfold Site.nearIm Site.isolation
  rw [h.iso, h.tIm]

theorem nearSp (a b : Fin 8) : t.nearSp a b = s.nearSp a b := by
  unfold Site.nearSp Site.isolation
  rw [h.iso, h.tSp]

theorem relevant (b : Fin 8) (l : List Transmitter) : t.relevant b l = s.relevant b l := by
  unfold Site.relevant
  simp only [h.nearIm]

theorem third (b stage : Fin 8) (x : Nat) (l : List Transmitter) : t.third b stage x l = s.third b stage x l := by
  unfold Site.third
  rw [h.nearIm, h.relevant, h.imLevel]

theorem fifth (b stage : Fin 8) (x : Nat) (l : List Transmitter) : t.fifth b stage x l = s.fifth b stage x l := by
  unfold Site.fifth
  rw [h.nearIm, h.relevant, h.imLevel]

theorem thirdOf (b : Fin 8) (l m : List Transmitter) : t.thirdOf b l m = s.thirdOf b l m := by
  rw [t.thirdOf_eq, s.thirdOf_eq, h.relevant, h.relevant, h.imLevel]

theorem fifthOf (b : Fin 8) (l m : List Transmitter) : t.fifthOf b l m = s.fifthOf b l m := by
  rw [t.fifthOf_eq, s.fifthOf_eq, h.relevant, h.relevant, h.imLevel]

theorem fifthCounted : t.fifthCounted = s.fifthCounted := by
  unfold Site.fifthCounted
  rw [h.imLevel]

end Site.Alike

theorem State.exactFor_alike {s t : State} {l : List Transmitter} (h : s.site.Alike t.site) (census : t.census = s.census)
    (exact : s.exactFor l) : t.exactFor l := fun b n => by
  rw [census, h.window, h.thirdOf, h.fifthOf]
  exact exact b n

section
variable {s t : State} (h : s.site.Alike t.site)
include h

theorem State.check4_alike (c : Candidate) (set : List Transmitter) : t.check4 c set = s.check4 c set := by
  unfold State.check4 State.compared State.spacing
  simp only [h.nearSp, h.margin]

theorem State.check6_alike (c : Candidate) (set : List Transmitter) : t.check6 c set = s.check6 c set := by
  unfold State.check6
  simp only [h.third, h.fifth, h.window, h.guard3, h.guard5]

theorem State.blind_check5_alike (c : Candidate) (set : List Transmitter) :
    t.blind.check5 c set [] = s.blind.check5 c set [] := by
  have third : t.blind.count3 c.stage set [] = s.blind.count3 c.stage set [] := by
    show landing t.site.window (t.site.thirdOf c.stage set []) = landing s.site.window (s.site.thirdOf c.stage set [])
    rw [h.window, h.thirdOf]
  have fifth : t.blind.count5 c.stage set [] = s.blind.count5 c.stage set [] := by
    show landing t.site.window (t.site.fifthOf c.stage set []) = landing s.site.window (s.site.fifthOf c.stage set [])
    rw [h.window, h.fifthOf]
  have guard3 : t.blind.site.params.guard3 = s.blind.site.params.guard3 := h.guard3
  have guard5 : t.blind.site.params.guard5 = s.blind.site.params.guard5 := h.guard5
  have counted : t.blind.site.fifthCounted = s.blind.site.fifthCounted := h.fifthCounted
  unfold State.check5
  rw [third, fifth, guard3, guard5, counted]

/-- A spare that passes goes on passing where no exclusion is added that meets it. -/
theorem State.blind_passes_alike (held : t.plan.transmitters = s.plan.transmitters) {b : Fin 8} {r q : StageRecord}
    (bandwidth : q.bandwidth = r.bandwidth) {f : Nat} (clear : s.check2 (s.site.spareCandidate b r f) = true →
      t.check2 (s.site.spareCandidate b r f) = true)
    (pass : s.blind.sparePasses b r f = true) : t.blind.sparePasses b q f = true := by
  obtain ⟨two, four, five, six⟩ := (State.sparePasses_iff _ _ _ _).1 pass
  have alike : s.blind.site.Alike t.blind.site := h
  have reads : t.blind.sparePasses b q f = (t.check2 (s.site.spareCandidate b { r with bandwidth := q.bandwidth } f) &&
      t.check4 (s.site.spareCandidate b { r with bandwidth := q.bandwidth } f) t.plan.transmitters &&
      t.blind.check5 (s.site.spareCandidate b { r with bandwidth := q.bandwidth } f) t.plan.transmitters [] &&
      t.check6 (s.site.spareCandidate b { r with bandwidth := q.bandwidth } f) t.plan.transmitters) := rfl
  rw [reads, bandwidth, held, show ({ r with bandwidth := r.bandwidth } : StageRecord) = r from rfl, clear two,
    State.check4_alike h, State.blind_check5_alike h, State.check6_alike h]
  simp only [Bool.true_and, Bool.and_eq_true]
  exact ⟨⟨four, five⟩, six⟩

/-- The planes of a state whose site model judges alike. -/
theorem State.sharp_alike (census : t.census = s.census) (held : t.plan.transmitters = s.plan.transmitters)
    (sharp : s.sharp) : t.sharp := by
  obtain ⟨planes, exact⟩ := sharp
  refine ⟨by rw [census]; exact planes, fun valid => ?_⟩
  rw [held]
  rw [census] at valid
  exact State.exactFor_alike h census (exact valid)

end

/-- The held frequencies read the window alone of the site model (R20). -/
theorem State.heldOk_of_window {s t : State} (held : s.heldOk) (window : t.site.window = s.site.window)
    (channels : t.plan.channels = s.plan.channels) : t.heldOk := by
  intro c r hr f hf
  have channel : t.channel c = s.channel c := (congrArg (fun v : Vector (Option ChannelRecord) 256 => v[c]) channels :)
  rw [channel] at hr
  have pass := held c r hr f hf
  have candidate : t.site.channelCandidate r f.2 = s.site.channelCandidate r f.2 := by
    unfold Site.channelCandidate
    rw [window]
  unfold State.check1 at pass ⊢
  rw [candidate, window]
  exact pass

theorem State.heldOk_of_empty {s : State} (h : s.plan.held = false) : s.heldOk := by
  have none : s.plan.transmitters = [] := by
    unfold Plan.held at h
    simpa using h
  intro c r hr f hf
  have mem : r.transmitter c f.1 f.2 ∈ s.plan.transmitters :=
    Plan.mem_transmitters.2 ⟨c, r, hr, List.mem_map_of_mem hf⟩
  rw [none] at mem
  cases mem

/-- Without a held frequency a VALID census has empty planes, whatever the site model (R40). -/
theorem State.sharp_empty {s t : State} (h : s.plan.held = false) (sharp : s.sharp) (census : t.census = s.census)
    (held : t.plan.transmitters = s.plan.transmitters) : t.sharp := by
  have none : s.plan.transmitters = [] := by
    unfold Plan.held at h
    simpa using h
  obtain ⟨planes, exact⟩ := sharp
  refine ⟨by rw [census]; exact planes, fun valid => ?_⟩
  rw [held, none]
  rw [census] at valid
  have empty := exact valid
  rw [none] at empty
  exact State.exactFor_nil fun i => by
    rw [census]
    exact empty.empty i

theorem State.still_recheck (s : State) (l : List (Fin 8)) : s.Still (s.recheck l) :=
  ⟨rfl, rfl, rfl, s.thins_recheck l⟩

theorem State.still_timeoutLowered (s : State) : s.Still s.timeoutLowered :=
  (State.Still.refl s).fold _ (fun t z => .ite _ (.goStale (.refl t) z) (.refl t)) _

theorem State.still_queueRebuild (s : State) : s.Still s.queueRebuild := by
  unfold State.queueRebuild
  split
  · exact .refl s
  · exact .of_eq rfl rfl rfl rfl

namespace State.Changes

/-! ### SET PARAMETERS and SET COUPLING -/

theorem ite {s t u : State} (p : Prop) [Decidable p] (ht : s.Changes t) (hu : s.Changes u) :
    s.Changes (if p then t else u) := by
  split
  · exact ht
  · exact hu

/-- A change of the coupling or of a check parameter, the values stored already (R6, R13). -/
theorem remodelled {s : State} {x : Site} (window : x.window = s.site.window) :
    s.Changes (State.modelChanged { s with site := x }) := by
  unfold State.modelChanged
  cases held : s.plan.held with
  | true =>
    rw [if_pos rfl]
    have ready : s.sharp → State.sharp (State.queueRebuild (State.stale { s with site := x } .model)) := fun sharp => by
      have stale := State.sharp_of_state (s := State.stale { s with site := x } .model) sharp.1 nofun
      exact (still (State.still_queueRebuild _)).sharp stale
    have queued := State.still_queueRebuild (State.stale { s with site := x } .model)
    refine ⟨fun old => ?_, fun sharp => (still (State.still_recheck _ _)).sharp (ready sharp), fun sharp _ => ?_⟩
    · have moved : State.heldOk (State.stale { s with site := x } .model) := State.heldOk_of_window old window rfl
      exact (still (queued.trans (State.still_recheck _ _))).held moved
    · exact State.recheck_tight (ready sharp) fun b out => absurd (List.mem_finRange b) out
  | false =>
    rw [if_neg nofun]
    have ready : s.sharp → State.sharp { s with site := x } := fun sharp => State.sharp_empty held sharp rfl rfl
    refine ⟨fun _ => State.heldOk_of_empty held, fun sharp => (still (State.still_recheck _ _)).sharp (ready sharp),
      fun sharp _ => ?_⟩
    exact State.recheck_tight (ready sharp) fun b out => absurd (List.mem_finRange b) out

/-- A change of the window, stored already, without a held frequency (R5). -/
theorem windowChanged {s : State} {x : Site} (free : s.plan.held = false) :
    s.Changes (State.windowChanged { s with site := x }) := by
  have none : s.plan.transmitters = [] := by
    unfold Plan.held at free
    simpa using free
  refine ⟨fun _ => State.heldOk_of_empty free, fun _ => ⟨Census.planesOk_empty rfl rfl, fun _ => ?_⟩,
    fun _ _ => State.tight_nil rfl⟩
  show (State.windowChanged { s with site := x }).exactFor s.plan.transmitters
  rw [none]
  exact State.exactFor_nil (Census.count_cleared rfl rfl)

/-- New values for parameters that are no check parameters. -/
theorem adjusted {s : State} {x : Site} (alike : s.site.Alike x) (exclusions : x.exclusions = s.site.exclusions)
    (stages : x.stages = s.site.stages) : s.Changes { s with site := x } where
  held := fun held => State.heldOk_of_window held alike.window rfl
  sharp := fun sharp => State.sharp_alike (t := { s with site := x }) alike rfl rfl sharp
  tight := fun _ tight b r hr y hy => by
    have hr' : s.site.stages[b] = some r := by
      rw [← stages]
      exact hr
    refine State.blind_passes_alike (t := { s with site := x }) alike rfl rfl (fun clear => ?_) (tight b r hr' y hy)
    unfold State.check2 at clear ⊢
    rw [show (State.site { s with site := x }).exclusions = s.site.exclusions from exclusions,
      show (State.site { s with site := x }).window = s.site.window from alike.window]
    exact clear

theorem storeParameters {s : State} {w : Window} {p : Params} (free : s.site.window ≠ w → s.plan.held = false) :
    s.Changes (s.storeParameters w p) := by
  have changed : s.Changes (if s.site.params.checkChange p = true then
      (if s.site.window ≠ w then State.windowChanged { s with site := s.site.store w p }
        else { s with site := s.site.store w p }).modelChanged
      else (if s.site.window ≠ w then State.windowChanged { s with site := s.site.store w p }
        else { s with site := s.site.store w p })) := by
    by_cases moved : s.site.window ≠ w
    · rw [if_pos moved]
      have stored : s.Changes (State.windowChanged { s with site := s.site.store w p }) := windowChanged (free moved)
      split
      · refine stored.trans (still ?_)
        unfold State.modelChanged
        refine State.Still.trans ?_ (State.still_recheck _ _)
        rw [if_neg (by rw [show (State.windowChanged { s with site := s.site.store w p }).plan.held = false from
          free moved]; exact nofun)]
        exact .refl _
      · exact stored
    · rw [if_neg moved]
      have same : w = s.site.window := (not_not.1 moved).symm
      split
      · exact remodelled same
      · next unchanged =>
        simp only [Params.checkChange, decide_eq_true_eq, not_or, not_not] at unchanged
        obtain ⟨tIm, tSp, margin, guard3, guard5, imLevel⟩ := unchanged
        exact adjusted ⟨same, rfl, tIm.symm, tSp.symm, margin.symm, guard3.symm, guard5.symm, imLevel.symm⟩ rfl rfl
  have attempted := changed.trans (still (State.Still.ite (s.site.params.reserve ≠ p.reserve) (.attempt _) (.refl _)))
  exact attempted.trans (still (State.Still.ite (p.linkTimeout < s.site.params.linkTimeout)
    (State.still_timeoutLowered _) (.refl _)))

theorem setParametersOrder (o : Handed) (x : State) : x.Changes (setParametersOrder o x) := by
  unfold Machine.setParametersOrder
  dsimp only
  split
  · exact refuse x o _
  · split
    · exact refuse x o _
    · split
      · exact refuse x o _
      · next fits =>
        refine (storeParameters fun moved => ?_).done o _ _
        simpa [moved] using fits

theorem setCouplingOrder (o : Handed) (x : State) : x.Changes (setCouplingOrder o x) := by
  unfold Machine.setCouplingOrder
  dsimp only
  split
  · exact refuse x o _
  · split
    · exact refuse x o _
    · next entries _ =>
      split
      · exact (refl x).done o _ _
      · refine (remodelled ?_).done o _ _
        rw [Site.couple_fields]
        rfl

/-! ### DEFINE STAGE -/

theorem storeStage (s : State) (b : Fin 8) (r : StageRecord) : s.Changes (s.storeStage b r) := by
  have site := s.storeStage_site b r
  have plan : (s.storeStage b r).plan = s.plan := by
    unfold State.storeStage
    dsimp only
    split <;> rfl
  have census : (s.storeStage b r).census = s.census := by
    unfold State.storeStage
    dsimp only
    split <;> rfl
  have alike : s.site.Alike (s.storeStage b r).site := by
    rw [site]
    exact .of_eq rfl rfl rfl
  have held : (s.storeStage b r).plan.transmitters = s.plan.transmitters := congrArg Plan.transmitters plan
  refine ⟨fun old => State.heldOk_of_window old alike.window (congrArg Plan.channels plan),
    fun sharp => State.sharp_alike alike census held sharp, fun _ tight c q hq y hy => ?_⟩
  have clear : ∀ k : Candidate, s.check2 k = true → (s.storeStage b r).check2 k = true := fun k pass => by
    unfold State.check2 at pass ⊢
    rw [site]
    exact pass
  have old := (s.storeStage_sublist b r c).subset hy
  have stage : (s.storeStage b r).site.stages[c] = if c = b then some r else s.site.stages[c] := by
    rw [site]
    exact vector_set_get _ b c _
  rw [stage] at hq
  by_cases here : c = b
  · subst here
    rw [if_pos rfl] at hq
    cases hq
    rcases s.storeStage_kept c r with none | ⟨before, defined, profile⟩
    · rw [none] at hy
      cases hy
    · exact State.blind_passes_alike alike held profile.symm (clear _) (tight c before defined y old)
  · rw [if_neg here] at hq
    exact State.blind_passes_alike alike held rfl (clear _) (tight c q hq y old)

theorem defineStageOrder (o : Handed) (x : State) : x.Changes (defineStageOrder o x) := by
  unfold Machine.defineStageOrder
  dsimp only
  split
  · split
    · exact (refl x).done o _ _
    · exact (storeStage x _ _).done o _ _
  · exact refuse x o _

/-! ### ADD EXCLUSION and DROP EXCLUSION -/

/-- A new exclusion list, the stages that a spare may fail it for rechecked. -/
theorem excluded {s t : State} {l : List Exclusion} {mask : BitVec 8}
    (site : t.site = { s.site with exclusions := l }.bump) (plan : t.plan = s.plan) (census : t.census = s.census)
    (spares : t.spares = s.spares)
    (clear : ∀ b, mask.getLsbD b = false → ∀ e ∈ l, e ∈ s.site.exclusions ∨ e.mask.getLsbD b = false) :
    s.Changes (t.recheck (stagesOf mask)) := by
  have alike : s.site.Alike t.site := by
    rw [site]
    exact .of_eq rfl rfl rfl
  have held : t.plan.transmitters = s.plan.transmitters := congrArg Plan.transmitters plan
  have sharp : s.sharp → t.sharp := State.sharp_alike alike census held
  refine ⟨fun old => State.heldOk_of_window old alike.window (congrArg Plan.channels plan),
    fun old => (still (State.still_recheck t _)).sharp (sharp old), fun old tight => ?_⟩
  refine State.recheck_tight (sharp old) fun b out r hr y hy => ?_
  have apart : mask.getLsbD b = false := by
    rw [mem_stagesOf] at out
    exact Bool.eq_false_iff.2 out
  rw [site] at hr
  rw [spares] at hy
  refine State.blind_passes_alike alike held rfl (fun pass => ?_) (tight b r hr y hy)
  unfold State.check2 at pass ⊢
  rw [site]
  refine List.all_eq_true.2 fun e he => ?_
  rcases clear b apart e he with kept | other
  · exact List.all_eq_true.1 pass e kept
  · have stage : (s.site.spareCandidate b r y.step).stage = b := rfl
    rw [stage, other]
    rfl

theorem addExclusionOrder (o : Handed) (x : State) : x.Changes (addExclusionOrder o x) := by
  unfold Machine.addExclusionOrder
  split
  · exact refuse x o _
  · next e _ =>
    split
    · exact refuse x o _
    · split
      · exact refuse x o _
      · split
        · exact refuse x o _
        · have marks : (x.excluding e).Still (x.conflictMarked e) :=
            (State.Still.refl _).fold _ (fun t c => .mark t _ _) _
          obtain ⟨p, r, rest⟩ := (x.conflictMarked_emits e).rest
          refine (excluded (t := x.conflictMarked e) marks.site marks.plan marks.census
            (congrArg State.spares rest :) fun b apart y hy => ?_).done o _ _
          rcases List.mem_cons.1 ((insertExclusion_perm e _).mem_iff.1 hy) with rfl | old
          · exact .inr apart
          · exact .inl old

theorem dropExclusionOrder (o : Handed) (x : State) : x.Changes (dropExclusionOrder o x) := by
  unfold Machine.dropExclusionOrder
  split
  · exact refuse x o _
  · split
    · exact refuse x o _
    · next e _ =>
      split
      · exact (excluded (t := x.including e) rfl rfl rfl rfl fun b _ y hy => .inl (List.mem_of_mem_erase hy)).done o _ _
      · exact refuse x o _

end State.Changes
end Sys2Proof.Machine
end


section
/-! What the steps of a PLACE, its commit and its rollback leave of the held frequencies, the planes and the spares (R72 to
R78). -/

namespace Sys2Proof.Machine
namespace State.Changes

/-! ### Marks -/

theorem clearMarks (s : State) : s.Changes s.clearMarks :=
  emits rfl rfl (State.thins_of_eq rfl) fun c => by
    rw [show s.clearMarks.channel c = _ from s.plan.clearMarks_get c, Option.map_map]
    rfl

theorem setMarks (s : State) (head : Nat) (items : List PlaceItem) :
    s.Changes { s with plan := s.plan.setMarks head items } :=
  emits rfl rfl (State.thins_of_eq rfl) fun c => by
    rw [show State.channel { s with plan := s.plan.setMarks head items } c = _ from s.plan.setMarks_get head items c]
    split
    · rw [Option.map_map]
      rfl
    · rfl

/-! ### Tentatives -/

/-- The removal of a tentative that stands. -/
theorem clearTentative {s : State} {e : StackEntry} (hold : s.hold e.item.channel = some e.seat.hold) :
    s.Changes (s.clearTentative e) := by
  cases chosen : e.chosen with
  | none =>
    rw [State.clearTentative_none chosen]
    exact refl s
  | some f =>
    obtain ⟨r, hr, own⟩ := State.hold_some hold
    have tentative : r.hold = .tentative f := by
      rw [own]
      unfold StackEntry.seat Seat.hold
      rw [chosen]
      rfl
    rw [State.clearTentative_some hr chosen]
    exact removeStep hr rfl (Hold.loses_only (by rw [tentative]; rfl))

theorem clearTentatives {s : State} (l : List StackEntry) {m : List Seat}
    (h : s.seated (l.map StackEntry.seat ++ m)) : s.Changes (l.foldl State.clearTentative s) := by
  induction l generalizing s m with
  | nil => exact refl s
  | cons e t ih =>
    have top := h.2 e.seat (List.mem_append_left _ List.mem_cons_self)
    have next := State.clearTentative_seated (l := t.map StackEntry.seat ++ m) h
    exact (clearTentative top.2).trans (ih (next.perm List.perm_middle.symm))

/-- A search that is rolled back (R78). -/
theorem rollback {s : State} {w : PlaceWork} (h : s.seated w.seats) : s.Changes (s.rollback w) :=
  (inStageOrder s (clearTentatives w.stack h)).trans (clearMarks _)

/-- A search that commits (R77). -/
theorem commit {s : State} {w : PlaceWork} (h : s.seated w.seats) : s.Changes (s.commit w) := by
  obtain ⟨once, holds⟩ := h
  have nodup : (w.stack.map fun e => e.item.channel).Nodup := by
    rw [PlaceWork.seats_channels] at once
    exact once.of_append_left
  refine emits rfl rfl (State.thins_of_eq rfl) fun c => ?_
  rw [s.commit_channel w nodup, Option.map_map]
  cases hr : s.channel c with
  | none => rfl
  | some r =>
    cases chosen : chosenFor w.stack c with
    | none => rfl
    | some f =>
      obtain ⟨e, found, final⟩ := Option.bind_eq_some_iff.1 chosen
      have matched := List.find?_some found
      obtain ⟨here, -⟩ := of_decide_eq_true matched
      have seat : e.seat ∈ w.seats := List.mem_append_left _ (List.mem_map_of_mem (List.mem_of_find?_eq_some found))
      obtain ⟨-, hold⟩ := holds e.seat seat
      have own : s.hold c = some (.tentative f) := by
        rw [← here]
        refine hold.trans ?_
        unfold StackEntry.seat Seat.hold
        rw [final]
        rfl
      rw [State.hold_eq hr] at own
      have tentative : r.hold = .tentative f := Option.some.inj own
      refine congrArg some (congrArg (Prod.mk r.fields) ?_)
      rw [tentative]
      rfl

theorem backtracked {s : State} {w : PlaceWork} (item : PlaceItem) (l : List StackEntry)
    (h : s.seated (item.seat :: l.map StackEntry.seat ++ w.rest.map PlaceItem.seat)) :
    s.Changes (backtrack item l (s, w)).1 := by
  induction l generalizing item s w with
  | nil => exact refl s
  | cons e below ih =>
    have ahead : s.seated (e.seat :: (below.map StackEntry.seat ++ item.seat :: w.rest.map PlaceItem.seat)) :=
      h.perm (List.perm_middle (l₁ := e.seat :: below.map StackEntry.seat)).symm
    have cleared := State.clearTentative_seated ahead
    have first := clearTentative (ahead.2 e.seat List.mem_cons_self).2
    unfold backtrack
    dsimp only
    split
    · exact first.trans (ih e.item (w := { w with stack := e.advance :: below, rest := item :: w.rest }) cleared)
    · exact first

/-! ### The steps of a PLACE -/

theorem endPlace {s t : State} (h : s.Changes t) (v : PlaceWork) (committed : Bool) (outcome : OrderOutcome)
    (reason : Reason) (n : Nat) : s.Changes (t.endPlace v committed outcome reason n) := h.conclude _ _ _ _ _

theorem bestEffortEnd {s t : State} (h : s.Changes t) {v : PlaceWork} (seated : t.seated v.seats) :
    s.Changes (t.bestEffortEnd v) := by
  have committed := h.trans (commit seated)
  unfold State.bestEffortEnd
  dsimp only
  split
  · exact committed.endPlace _ _ _ _ _
  · split
    · exact committed.endPlace _ _ _ _ _
    · exact committed.endPlace _ _ _ _ _

theorem afterEvaluation {s t : State} (h : s.Changes t) {v : PlaceWork} (seated : t.seated v.seats) :
    s.Changes (t.afterEvaluation v) := by
  unfold State.afterEvaluation
  split
  · exact h.yieldWith _
  · split
    · exact h.bestEffortEnd seated
    · split
      · exact (h.trans (clearMarks t)).endPlace _ _ _ _ _
      · exact (h.trans (commit seated)).endPlace _ _ _ _ _

variable {s : State} {w : PlaceWork} {e : StackEntry}

theorem placeFail (h : s.seated w.seats) (top : w.top = some e) : s.Changes (s.placeFail w e) := by
  have advanced := PlaceWork.advanced_seats top
  unfold State.placeFail
  dsimp only
  split
  · exact (refl s).afterEvaluation (by rw [advanced]; exact h)
  · split
    · exact (refl s).afterEvaluation (h.subperm ((PlaceWork.passOver_seats _).trans (by rw [advanced])))
    · have seats : w.seats = e.item.seat :: w.stack.tail.map StackEntry.seat ++ w.rest.map PlaceItem.seat := by
        rw [← advanced]
        rfl
      rw [seats] at h
      have back := backtrack_seated (w := { w with stack := e.advance :: w.stack.tail }) e.item w.stack.tail h
      exact (inStageOrder s (backtracked (w := { w with stack := e.advance :: w.stack.tail }) e.item _ h)).afterEvaluation
        (back.respects (.of_plan rfl))

theorem placeTop (h : s.seated w.seats) (top : w.top = some e) {r : ChannelRecord}
    (hr : s.channel e.item.channel = some r) {f : Nat} (pass : s.check1 (s.site.channelCandidate r f) = true) :
    s.Changes (s.placeTop w e r f) := by
  have seats : w.seats = (e.item.channel, none) :: (w.stack.tail.map StackEntry.seat ++ w.rest.map PlaceItem.seat) := by
    rw [← PlaceWork.advanced_seats top]
    rfl
  rw [seats] at h
  obtain ⟨-, hold⟩ := h.2 (e.item.channel, none) List.mem_cons_self
  have free : r.hold = .defined := by
    rw [State.hold_eq hr] at hold
    exact Option.some.inj hold
  have placed : s.Changes (s.addPrimary e.item.channel r (.tentative f) f) :=
    addPrimary (refl s) hr rfl (Hold.gainsPrimary_first (by rw [free]; rfl) rfl) fun _ => pass
  exact placed.afterEvaluation ((h.setHold (y := some f) (State.addPrimary_channels s _ r (.tentative f) f)).subperm
    (PlaceWork.push_seats _ _))

theorem placeStep (h : s.seated w.seats) : s.Changes (s.placeStep w) := by
  have passed := h.subperm w.passOver_seats
  unfold State.placeStep
  dsimp only
  split
  · exact (refl s).afterEvaluation passed
  · next e top =>
    split
    · unfold State.budgetEnd
      split
      · refine (refl s).bestEffortEnd (passed.subperm ?_)
        show (List.map StackEntry.seat w.passOver.stack.tail ++ []).Subperm _
        rw [List.append_nil]
        exact (((List.tail_sublist _).map _).trans (List.sublist_append_left _ _)).subperm
      · exact (rollback passed).endPlace _ _ _ _ _
    · unfold State.placeEvaluate
      dsimp only
      split
      · exact placeFail (w := { w.passOver with used := w.passOver.used + 1 }) passed top
      · next r hr =>
        split
        · next pass =>
          exact placeTop (w := { w.passOver with used := w.passOver.used + 1 }) passed top hr
            (State.evaluateFor_check1 pass)
        · exact placeFail (w := { w.passOver with used := w.passOver.used + 1 }) passed top

/-! ### Take-up and CANCEL -/

theorem placeOrder (o : Handed) (x : State) : x.Changes (placeOrder o x) := by
  have starts : ∀ (w : PlaceWork) (items : List PlaceItem), x.Changes (x.startPlace w items) := fun w items =>
    (setMarks x w.order.head items).inContext (.running _)
  unfold Machine.placeOrder
  dsimp only
  split
  · exact refuse x o _
  · split
    · exact ((refl x).draw 1).conclude _ _ _ _ _
    · split
      · split
        · exact starts _ _
        · exact (refl x).endPlace _ _ _ _ _
      · exact starts _ _

theorem close {s t : State} (h : s.Changes t) (o : Handed) (x : OrderOutcome) (r : Reason) (a : Word)
    (l : List (List Byte)) : s.Changes (t.close o x r a l) := h.trans (still (.close t o x r a l))

/-- Suspended work that a CANCEL stops. -/
theorem cancelWork {s : State} {w : Work} (seated : ∀ v, w = .place v → s.seated v.seats) :
    s.Changes (s.cancelWork w) := by
  cases w with
  | place v => exact (rollback (seated v rfl)).close _ _ _ _ _
  | check v => exact (refl s).close _ _ _ _ _
  | rebuild v =>
    simp only [State.cancelWork]
    split
    · exact (stale s _).close _ _ _ _ _
    · exact refl s
  | refill v => exact ((refl s).draw 8).close _ _ _ _ _
  | upkeep v => exact refl s
  | single => exact refl s

theorem cancelTarget {x t : State} {n : Nat} (search : x.searchOk) (h : x.cancelTarget n = some t) : x.Changes t := by
  unfold State.cancelTarget at h
  split at h
  · cases h
    refine close (trans (refl x) (still ?_)) _ _ _ _ _
    exact .of_eq rfl rfl rfl rfl
  · next w suspended =>
    cases h
    obtain ⟨context, -⟩ := State.suspendedWork_context suspended
    refine (cancelWork fun v is => State.searchOk_iff.1 search v ?_).trans (still (.inContext _ .idle))
    rw [context, is]
    rfl
  · next z w _ _ _ =>
    cases h
    exact still (.endProbe x _ _ _ _ _)
  · cases h

theorem cancelOrder (o : Handed) {x : State} (search : x.searchOk) : x.Changes (cancelOrder o x) := by
  unfold Machine.cancelOrder
  dsimp only
  split
  · exact refuse x o _
  · split
    · next t target => exact (cancelTarget search target).done o _ _
    · exact refuse x o _

end State.Changes

/-- The procedure of every order. -/
theorem State.changes_procedure (code : OrderCode) (o : Handed) {x : State} (search : x.searchOk) :
    x.Changes (code.procedure o x) := by
  cases code with
  | setParameters => exact .setParametersOrder o x
  | defineStage => exact .defineStageOrder o x
  | setCoupling => exact .setCouplingOrder o x
  | addExclusion => exact .addExclusionOrder o x
  | dropExclusion => exact .dropExclusionOrder o x
  | defineChannel => exact .defineChannelOrder o x
  | retireChannel => exact .retireChannelOrder o x
  | markLive => exact .markLiveOrder o x
  | markIdle => exact .markIdleOrder o x
  | release => exact .releaseOrder o x
  | readChannels => exact .still (.readChannelsOrder o x)
  | rebuildCensus => exact .startRebuild x (some o)
  | readCensus => exact .still (.readCensusOrder o x)
  | checkList => exact .checkListOrder o x
  | place => exact .placeOrder o x
  | pin => exact .pinOrder o x
  | replace => exact .replaceOrder o x
  | confirmMove => exact .confirmMoveOrder o x
  | declineMove => exact .declineMoveOrder o x
  | refillSpares => exact .refillSparesOrder o x
  | readSpares => exact .still (.readSparesOrder o x)
  | setZone => exact .still (.setZoneOrder o x)
  | probe => exact .still (.probeOrder o x)
  | readSpectrum => exact .still (.readSpectrumOrder o x)
  | readLinks => exact .still (.readLinksOrder o x)
  | armWatch => exact .still (.armWatchOrder o x)
  | forceHit => exact .still (.forceHitOrder o x)
  | readWatch => exact .still (.readWatchOrder o x)
  | cancel => exact .cancelOrder o search

end Sys2Proof.Machine
end


section
/-! What the events leave of the held frequencies, the planes and the spares; every held frequency goes on passing C1 (R20). -/

namespace Sys2Proof.Machine

/-! ### Take-ups and steps -/

theorem State.begin_searchOk {s : State} (k : s.searchOk) (u : Bool) (o : Handed) : (s.begin u o).searchOk := by
  cases u with
  | true => exact State.Still.searchOk (s := s) (.begin s true o) rfl k
  | false => exact State.searchOk_of_work fun w is => Work.noConfusion (Option.some.inj is)

theorem State.changes_taken {s : State} {g : Grant} (search : s.searchOk) : s.Changes (s.taken g) := by
  have entry : ∀ (u : Bool) (e : Entry), s.Changes (s.takeEntry u e) := fun u e => by
    cases e with
    | order o => exact (State.Changes.still (.begin s u o)).trans (State.changes_procedure o.code o (State.begin_searchOk search u o))
    | autoMove c f => exact ((State.Changes.still (.beginEntry s u)).trans (.autoMove _ c f)).release
    | rebuild => exact (State.Changes.still (.beginEntry s u)).trans (.takeRebuild _)
    | upkeep b => exact (State.Changes.still (.beginEntry s u)).trans (.startUpkeep _ b)
  cases g with
  | takeUrgent e => exact entry true e
  | takeRoutine e => exact entry false e
  | resume w => exact .resume s w

/-- A step of work other than a REBUILD. -/
theorem State.changes_workStep {s : State} {w : Work} (search : s.searchOk) (running : s.running = some w)
    (other : w.kind ≠ some .rebuildCensus) : s.Changes (s.workStep w) := by
  cases w with
  | rebuild v => exact absurd rfl other
  | place v =>
    refine .placeStep (State.searchOk_iff.1 search v ?_)
    rw [State.running_work running]
    rfl
  | check v => exact .checkStep s v
  | upkeep v => exact .upkeepStep s v
  | refill v => exact .refillStep s v
  | single => exact .refl s

theorem State.Still.recounted {s t : State} (site : t.site = s.site) (plan : t.plan = s.plan) (spares : s.Thins t) :
    State.Still { s with census := t.census } t := ⟨site, plan, rfl, spares⟩

theorem State.endRebuild_still (x : State) (v : RebuildWork) (outcome : OrderOutcome) (reason : Reason) :
    x.Still (x.endRebuild v outcome reason) := by
  unfold State.endRebuild
  split
  · exact (State.Still.refl x).conclude _ _ _ _ _
  · exact .release x

theorem State.rebuildJudge_keeps (s : State) (w : RebuildWork) (x : Transmitter) :
    s.Still (s.rebuildJudge w x).1 ∧ (s.rebuildJudge w x).1.engine = s.engine ∧
      (s.rebuildJudge w x).2.phase = w.phase := by
  unfold State.rebuildJudge
  split
  · exact ⟨.refl s, rfl, rfl⟩
  · exact ⟨.mark s _ _, State.mark_engine _ _ _ _, rfl⟩

/-- A step of a REBUILD changes the census alone of what the plan, the site model and the spares hold. -/
theorem State.rebuildStep_still (s : State) (w : RebuildWork) :
    ∃ d : Census, State.Still { s with census := d } (s.rebuildStep w) := by
  have yields : ∀ (x : State) (v : Work), x.Still (x.yieldWith v) := fun x v => .of_eq rfl rfl rfl rfl
  unfold State.rebuildStep
  split
  · exact ⟨_, State.endRebuild_still _ w .done .none⟩
  · next x _ =>
    split
    · unfold State.rebuildAdd
      dsimp only
      split
      · refine ⟨_, (State.Still.recounted ?_ ?_ ?_).trans (State.endRebuild_still _ w .failed .saturated)⟩
        · rfl
        · rfl
        · exact State.thins_of_eq rfl
      · exact ⟨_, yields _ _⟩
    · obtain ⟨still, -, -⟩ := s.rebuildJudge_keeps w x
      unfold State.rebuildSweep
      dsimp only
      split
      · exact ⟨s.census, still.trans (yields _ _)⟩
      · refine ⟨_, (State.Still.recounted ?_ ?_ ?_).trans (State.endRebuild_still _ (s.rebuildJudge w x).2 .done .none)⟩
        · exact still.site
        · exact still.plan
        · exact still.spares

/-! ### Events -/

/-- A state without a channel and without a spare, with empty planes. -/
theorem State.blank {t : State} (channels : ∀ c, t.channel c = none) (h3 : t.census.plane3 = Vector.replicate 8 [])
    (h5 : t.census.plane5 = Vector.replicate 8 []) (spares : t.spares = Vector.replicate 8 []) :
    t.heldOk ∧ t.sharp ∧ t.tight := by
  have none : t.plan.transmitters = [] := by
    rw [Plan.transmitters_eq]
    exact List.flatMap_eq_nil_iff.2 fun c _ => by rw [show t.plan.channels[c] = none from channels c]; rfl
  refine ⟨fun c r hr => ?_, ⟨Census.planesOk_empty h3 h5, fun _ => ?_⟩, State.tight_nil spares⟩
  · rw [channels c] at hr
    cases hr
  · rw [none]
    exact State.exactFor_nil (Census.count_cleared h3 h5)

theorem State.Changes.blank {s t : State} (channels : ∀ c, t.channel c = none)
    (h3 : t.census.plane3 = Vector.replicate 8 []) (h5 : t.census.plane5 = Vector.replicate 8 [])
    (spares : t.spares = Vector.replicate 8 []) : s.Changes t := by
  obtain ⟨held, sharp, tight⟩ := State.blank channels h3 h5 spares
  exact ⟨fun _ => held, fun _ => sharp, fun _ _ => tight⟩

theorem Plan.cleared_get (c : Fin 256) : Plan.cleared.channels[c] = none := by
  unfold Plan.cleared
  simp

theorem State.QuietEvent.changes {s a : State} (h : s.QuietEvent a) : s.Changes a := by
  rcases h.still with still | ⟨c, f, g, e, hold, rfl⟩ | ⟨run, auto, rfl⟩
  · exact .still still
  · have timed : s.Still { s with now := max s.now e } := .of_eq rfl rfl rfl rfl
    have switched : State.Changes { s with now := max s.now e }
        (State.setHold { s with now := max s.now e } c (.unresolved f g)) := .switched hold rfl
    exact ((State.Changes.still timed).trans switched).mark _ _
  · exact .blank Plan.cleared_get rfl rfl rfl

/-- An exchange reset rolls a PLACE back and abandons a REBUILD CENSUS (R143). -/
theorem State.changes_exchange {s : State} (search : s.searchOk) (run auto : Bool) :
    s.Changes (s.beginExchange run auto) := by
  have abandoned : s.Changes s.abandonWork := by
    unfold State.abandonWork
    split
    · next w work => exact (State.Changes.rollback (State.searchOk_iff.1 search w work)).inContext .idle
    · split
      · exact (State.Changes.stale s _).inContext .idle
      · exact .refl s
    · exact (State.Changes.refl s).inContext .idle
    · exact (State.Changes.refl s).inContext .idle
    · exact .refl s
    · exact .refl s
    · exact .refl s
  refine abandoned.trans (.still ?_)
  exact .of_eq rfl rfl rfl rfl

/-- An event on which the arbiter acts, but for a step of a REBUILD. -/
theorem State.OpenEvent.changes {s a : State} (h : s.OpenEvent a) (search : s.searchOk) :
    s.Changes a ∨ ∃ w, s.running = some (.rebuild w) ∧ a = s.rebuildStep w := by
  cases h with
  | take _ => exact .inl (State.changes_taken search)
  | @work w running =>
    cases w with
    | rebuild v => exact .inr ⟨v, running, rfl⟩
    | place v => exact .inl (State.changes_workStep search running nofun)
    | check v => exact .inl (State.changes_workStep search running nofun)
    | upkeep v => exact .inl (State.changes_workStep search running nofun)
    | refill v => exact .inl (State.changes_workStep search running nofun)
    | single => exact .inl (State.changes_workStep search running nofun)
  | sweep z number first stride flags levels =>
    exact .inl (.still ((State.Still.validFrame s z).trans (.sweepFrame _ _ _ _ _ _ _)))
  | answer z i l => exact .inl (.still ((State.Still.validFrame s z).trans (.answer _ _ _ _)))
  | deadline _ =>
    refine .inl (.still (State.Still.trans ?_ (.endProbe _ _ _ _ _ _)))
    exact .of_eq rfl rfl rfl rfl
  | accept _ _ _ => exact .inl (.still (.of_eq rfl rfl rfl rfl))
  | turnAway _ _ _ => exact .inl (.still (.of_eq rfl rfl rfl rfl))
  | switch run auto _ => exact .inl (.still (.of_eq rfl rfl rfl rfl))
  | exchange run auto _ => exact .inl (State.changes_exchange search run auto)

theorem State.OpenEvent.heldOk {s a : State} (h : s.OpenEvent a) (search : s.searchOk) (held : s.heldOk) : a.heldOk := by
  rcases h.changes search with changes | ⟨w, -, rfl⟩
  · exact changes.held held
  · obtain ⟨d, still⟩ := s.rebuildStep_still w
    have counted : State.heldOk { s with census := d } := State.heldOk_of held rfl rfl
    exact (State.Changes.still still).held counted

theorem kept_heldOk : State.Kept fun s => (s.engineOk ∧ s.searchOk) ∧ s.heldOk where
  pending := fun _ _ ok => ok
  idle := fun _ ok => ok
  byte := fun s z b l ok => ⟨kept_searchOk.byte s z b l ok.1, ok.2⟩
  receiver := fun s z l ok => ⟨kept_searchOk.receiver s z l ok.1, ok.2⟩
  quiet := fun s a event ok => ⟨kept_searchOk.quiet s a event ok.1, event.changes.held ok.2⟩
  acts := fun s a event ok => ⟨kept_searchOk.acts s a event ok.1, event.heldOk ok.1.2 ok.2⟩
  powered := fun s ok => ⟨kept_searchOk.powered s ok.1, (State.blank (t := s.powered) Plan.cleared_get rfl rfl rfl).1⟩
  resetEnd := fun s r running ok => by
    refine ⟨kept_searchOk.resetEnd s r running ok.1, ?_⟩
    have still : s.Still (s.resetOver r) := by
      refine State.Still.trans ?_ (.attempt _)
      exact .of_eq rfl rfl rfl rfl
    exact (State.Changes.still still).held ok.2

end Sys2Proof.Machine

open Sys2Proof Sys2Proof.Machine

/-- Settles O8. -/
theorem stepKeepsModelRules : Obligations.StepKeepsModelRules :=
  ⟨fun _ _ ok step => kept_site.step ok step,
    fun _ _ step => ⟨fun ok => kept_cause.step ok step, fun ok => kept_subjects.step ok step⟩,
    fun _ _ ok step => kept_sparesOk.step ok step, fun _ _ ok step => kept_sparesApart.step ok step,
    fun _ _ ok search held step => (kept_heldOk.step ⟨⟨ok, search⟩, held⟩ step).2⟩

end


section
/-! Exact planes while a REBUILD runs (R45 to R48). -/

namespace Sys2Proof.Machine

/-- The planes of a REBUILD hold the frequencies it has added; in its sweep, all of them (R45). -/
def State.counting (s : State) (w : RebuildWork) : Prop :=
  s.census.state = .rebuilding ∧ (w.phase = .add → s.exactFor (s.plan.transmitters.take w.position)) ∧
    (w.phase = .sweep → s.exactFor s.plan.transmitters)

/-- A REBUILD that runs counts, and one is suspended only with RUN 0, so that the arbiter does not resume it. -/
def State.orderly (s : State) : Prop :=
  (∀ w, s.engine.routineContext = .running (.rebuild w) → s.counting w) ∧
    ∀ w, s.engine.routineContext = .suspended (.rebuild w) → s.port.run = false

theorem State.orderly_of {s : State} (h : ∀ w, s.engine.routineContext.work ≠ some (.rebuild w)) : s.orderly := by
  refine ⟨fun w context => absurd ?_ (h w), fun w context => absurd ?_ (h w)⟩
  · rw [context]
    rfl
  · rw [context]
    rfl

theorem State.orderly_idle {s : State} (h : s.engine.routineContext = .idle) : s.orderly :=
  State.orderly_of fun w work => by
    rw [h] at work
    cases work

/-- A state whose routine context holds no REBUILD. -/
theorem State.orderly_of_kind {y : State} {k : Option OrderCode} (other : k ≠ some .rebuildCensus)
    (h : y.engine.routineContext = .idle ∨ ∃ v, y.engine.routineContext.work = some v ∧ v.kind = k) : y.orderly := by
  refine State.orderly_of fun w is => ?_
  rcases h with idle | ⟨v, work, kind⟩
  · rw [idle] at is
    cases is
  · obtain rfl := Option.some.inj (work.symm.trans is)
    exact other kind.symm

theorem State.counting_of {s t : State} {w : RebuildWork} (h : s.counting w) (site : t.site = s.site)
    (held : t.plan.transmitters = s.plan.transmitters) (census : t.census = s.census) : t.counting w := by
  obtain ⟨state, adds, sweeps⟩ := h
  refine ⟨by rw [census]; exact state, fun phase => ?_, fun phase => ?_⟩
  · rw [held]
    exact State.exactFor_congr (adds phase) census site
  · rw [held]
    exact State.exactFor_congr (sweeps phase) census site

/-- A REBUILD at its yield point, with no urgent entry. -/
theorem State.orderly_yields {y : State} {v : RebuildWork} (h : y.counting v) (none : y.engine.urgent = []) :
    (y.yieldWith (.rebuild v)).orderly := by
  have context : (y.yieldWith (.rebuild v)).engine.routineContext =
      if y.port.run = false then .suspended (.rebuild v) else .running (.rebuild v) := by
    show (if y.engine.urgent ≠ [] ∨ y.port.run = false then _ else _) = _
    simp only [none, ne_eq, not_true_eq_false, false_or]
  refine ⟨fun w is => ?_, fun w is => ?_⟩
  · rw [context] at is
    split at is
    · cases is
    · cases is
      exact h
  · rw [context] at is
    split at is
    · next stopped => exact stopped
    · cases is

/-- A REBUILD that begins has added nothing, and its planes are empty. -/
theorem State.startRebuild_orderly {x : State} (none : x.engine.urgent = []) (o : Option Handed) :
    (x.startRebuild o).orderly := by
  refine State.orderly_yields (y := { x with census := x.census.startRebuild }) ⟨rfl, fun _ => ?_, nofun⟩ none
  exact State.exactFor_nil (Census.count_cleared rfl rfl)

/-! ### The steps of a REBUILD -/

/-- The add phase: the planes gain the products of one more frequency (R45). -/
theorem State.exactFor_added {s : State} {n : Nat} {x : Transmitter} (planes : s.census.planesOk)
    (exact : s.exactFor (s.plan.transmitters.take n)) (hx : s.plan.transmitters[n]? = some x)
    (fits : (Census.addAll (s.site.increments x (s.plan.transmitters.take n)) s.census).2 = false) :
    State.exactFor { s with census := (Census.addAll (s.site.increments x (s.plan.transmitters.take n)) s.census).1 }
      (s.plan.transmitters.take (n + 1)) := by
  have room : ∀ i, s.census.count i + (s.site.increments x (s.plan.transmitters.take n)).count i ≤ Config.countLimit := by
    intro i
    by_contra past
    have full := Census.addAll_saturates _ s.census planes ⟨i, Nat.not_le.1 past⟩
    rw [fits] at full
    cases full
  obtain ⟨-, gains⟩ := Census.gains_addAll _ s.census planes room
  have next : (x :: s.plan.transmitters.take n).Perm (s.plan.transmitters.take (n + 1)) := by
    rw [List.take_add_one, hx]
    exact (List.perm_append_singleton x _).symm
  exact State.exactFor.perm (State.exactFor.gains
    (t := { s with census := (Census.addAll (s.site.increments x (s.plan.transmitters.take n)) s.census).1 })
    exact rfl gains) next

theorem State.endRebuild_orderly {x : State} (idle : x.engine.urgentContext = .idle) (v : RebuildWork)
    (outcome : OrderOutcome) (reason : Reason) : (x.endRebuild v outcome reason).orderly := by
  refine State.orderly_idle ?_
  unfold State.endRebuild
  split
  · exact State.conclude_work idle _ _ _ _ _
  · show x.engine.release.routineContext = _
    rw [Engine.release_idle idle]

section
variable {s : State} {w : RebuildWork}

/-- Where a REBUILD ends up: ended with the urgent context IDLE, or at a yield point where it counts. -/
theorem State.rebuildStep_orderly (idle : s.engine.urgentContext = .idle) (none : s.engine.urgent = [])
    (planes : s.census.planesOk) (h : s.counting w) : (s.rebuildStep w).orderly := by
  obtain ⟨state, adds, sweeps⟩ := h
  unfold State.rebuildStep
  split
  · exact State.endRebuild_orderly (x := { s with census := { s.census with state := .valid, cause := .none } }) idle _ _ _
  · next x hx =>
    split
    · next phase =>
      unfold State.rebuildAdd
      dsimp only
      split
      · refine State.endRebuild_orderly ?_ _ _ _
        exact idle
      · next fits =>
        have next := State.exactFor_added planes (adds phase) hx (Bool.eq_false_iff.2 fits)
        obtain ⟨kept, -⟩ := Census.addAll_keeps (s.site.increments x (s.plan.transmitters.take w.position)) s.census
        refine State.orderly_yields (y := { s with
          census := (Census.addAll (s.site.increments x (s.plan.transmitters.take w.position)) s.census).1 })
          ⟨kept.trans state, ?_⟩ none
        unfold RebuildWork.counted
        split
        · exact ⟨fun _ => next, fun sweep => absurd (phase.symm.trans sweep) nofun⟩
        · next last =>
          refine ⟨nofun, fun _ => ?_⟩
          rwa [List.take_of_length_le (Nat.not_lt.1 last)] at next
    · next phase =>
      obtain ⟨still, engine, same⟩ := s.rebuildJudge_keeps w x
      unfold State.rebuildSweep
      dsimp only
      split
      · refine State.orderly_yields (State.counting_of ⟨state, fun add => ?_, fun _ => sweeps phase⟩ still.site
          (congrArg Plan.transmitters still.plan) still.census) (by rw [engine]; exact none)
        exact absurd ((same.trans phase).symm.trans add) nofun
      · exact State.endRebuild_orderly (x := { (s.rebuildJudge w x).1 with
          census := { (s.rebuildJudge w x).1.census with state := .valid, cause := .none } })
          ((congrArg Engine.urgentContext engine).trans idle) _ _ _

/-- A REBUILD that completes leaves exact planes (R48). -/
theorem State.rebuildComplete_sharp {y : State} (planes : y.census.planesOk) (exact : y.exactFor y.plan.transmitters)
    (v : RebuildWork) : (y.rebuildComplete v).sharp := by
  have complete : State.sharp { y with census := { y.census with state := .valid, cause := .none } } :=
    ⟨planes, fun _ => exact⟩
  exact (State.Changes.still (State.endRebuild_still _ v .done .none)).sharp complete

theorem State.rebuildStep_sharp (planes : s.census.planesOk) (h : s.counting w) : (s.rebuildStep w).sharp := by
  obtain ⟨state, adds, sweeps⟩ := h
  unfold State.rebuildStep
  split
  · next done =>
    refine State.rebuildComplete_sharp planes ?_ w
    cases phase : w.phase with
    | sweep => exact sweeps phase
    | add =>
      have all := adds phase
      rwa [List.take_of_length_le (List.getElem?_eq_none_iff.1 done)] at all
  · next x hx =>
    split
    · unfold State.rebuildAdd
      obtain ⟨kept, -, ok⟩ := Census.addAll_keeps (s.site.increments x (s.plan.transmitters.take w.position)) s.census
      dsimp only
      split
      · refine (State.Changes.still (State.endRebuild_still _ w .failed .saturated)).sharp ?_
        exact State.sharp_of_state (s := State.stale _ .saturated) (ok planes) nofun
      · refine State.sharp_of_state (ok planes) ?_
        show (Census.addAll _ s.census).1.state ≠ _
        rw [kept, state]
        exact nofun
    · next phase =>
      obtain ⟨still, -, -⟩ := s.rebuildJudge_keeps w x
      unfold State.rebuildSweep
      dsimp only
      split
      · refine State.sharp_of_state (by
          show (s.rebuildJudge w x).1.census.planesOk
          rw [still.census]
          exact planes) ?_
        show (s.rebuildJudge w x).1.census.state ≠ _
        rw [still.census, state]
        exact nofun
      · refine State.rebuildComplete_sharp (by rw [still.census]; exact planes) ?_ _
        rw [still.plan]
        exact State.exactFor_congr (sweeps phase) still.census still.site

end

end Sys2Proof.Machine
end


section
/-! The census stays exact (R40, R45 to R48), and with it every spare goes on passing (R85, R86). -/

namespace Sys2Proof.Machine

/-! ### The state a step begins in, and the state it leaves -/

/-- What every event of a step keeps: sound orders, exact planes of a VALID census, and, under a condition, spares that
pass. -/
def State.intact (T : Prop) (s : State) : Prop := (s.engineOk ∧ s.searchOk) ∧ s.sharp ∧ (T → s.tight)

/-- A state in which a step begins: no REBUILD is suspended or about to be, and one that runs counts. -/
def State.ready (s : State) : Prop :=
  s.rebuildUndisturbed ∧ ∀ w, s.engine.routineContext = .running (.rebuild w) → s.counting w

section
variable {T : Prop} {s t : State}

theorem State.Changes.intact (h : s.Changes t) (ok : s.intact T) (orders : t.engineOk ∧ t.searchOk) : t.intact T := by
  obtain ⟨-, sharp, tight⟩ := ok
  exact ⟨orders, h.sharp sharp, fun holds => h.tight sharp (tight holds)⟩

/-- The routine context stays, and so does what the planes are held against. -/
theorem State.ready.same (h : s.ready) (context : t.engine.routineContext = s.engine.routineContext)
    (site : t.site = s.site) (held : t.plan.transmitters = s.plan.transmitters) (census : t.census = s.census) :
    t.orderly := by
  obtain ⟨⟨still, -⟩, counting⟩ := h
  refine ⟨fun w is => State.counting_of (counting w (context.symm.trans is)) site held census, fun w is => ?_⟩
  exact absurd (context.symm.trans is) (still w)

theorem State.ready.still (h : s.ready) (k : s.Still t)
    (context : t.engine.routineContext = s.engine.routineContext) : t.orderly :=
  h.same context k.site (congrArg Plan.transmitters k.plan) k.census

theorem State.ready.orderly (h : s.ready) : s.orderly := h.same rfl rfl rfl rfl

/-- A channel's new hold on the frequencies it holds. -/
theorem State.setHold_transmitters {c : Fin 256} {h k : Hold} (hold : s.hold c = some h)
    (same : k.frequencies = h.frequencies) : (s.plan.setHold c k).transmitters = s.plan.transmitters := by
  refine Plan.transmitters_congr fun d => ?_
  rw [s.plan.setHold_get]
  split
  · next here =>
    subst here
    obtain ⟨q, hq, eq⟩ := Option.map_eq_some_iff.1 hold
    rw [show s.plan.channels[d] = some q from hq]
    refine congrArg some ?_
    unfold transmittersOf
    rw [eq, same]
    rfl
  · rfl

theorem State.QuietEvent.orderly {a : State} (h : s.QuietEvent a) (k : s.ready) : a.orderly := by
  cases h with
  | same => exact k.orderly
  | misuse => exact k.same rfl rfl rfl rfl
  | claim => exact k.same rfl rfl rfl rfl
  | give _ _ =>
    refine k.still (.trans ?_ (.attempt _)) (congrArg Engine.routineContext (State.attempt_engine _))
    exact .of_eq rfl rfl rfl rfl
  | notices raw enables => exact k.same rfl rfl rfl rfl
  | write a l => exact k.same rfl rfl rfl rfl
  | frame z => exact k.same rfl rfl rfl rfl
  | crcError z => exact k.same rfl rfl rfl rfl
  | formatError z => exact k.same rfl rfl rfl rfl
  | @timeout z d _ =>
    refine k.still (.trans ?_ (.goStale (.refl { s with now := max s.now d }) z))
      (congrArg Engine.routineContext (State.goStale_engine _ _))
    exact .of_eq rfl rfl rfl rfl
  | @move c f g e hold =>
    have held : (s.plan.setHold c (.unresolved f g)).transmitters = s.plan.transmitters :=
      State.setHold_transmitters hold rfl
    have marked := State.Still.mark (State.setHold { s with now := max s.now e } c (.unresolved f g)) (.channel c)
      unresolvedFlag
    exact k.same (congrArg Engine.routineContext (State.mark_engine _ _ _ _)) marked.site
      ((congrArg Plan.transmitters marked.plan).trans held) marked.census
  | soft run auto _ => exact State.orderly_idle rfl

/-! ### What the arbiter hands out -/

theorem State.arbiter_grants {g : Grant} (h : s.arbiter = some g) :
    s.port.run = true ∧ s.engine.routineContext.isRunning = false := by
  unfold State.arbiter at h
  split at h
  · cases h
  · next free =>
    simp only [Bool.or_eq_true, Bool.not_eq_true', decide_eq_true_eq, not_or, Bool.not_eq_false, Bool.not_eq_true]
      at free
    obtain ⟨⟨run, -⟩, routine⟩ := free
    exact ⟨run, routine⟩

/-- A REBUILD that the arbiter begins counts; it resumes none. -/
theorem State.taken_orderly {g : Grant} (ok : s.engineOk) (none : ∀ w, s.engine.routineContext ≠ .suspended (.rebuild w))
    (h : s.arbiter = some g) : (s.taken g).orderly := by
  have orders := ok
  obtain ⟨-, idle, single, urgentOk, routineOk⟩ := orders
  obtain ⟨-, stopped⟩ := State.arbiter_grants h
  have unheld : ∀ {t : State}, t.engine.routineContext = s.engine.routineContext → t.orderly := fun {t} context => by
    refine ⟨fun w is => ?_, fun w is => absurd (context.symm.trans is) (none w)⟩
    rw [context.symm.trans is] at stopped
    cases stopped
  have released : ∀ {t : State}, t.engine.urgentContext = .idle → t.release.orderly := fun {t} urgent =>
    State.orderly_idle (congrArg Engine.routineContext (Engine.release_idle urgent))
  cases g with
  | takeUrgent e =>
    obtain ⟨-, -, -, l, urgent⟩ := State.arbiter_takeUrgent h
    have kind : e.urgentOk := urgentOk e (by rw [urgent]; exact List.mem_cons_self)
    cases e with
    | order o =>
      obtain ⟨-, permitted⟩ : o.urgent = true ∧ o.code.urgentPermitted = true := kind
      rcases (State.serves o.code o (s.begin true o)).routineContext rfl permitted with ends | same
      · exact State.orderly_idle ends
      · exact unheld same
    | autoMove c f =>
      obtain ⟨urgent, routine⟩ := (State.Attends.autoMove (s.beginEntry true) c f).engine.contexts
      refine unheld ?_
      exact (Engine.release_running urgent).trans routine
    | rebuild => exact kind.elim
    | upkeep b => exact kind.elim
  | takeRoutine e =>
    obtain ⟨-, -, rest, urgent, l, routine⟩ := State.arbiter_takeRoutine h
    have kind : e.routineOk := routineOk e (by rw [routine]; exact List.mem_cons_self)
    cases e with
    | order o =>
      by_cases rebuild : o.code = .rebuildCensus
      · show (o.code.procedure o _).orderly
        rw [rebuild]
        exact State.startRebuild_orderly (x := s.begin false o) urgent (some o)
      · have serves := State.serves o.code o (s.begin false o)
        exact State.orderly_of_kind (fun is => rebuild (Option.some.inj is)) (serves.work idle)
    | autoMove c f => exact kind.elim
    | rebuild =>
      show (s.beginEntry false).takeRebuild.orderly
      unfold State.takeRebuild
      split
      · exact released idle
      · exact State.startRebuild_orderly (x := s.beginEntry false) urgent _
    | upkeep b =>
      show ((s.beginEntry false).startUpkeep b).orderly
      unfold State.startUpkeep
      split
      · exact released idle
      · split
        · exact released idle
        · exact State.orderly_of fun w is => Work.noConfusion (Option.some.inj is)
  | resume w =>
    obtain ⟨-, context⟩ := State.arbiter_resume h
    have work : s.engine.routineContext.work = some w := by rw [context]; rfl
    have works := s.works_resume fun is => single (work.trans (congrArg some is))
    refine State.orderly_of_kind (fun is => ?_) (works.work idle)
    cases w with
    | rebuild v => exact none v context
    | place v => cases is
    | check v => cases is
    | upkeep v => cases is
    | refill v => cases is
    | single => cases is

/-! ### Events -/

theorem State.workStep_orderly {w : Work} (ok : s.engineOk) (planes : s.census.planesOk) (k : s.ready)
    (running : s.running = some w) : (s.workStep w).orderly := by
  obtain ⟨-, idle, single, -⟩ := ok
  have context := State.running_work running
  have work : s.engine.routineContext.work = some w := by rw [context]; rfl
  by_cases other : w.kind = some .rebuildCensus
  · obtain ⟨⟨-, undisturbed⟩, counting⟩ := k
    cases w with
    | rebuild v => exact State.rebuildStep_orderly idle (undisturbed v context) planes (counting v context)
    | place v => cases other
    | check v => cases other
    | upkeep v => cases other
    | refill v => cases other
    | single => cases other
  · exact State.orderly_of_kind other
      ((s.works_step fun is => single (work.trans (congrArg some is))).work idle)

theorem State.exchange_orderly (k : s.ready) (run auto : Bool) : (s.beginExchange run auto).orderly := by
  have abandoned : s.abandonWork.engine.routineContext = .idle ∨ s.abandonWork = s := by
    unfold State.abandonWork
    split
    · exact .inl rfl
    · split
      · exact .inl rfl
      · exact .inr rfl
    · exact .inl rfl
    · exact .inl rfl
    · exact .inr rfl
    · exact .inr rfl
    · exact .inr rfl
  rcases abandoned with idle | same
  · exact State.orderly_idle idle
  · refine k.same ?_ ?_ ?_ ?_
    · show s.abandonWork.engine.routineContext = _
      rw [same]
    · show s.abandonWork.site = _
      rw [same]
    · show s.abandonWork.plan.transmitters = _
      rw [same]
    · show s.abandonWork.census = _
      rw [same]

theorem State.OpenEvent.orderly {a : State} (h : s.OpenEvent a) (ok : s.engineOk) (planes : s.census.planesOk)
    (k : s.ready) : a.orderly := by
  cases h with
  | take granted => exact State.taken_orderly ok k.1.1 granted
  | work running => exact State.workStep_orderly ok planes k running
  | sweep z number first stride flags levels =>
    have attends := (State.Attends.validFrame s z).trans (.sweepFrame _ z number first stride flags levels)
    exact k.still ((State.Still.validFrame s z).trans (.sweepFrame _ _ _ _ _ _ _)) attends.engine.contexts.2
  | answer z i l =>
    exact k.still ((State.Still.validFrame s z).trans (.answer _ _ _ _))
      (congrArg Engine.routineContext (State.answer_engine _ z i l))
  | deadline _ =>
    refine k.still (State.Still.trans ?_ (.endProbe _ _ _ _ _ _))
      (congrArg Engine.routineContext (State.endProbe_engine _ _ _ _ _ _))
    exact .of_eq rfl rfl rfl rfl
  | @accept n o _ _ _ =>
    refine k.same ?_ rfl rfl rfl
    show (s.engine.join o).routineContext = _
    unfold Engine.join
    split <;> rfl
  | turnAway _ _ _ => exact k.same rfl rfl rfl rfl
  | switch run auto _ => exact k.same rfl rfl rfl rfl
  | exchange run auto _ => exact State.exchange_orderly k run auto

theorem State.OpenEvent.intact {a : State} (h : s.OpenEvent a) (ok : s.intact T) (k : s.ready) : a.intact T := by
  obtain ⟨orders, sharp, tight⟩ := ok
  have after : a.engineOk ∧ a.searchOk := ⟨h.engineOk orders.1, h.searchOk orders.1 orders.2⟩
  rcases h.changes orders.2 with changes | ⟨w, running, rfl⟩
  · exact changes.intact ⟨orders, sharp, tight⟩ after
  · obtain ⟨d, still⟩ := s.rebuildStep_still w
    refine ⟨after, State.rebuildStep_sharp sharp.1 (k.2 w (State.running_work running)), fun holds b => ?_⟩
    exact State.tightAt_of (tight holds b) still.site (congrArg Plan.transmitters still.plan) (still.spares b)

/-! ### Steps -/

/-- What the arbiter goes on to hand out (R134). -/
theorem State.arbitrate_intact (ok : s.intact T) (k : s.orderly) : s.arbitrate.intact T ∧ s.arbitrate.orderly := by
  refine State.arbitrate_induct (P := fun t => t.intact T ∧ t.orderly) (fun t g ⟨ok, k⟩ granted => ?_) s ⟨ok, k⟩
  have event : t.OpenEvent (t.taken g) := .take granted
  obtain ⟨run, -⟩ := State.arbiter_grants granted
  have none : ∀ w, t.engine.routineContext ≠ .suspended (.rebuild w) := fun w is => by
    rw [k.2 w is] at run
    cases run
  rw [State.handOut_eq]
  exact ⟨(State.changes_taken ok.1.2).intact ok (kept_searchOk.acts t _ event ok.1), State.taken_orderly ok.1.1 none granted⟩

theorem State.Outcomes.intact (h : s.Outcomes t) (ok : s.intact T) (k : s.ready) : t.intact T ∧ t.orderly := by
  cases h with
  | nothing => exact ⟨ok, k.orderly⟩
  | quiet event => exact ⟨event.changes.intact ok (kept_searchOk.quiet s _ event ok.1), event.orderly k⟩
  | @acts a event =>
    have after : (s.finish a).intact T := event.intact ok k
    exact State.arbitrate_intact after (event.orderly ok.1.1 ok.2.1.1 k)
  | powered =>
    obtain ⟨-, sharp, tight⟩ := State.blank (t := s.powered) Plan.cleared_get rfl rfl rfl
    exact ⟨⟨kept_searchOk.powered s ok.1, sharp, fun _ => tight⟩, State.orderly_idle rfl⟩
  | @resetEnd r running =>
    have still : s.Still (s.resetOver r) := by
      refine State.Still.trans ?_ (.attempt _)
      exact .of_eq rfl rfl rfl rfl
    exact ⟨(State.Changes.still still).intact ok (kept_searchOk.resetEnd s r running ok.1),
      (k.still still (congrArg Engine.routineContext (State.attempt_engine _)) :)⟩

theorem State.exec_intact {c : Instr} (ok : s.intact T) (k : s.ready) (h : exec c s = .next t) :
    t.intact T ∧ t.orderly := (State.outcomes_exec h).intact ok k

theorem State.step_intact (ok : s.intact T) (k : s.ready) (h : step s = .next t) : t.intact T ∧ t.orderly := by
  unfold Machine.step at h
  split at h
  · next c l _ => exact State.exec_intact (s := { s with pending := l }) ok k h
  · unfold tick at h
    split at h
    · exact State.exec_intact ok k h
    · split at h
      · next z b l _ =>
        unfold Machine.stepByte at h
        dsimp only at h
        split at h
        · cases h
          exact ⟨⟨kept_searchOk.byte s z b l ok.1, ok.2⟩, k.orderly⟩
        · split at h
          · next c after _ _ u run =>
            cases h
            have taken : (s.takeByte z b l).intact T := ⟨kept_searchOk.byte s z b l ok.1, ok.2⟩
            obtain ⟨⟨orders, rest⟩, counts⟩ := State.exec_intact taken k run
            exact ⟨⟨kept_searchOk.receiver u z after orders, rest⟩, counts⟩
          · cases h
          · cases h
      · cases h
        exact ⟨ok, k.orderly⟩

end

end Sys2Proof.Machine

end


section
/-! The census stays exact: the paths of a plan change, the add phase of a REBUILD, and every step (R38 to R40, R45). -/

namespace Sys2Proof.Machine

/-- A step of the add phase adds one frequency, unless a count is full (R41, R45). -/
theorem State.rebuildAdd_exact {s : State} {w : RebuildWork} {x : Transmitter} (planes : s.census.planesOk)
    (hx : s.plan.transmitters[w.position]? = some x) (exact : s.exactFor (s.plan.transmitters.take w.position))
    (going : (s.rebuildAdd w x).census.state ≠ .stale) :
    (s.rebuildAdd w x).exactFor (s.plan.transmitters.take (w.position + 1)) := by
  cases full : (Census.addAll (s.site.increments x (s.plan.transmitters.take w.position)) s.census).2 with
  | false =>
    rw [State.rebuildAdd_fits full]
    exact State.exactFor_added planes exact hx full
  | true =>
    refine absurd ?_ going
    unfold State.rebuildAdd
    dsimp only
    rw [if_pos full, (State.endRebuild_still _ w .failed .saturated).census]
    rfl

theorem State.ready_of {s : State} (undisturbed : s.rebuildUndisturbed) (exact : s.censusExact) : s.ready :=
  ⟨undisturbed, exact.2⟩

theorem State.censusExact_of {s : State} (sharp : s.sharp) (k : s.orderly) : s.censusExact := ⟨sharp.2, k.1⟩

end Sys2Proof.Machine

open Sys2Proof Sys2Proof.Machine

/-- Settles O24. -/
theorem censusStaysExact : Obligations.CensusStaysExact := by
  refine ⟨fun s x _ planes mem exact after => State.added_exact planes mem (fun _ => exact) after,
    fun s x valid planes exact => State.removed_exact planes valid exact, fun s w x runs planes phase hx exact => ?_,
    fun s t ok search planes undisturbed exact step => ?_⟩
  · refine ⟨s.finish (s.rebuildAdd w x), exec_rebuildStep runs.1 (State.rebuildStep_add phase hx), fun going => ?_⟩
    exact State.rebuildAdd_exact planes hx exact going
  · have sharp : s.sharp := ⟨planes, exact.1⟩
    have before : s.intact s.sparesPass := ⟨⟨ok, search⟩, sharp, (State.sparesPass_iff sharp).1⟩
    obtain ⟨⟨-, after, tight⟩, counts⟩ := State.step_intact before (State.ready_of undisturbed exact) step
    exact ⟨State.censusExact_of after counts, fun pass => (State.sparesPass_iff after).2 (tight pass)⟩

end
